-- ==== Sys2Proof/Word.lean ====
section
/-! DEFINITION. The word types of the MA4120 (spec 00, section 0.6: keys, tokens, ticks, terms, nonces, generations). -/

namespace Sys2Proof

/-- One byte of a frame, a response or an image. -/
abbrev Byte := BitVec 8

/-- The 32-bit name of a resource. 0x00000000 and 0xFFFFFFFF are reserved (00, section 0.6). -/
abbrev Key := BitVec 32

/-- A fencing token (R25); 0 stands for "no token". -/
abbrev Token := BitVec 48

/-- An absolute tick count of the Timebase (R89). -/
abbrev Tick := BitVec 40

/-- A term: a length in ticks (00, section 0.6). -/
abbrev Term := BitVec 24

/-- A record's generation, a count modulo 2^32 (R4). -/
abbrev Gen := BitVec 32

/-- A session nonce (R67). -/
abbrev Nonce := BitVec 16

/-- The client field of a frame that names no client (00, section 0.6). -/
abbrev noClient : Byte := 0xFF

end Sys2Proof
end

