-- ==== Sys2Proof/Machine/Bytes.lean ====
section
/-! DEFINITION. Byte order and checksums: fields most significant byte first (R187), the CRC-8 of
frames (R187) and the CRC-32 of the audit digest (R157). -/

namespace Sys2Proof.Machine

/-- The `n` low bytes of a number, most significant first (R187). -/
def beBytes : Nat → Nat → List Byte
  | 0, _ => []
  | n + 1, v => BitVec.ofNat 8 (v / 256 ^ n) :: beBytes n v

/-- The number that bytes make, most significant first (R187). -/
def ofBe (bs : List Byte) : Nat := bs.foldl (fun acc b => acc * 256 + b.toNat) 0

/-- The number in bytes `i` to `i + n - 1`. -/
def field (bs : List Byte) (i n : Nat) : Nat := ofBe ((bs.drop i).take n)

/-- The byte at place `i`. -/
def byteAt (bs : List Byte) (i : Nat) : Byte := bs.getD i 0

/-- `on` is 1 and `off` is 0 in a frame (R190). -/
def onOff (b : Bool) : Byte := if b then 1 else 0

/-- One of the eight register steps of the CRC-8 (R187). -/
def crc8Bit (r : Byte) : Byte := if r.msb then (r <<< 1) ^^^ 0x07 else r <<< 1

/-- One byte into the CRC-8 register (R187). -/
def crc8Byte (r b : Byte) : Byte :=
  crc8Bit (crc8Bit (crc8Bit (crc8Bit (crc8Bit (crc8Bit (crc8Bit (crc8Bit (r ^^^ b))))))))

/-- The CRC-8 with polynomial x^8 + x^2 + x + 1, register from 0x00, no reflection (R187). -/
def crc8 (bs : List Byte) : Byte := bs.foldl crc8Byte 0

/-- One of the eight register steps of the CRC-32 (R157). -/
def crc32Bit (r : BitVec 32) : BitVec 32 :=
  if r.getLsbD 0 then (r >>> 1) ^^^ 0xEDB88320#32 else r >>> 1

/-- One byte into the CRC-32 register (R157). -/
def crc32Byte (r : BitVec 32) (b : Byte) : BitVec 32 :=
  crc32Bit (crc32Bit (crc32Bit (crc32Bit (crc32Bit (crc32Bit (crc32Bit
    (crc32Bit (r ^^^ b.setWidth 32))))))))

/-- Bytes folded into the digest register, in order (R157). -/
def crc32Fold (r : BitVec 32) (bs : List Byte) : BitVec 32 := bs.foldl crc32Byte r

/-- The register at the start of a walk (R157). -/
abbrev crc32Start : BitVec 32 := 0xFFFFFFFF#32

/-- The digest that a register finishes to (R157). -/
def crc32Finish (r : BitVec 32) : BitVec 32 := r ^^^ 0xFFFFFFFF#32

end Sys2Proof.Machine
end

