-- ==== Sys2Proof/Config.lean ====
section
/-! DEFINITION. The capacities of the MA4120 (spec 00, section 0.7) and the free values: what the
spec leaves without a value is a constant with no body, so that no proof can see it. -/

namespace Sys2Proof.Config

/-- Record slots (R133). -/
abbrev slots : Nat := 1024
/-- Words of a record slot (R133). -/
abbrev slotWords : Nat := 10
/-- Words of one copy of the zone map (R135). -/
abbrev zoneWords : Nat := 7
/-- Client sessions (R65). -/
abbrev sessions : Nat := 16
/-- Waiter Pool entries (R45). -/
abbrev waiters : Nat := 128
/-- Waiters per client (R31). -/
abbrev waitsPerClient : Nat := 8
/-- Notices per session queue (R106). -/
abbrev noticesPerQueue : Nat := 16
/-- The most tokens one commit can issue (R26, R140). -/
abbrev tokensPerCommit : Nat := 16
/-- The scrub interval after a main reset (R151). -/
abbrev scrubInterval : Byte := 16

/-- FREE VALUE (log 5): the deadline that a tick and a length make when their sum is beyond the
40-bit count. The spec states no value ("the count does not wrap in service", 00 section 0.6). -/
opaque tickPastEnd : Tick → Nat → Tick

/-- FREE VALUE (log 6): the counter's value after a token past the end of its range (R26: "the counter
does not reach its end in service"). -/
opaque tokenPastEnd : Token → Token

/-- FREE VALUE (log 13): the zone byte that LOOKUP reports for a quarantined key while the zone map
cannot be read (R16 with R136). -/
opaque lostZone : Key → Byte

/-- FREE VALUE (log 15): the bytes of the trap fields of STORE STATUS while the trap is empty (R146). -/
opaque emptyTrapByte : Nat → Byte

/-- FREE VALUE (log 24): the state byte SESSION STATUS would give for a SETTLING session (R79, R190
list no code for it). -/
opaque settlingCode : Byte

/-- FREE VALUE (log 25): the REVIVED byte of a REATTACH that revived more than 255 grants (R83). -/
opaque revivedOver : Nat → Byte

end Sys2Proof.Config
end

