-- ==== Sys2Proof/Syntax.lean ====
section
/-! DEFINITION. The commands of the MA4120: one constructor of `Instr` for each row of
spec/opcode_table.json, with the operands that the row's step takes from outside. -/

namespace Sys2Proof

/-- The three host ports (R176). -/
inductive PortId where
  | a | b | c
  deriving DecidableEq, Repr

/-- A sound command frame without its LEN, CMD and CRC bytes, which the command itself gives (R187).
`args` are the bytes 5 to LEN − 2, so LEN is `6 + args.length`. -/
structure Frame where
  port   : PortId
  client : Byte
  nonce  : Nonce
  args   : List Byte
  deriving DecidableEq, Repr

/-- The two kinds of deadline of a session (R92): of an OPEN and of a SUSPECT session. -/
inductive SessKind where
  | heartbeat | grace
  deriving DecidableEq, Repr

/-- What a schedule entry is for (R92). -/
inductive Ref where
  | grant (slot : Nat) (token : Token)
  | waiter (id : Nat)
  | session (client : Nat)
  deriving DecidableEq, Repr

/-- The edges that make up a main reset: VDD returns, RESET# falls, RESET# rises (R165; 10,
introduction: "Each return of VDD, and each release of RESET#, is a main reset"). -/
inductive ResetEdge where
  | vddReturn | resetLow | resetHigh
  deriving DecidableEq, Repr

/-- The work in progress that a loss of VDD or a RESET# stops (R166). -/
inductive Work where
  | idle
  | frame
  | directoryEvent
  | sessionEvent
  | lapse (kind : SessKind) (client : Nat)
  | scrubStep
  | auditStep
  | sweep
  deriving DecidableEq, Repr

/-- The commands. -/
inductive Instr where
  | info (f : Frame)
  | time (f : Frame)
  | openSession (f : Frame)
  | close (f : Frame)
  | ping (f : Frame)
  | reattach (f : Frame)
  | sessionStatus (f : Frame)
  | create (f : Frame)
  | retire (f : Frame)
  | lookup (f : Frame)
  | enumerate (f : Frame)
  | acquire (f : Frame)
  | acquireSet (f : Frame)
  | renew (f : Frame)
  | release (f : Frame)
  | downgrade (f : Frame)
  | cancelWait (f : Frame)
  | fetchNotices (f : Frame)
  | attention (f : Frame)
  | zoneSet (f : Frame)
  | zoneFreeze (f : Frame)
  | zoneRead (f : Frame)
  | forceRelease (f : Frame)
  | dismiss (f : Frame)
  | wipe (f : Frame)
  | auditStart (f : Frame)
  | auditSuspend (f : Frame)
  | auditResume (f : Frame)
  | auditRead (f : Frame)
  | storeStatus (f : Frame)
  | storeClear (f : Frame)
  | scrubControl (f : Frame)
  | reclaim (f : Frame)
  | quarantineList (f : Frame)
  /-- A sound frame whose CMD byte is no code of R188. -/
  | unknownCommand (cmd : Byte) (f : Frame)
  /-- `address` is the 7-bit I2C address, looked at on port C only; `leading` is false for a read of
  port C with no leading byte; `count` bytes are clocked after the leading byte (R177, R178). -/
  | statusRead (port : PortId) (address : BitVec 7) (leading : Bool) (count : Nat)
  | responseRead (port : PortId) (address : BitVec 7) (count : Nat)
  | firstFrameByte (port : PortId) (address : BitVec 7) (byte : Byte)
  /-- The frame's further bytes and the end of the transaction (R179, R180). -/
  | frameEnd (port : PortId) (more : List Byte)
  | grantExpiryEvent (slot : Nat) (token : Token) (deadline : Tick)
  | waitDeadlineEvent (waiter : Nat) (deadline : Tick)
  | heartbeatEvent (client : Nat) (deadline : Tick)
  | graceEvent (client : Nat) (deadline : Tick)
  | lapseRequest (kind : SessKind) (client : Nat)
  | entryFallsDue (ref : Ref)
  /-- `cycles` cycles of the 32.768 kHz crystal (R89); 128 of them are one tick. -/
  | timebaseAdvance (cycles : Nat)
  | scrubStepPending
  | scrubStep
  | auditStep
  /-- `supsel` is the level of SUPSEL[1:0] should VDD be present and a main reset follow (R164). -/
  | retainedPor (supsel : BitVec 2)
  | vbatLoss
  /-- `writes` is the number of word writes that the take in progress completed (R166). -/
  | vddLoss (work : Work) (writes : Nat)
  | mainReset (edge : ResetEdge) (supsel : BitVec 2) (work : Work) (writes : Nat)
  | restartSweep
  deriving DecidableEq, Repr

end Sys2Proof
end

