-- ==== Sys2Proof/WellFormed.lean ====
section
/-! DEFINITION. Which commands are well formed: operands inside the ranges the spec gives them. -/

namespace Sys2Proof

/-- The CMD codes of R188. -/
def commandCodes : List Byte :=
  [0x01, 0x02, 0x10, 0x11, 0x12, 0x13, 0x14, 0x20, 0x21, 0x22, 0x23, 0x30, 0x31, 0x32, 0x33, 0x34,
   0x38] ++
  [0x40, 0x41, 0x80, 0x81, 0x82, 0x84, 0x85, 0x86, 0x88, 0x89, 0x8A, 0x8B, 0x8C, 0x8D, 0x8E, 0x8F,
   0x90]

/-- LEN is at most 64 (R187). -/
def Frame.wf (f : Frame) : Bool := f.args.length ≤ 58

/-- A reference inside its ranges (R92). -/
def Ref.wf : Ref → Bool
  | .grant slot token => slot < Config.slots && token != 0
  | .waiter id => id < Config.waiters
  | .session client => client < Config.sessions

/-- A take in progress that names a session names one of the 16. -/
def Work.wf : Work → Bool
  | .lapse _ client => client < Config.sessions
  | .idle => true
  | .frame => true
  | .directoryEvent => true
  | .sessionEvent => true
  | .scrubStep => true
  | .auditStep => true
  | .sweep => true

/-- A transaction on port C carries an address of the port's range (R178); SPI ports have none. -/
def addressWf : PortId → BitVec 7 → Bool
  | .c, address => 0x3C ≤ address && address ≤ 0x3F
  | .a, _ => true
  | .b, _ => true

/-- The well-formed commands. -/
def Instr.wf : Instr → Bool
  | .info f => f.wf
  | .time f => f.wf
  | .openSession f => f.wf
  | .close f => f.wf
  | .ping f => f.wf
  | .reattach f => f.wf
  | .sessionStatus f => f.wf
  | .create f => f.wf
  | .retire f => f.wf
  | .lookup f => f.wf
  | .enumerate f => f.wf
  | .acquire f => f.wf
  | .acquireSet f => f.wf
  | .renew f => f.wf
  | .release f => f.wf
  | .downgrade f => f.wf
  | .cancelWait f => f.wf
  | .fetchNotices f => f.wf
  | .attention f => f.wf
  | .zoneSet f => f.wf
  | .zoneFreeze f => f.wf
  | .zoneRead f => f.wf
  | .forceRelease f => f.wf
  | .dismiss f => f.wf
  | .wipe f => f.wf
  | .auditStart f => f.wf
  | .auditSuspend f => f.wf
  | .auditResume f => f.wf
  | .auditRead f => f.wf
  | .storeStatus f => f.wf
  | .storeClear f => f.wf
  | .scrubControl f => f.wf
  | .reclaim f => f.wf
  | .quarantineList f => f.wf
  | .unknownCommand cmd f => f.wf && !commandCodes.contains cmd
  | .statusRead p a _ _ => addressWf p a
  | .responseRead p a _ => addressWf p a
  | .firstFrameByte p a _ => addressWf p a
  | .frameEnd _ _ => true
  | .grantExpiryEvent slot token _ => Ref.wf (.grant slot token)
  | .waitDeadlineEvent id _ => Ref.wf (.waiter id)
  | .heartbeatEvent c _ => Ref.wf (.session c)
  | .graceEvent c _ => Ref.wf (.session c)
  | .lapseRequest _ c => Ref.wf (.session c)
  | .entryFallsDue r => r.wf
  | .timebaseAdvance _ => true
  | .scrubStepPending => true
  | .scrubStep => true
  | .auditStep => true
  | .retainedPor _ => true
  | .vbatLoss => true
  | .vddLoss w _ => w.wf
  | .mainReset _ _ w _ => w.wf
  | .restartSweep => true

end Sys2Proof
end

