-- ==== Sys2Proof/Decode.lean ====
section
/-! DEFINITION. The encodings. spec/opcode_table.json gives no row any bits, so `decodeTableWord` spells no
command. Command frames have the encoding of R187 and R188: `decodeFrame` reads the bytes of one,
`encodeFrame` writes them. -/

namespace Sys2Proof
open Machine

/-- No row of the table gives bits: no word spells a command. -/
def decodeTableWord (_nbits _w : Nat) : Option Instr := none

/-- The command that a CMD code of R188 names; a code that is not listed names UNKNOWN_COMMAND. -/
def commandOf (cmd : Byte) (f : Frame) : Instr :=
  match cmd.toNat with
  | 0x01 => .info f
  | 0x02 => .time f
  | 0x10 => .openSession f
  | 0x11 => .close f
  | 0x12 => .ping f
  | 0x13 => .reattach f
  | 0x14 => .sessionStatus f
  | 0x20 => .create f
  | 0x21 => .retire f
  | 0x22 => .lookup f
  | 0x23 => .enumerate f
  | 0x30 => .acquire f
  | 0x31 => .acquireSet f
  | 0x32 => .renew f
  | 0x33 => .release f
  | 0x34 => .downgrade f
  | 0x38 => .cancelWait f
  | 0x40 => .fetchNotices f
  | 0x41 => .attention f
  | 0x80 => .zoneSet f
  | 0x81 => .zoneFreeze f
  | 0x82 => .zoneRead f
  | 0x84 => .forceRelease f
  | 0x85 => .dismiss f
  | 0x86 => .wipe f
  | 0x88 => .auditStart f
  | 0x89 => .auditSuspend f
  | 0x8A => .auditResume f
  | 0x8B => .auditRead f
  | 0x8C => .storeStatus f
  | 0x8D => .storeClear f
  | 0x8E => .scrubControl f
  | 0x8F => .reclaim f
  | 0x90 => .quarantineList f
  | _ => .unknownCommand cmd f

/-- The CMD code and the frame of a frame command (R188); none for the other commands. -/
def frameOf : Instr → Option (Byte × Frame)
  | .info f => some (0x01, f)
  | .time f => some (0x02, f)
  | .openSession f => some (0x10, f)
  | .close f => some (0x11, f)
  | .ping f => some (0x12, f)
  | .reattach f => some (0x13, f)
  | .sessionStatus f => some (0x14, f)
  | .create f => some (0x20, f)
  | .retire f => some (0x21, f)
  | .lookup f => some (0x22, f)
  | .enumerate f => some (0x23, f)
  | .acquire f => some (0x30, f)
  | .acquireSet f => some (0x31, f)
  | .renew f => some (0x32, f)
  | .release f => some (0x33, f)
  | .downgrade f => some (0x34, f)
  | .cancelWait f => some (0x38, f)
  | .fetchNotices f => some (0x40, f)
  | .attention f => some (0x41, f)
  | .zoneSet f => some (0x80, f)
  | .zoneFreeze f => some (0x81, f)
  | .zoneRead f => some (0x82, f)
  | .forceRelease f => some (0x84, f)
  | .dismiss f => some (0x85, f)
  | .wipe f => some (0x86, f)
  | .auditStart f => some (0x88, f)
  | .auditSuspend f => some (0x89, f)
  | .auditResume f => some (0x8A, f)
  | .auditRead f => some (0x8B, f)
  | .storeStatus f => some (0x8C, f)
  | .storeClear f => some (0x8D, f)
  | .scrubControl f => some (0x8E, f)
  | .reclaim f => some (0x8F, f)
  | .quarantineList f => some (0x90, f)
  | .unknownCommand cmd f => some (cmd, f)
  | .statusRead _ _ _ _ => none
  | .responseRead _ _ _ => none
  | .firstFrameByte _ _ _ => none
  | .frameEnd _ _ => none
  | .grantExpiryEvent _ _ _ => none
  | .waitDeadlineEvent _ _ => none
  | .heartbeatEvent _ _ => none
  | .graceEvent _ _ => none
  | .lapseRequest _ _ => none
  | .entryFallsDue _ => none
  | .timebaseAdvance _ => none
  | .scrubStepPending => none
  | .scrubStep => none
  | .auditStep => none
  | .retainedPor _ => none
  | .vbatLoss => none
  | .vddLoss _ _ => none
  | .mainReset _ _ _ _ => none
  | .restartSweep => none

/-- Frame validation, the three checks of R180: LEN is 6 to 64, the bytes received are LEN, the last
byte is the CRC-8 of the bytes before it. `received` counts every byte of the write. -/
def frameSound (buf : List Byte) (received : Nat) : Bool :=
  let len := (byteAt buf 0).toNat
  (6 ≤ len && len ≤ 64) && (received == len && buf.length == len) &&
    byteAt buf (len - 1) == crc8 (buf.take (len - 1))

/-- The command that the bytes of a sound frame carry (R187, R188). -/
def decodeFrame (port : PortId) (buf : List Byte) : Option Instr :=
  if frameSound buf buf.length then
    some (commandOf (byteAt buf 1)
      { port := port, client := byteAt buf 2, nonce := BitVec.ofNat 16 (field buf 3 2),
        args := (buf.drop 5).dropLast })
  else none

/-- The bytes of a frame but for the CRC (R187). -/
def frameBody (cmd : Byte) (f : Frame) : List Byte :=
  BitVec.ofNat 8 (6 + f.args.length) :: cmd :: f.client :: (beBytes 2 f.nonce.toNat ++ f.args)

/-- The bytes of a frame (R187). -/
def frameBytes (cmd : Byte) (f : Frame) : List Byte :=
  frameBody cmd f ++ [crc8 (frameBody cmd f)]

/-- The bytes of the frame that a frame command is (R187, R188). -/
def encodeFrame (i : Instr) : Option (List Byte) :=
  (frameOf i).map fun p => frameBytes p.1 p.2

end Sys2Proof
end

