-- ==== Sys2Proof/Machine/Tab.lean ====
section
/-! DEFINITION. Tables with Nat keys, held in ONE canonical form: keys strictly rising and, in a table with a
default, no entry equal to the default. Equal tables are equal lists. -/

namespace Sys2Proof.Machine

/-- A table: entries by rising key. -/
abbrev Tab (α : Type) := List (Nat × α)

variable {α : Type}

/-- The entry of a key. -/
def Tab.find? : Tab α → Nat → Option α
  | [], _ => none
  | (k, v) :: t, n => if k = n then some v else Tab.find? t n

/-- The table without a key. -/
def Tab.del : Tab α → Nat → Tab α
  | [], _ => []
  | (k, v) :: t, n => if k = n then t else (k, v) :: Tab.del t n

/-- The table with a key's entry set. -/
def Tab.put : Tab α → Nat → α → Tab α
  | [], n, x => [(n, x)]
  | (k, v) :: t, n, x =>
    if n < k then (n, x) :: (k, v) :: t
    else if k = n then (n, x) :: t
    else (k, v) :: Tab.put t n x

/-- The entry of a key, in a table whose unlisted keys read as `d`. -/
def Tab.get (d : α) (t : Tab α) (n : Nat) : α := (Tab.find? t n).getD d

/-- Sets a key in a table whose unlisted keys read as `d`: setting `d` removes the entry. -/
def Tab.set [DecidableEq α] (d : α) (t : Tab α) (n : Nat) (x : α) : Tab α :=
  if x = d then Tab.del t n else Tab.put t n x

/-- Keys strictly rising, each at least `lo`. -/
def Tab.risingFrom : Nat → Tab α → Bool
  | _, [] => true
  | lo, (k, _) :: t => lo ≤ k && Tab.risingFrom (k + 1) t

/-- Keys strictly rising. -/
def Tab.rising (t : Tab α) : Bool := Tab.risingFrom 0 t

/-- The canonical form of a table with default `d`. -/
def Tab.wf [DecidableEq α] (d : α) (t : Tab α) : Bool :=
  Tab.rising t && t.all fun e => decide (e.2 ≠ d)

end Sys2Proof.Machine
end

