-- ==== Sys2Proof/Machine/State.lean ====
section
/-! DEFINITION. The state of the MA4120 as plain data: every register, buffer, queue, counter, mode and pin that
the spec gives the part, and the queue of commands. INVENTORY.md lists each with its rule. -/

namespace Sys2Proof.Machine

/-! ### Code tables (R190) -/

/-- The mode of a grant or a request (R21). -/
inductive Mode where
  | exclusive | shared
  deriving DecidableEq, Repr

/-- The state of a grant (R22). -/
inductive GState where
  | live | orphaned
  deriving DecidableEq, Repr

/-- The record state (R2). -/
inductive RecState where
  | vacant | heldExclusive | heldShared | quarantined
  deriving DecidableEq, Repr

/-- How a record was made (R3). -/
inductive Persist where
  | pinned | transient
  deriving DecidableEq, Repr

/-- The state of a session (R66). -/
inductive SessState where
  | free | opened | suspect | lapsed | settling
  deriving DecidableEq, Repr

/-- The settle action (R65). -/
inductive Action where
  | none | release | orphan | revive
  deriving DecidableEq, Repr

/-- The lapse policy (R65). -/
inductive Policy where
  | release | hold
  deriving DecidableEq, Repr

/-- The kind of a notice (R105). -/
inductive NoticeKind where
  | granted | expired | waitExpired | waitCancelled | revoked
  deriving DecidableEq, Repr

/-- The cause of a notice (R104). -/
inductive Cause where
  | none | force | quarantine
  deriving DecidableEq, Repr

/-- The state of a port (R176). -/
inductive PortState where
  | idle | receiving | frameHeld | executing | responseReady
  deriving DecidableEq, Repr

/-- The state of the audit context (R153). -/
inductive AuditState where
  | idle | running | suspended | done | aborted
  deriving DecidableEq, Repr

/-- Why an audit was ended (R153). -/
inductive AbortReason where
  | none | range | wipe | reset
  deriving DecidableEq, Repr

/-- The power state (R163). -/
inductive PowerState where
  | off | retainedOnly | restarting | ready
  deriving DecidableEq, Repr

/-- The kind of a schedule entry (R92). -/
inductive Kind where
  | grantExpiry | waitDeadline | heartbeat | grace
  deriving DecidableEq, Repr

/-- What the check bits of a stored word say (R133): good, one bit in error, two bits in error. -/
inductive Ecc where
  | good | single | double
  deriving DecidableEq, Repr

/-- Where a store error was found (R145). -/
inductive TrapArea where
  | record | control | intent
  deriving DecidableEq, Repr

/-! ### Records, grants and waiters -/

/-- A grant (R21). `client` is 0 to 15. -/
structure Grant where
  client : Nat
  mode   : Mode
  gstate : GState
  token  : Token
  expiry : Tick
  term   : Term
  deriving DecidableEq, Repr

/-- A waiter (R45). -/
structure Waiter where
  client   : Nat
  slot     : Nat
  mode     : Mode
  term     : Term
  deadline : Tick
  deriving DecidableEq, Repr

/-! ### The Retained Store -/

/-- Words stored together: their content and the check-bit condition of each word, in word order. -/
structure Block (α : Type) where
  val : α
  ecc : List Ecc
  deriving DecidableEq, Repr

/-- Word 0 of a slot, the identity word (R134). `key` is none where it is marked unknown. -/
structure IdWord where
  inUse   : Bool
  key     : Option Key
  state   : RecState
  zone    : BitVec 2
  persist : Persist
  defTerm : Term
  deriving DecidableEq, Repr

/-- Word 1 of a slot (R134). -/
structure LimWord where
  share   : Nat
  maxTerm : Term
  gen     : Gen
  deriving DecidableEq, Repr

/-- The head word of a grant place; token 0 marks the place empty (R134). -/
structure HeadWord where
  client : Nat
  mode   : Mode
  gstate : GState
  token  : Token
  deriving DecidableEq, Repr

/-- The second word of a grant place (R134). -/
structure TailWord where
  expiry : Tick
  term   : Term
  deriving DecidableEq, Repr

/-- A grant place of two words (R134). -/
structure GrantPlace where
  head : HeadWord
  tail : TailWord
  deriving DecidableEq, Repr

/-- The content of a slot's ten words (R134): words 2 to 9 are the four grant places. -/
structure SlotImg where
  ident : IdWord
  lim   : LimWord
  g1    : GrantPlace
  g2    : GrantPlace
  g3    : GrantPlace
  g4    : GrantPlace
  deriving DecidableEq, Repr

/-- The retained fields of a session entry (R65). -/
structure SessEntry where
  state     : SessState
  action    : Action
  port      : Option PortId
  nonce     : Nonce
  hbTerm    : Term
  policy    : Policy
  attention : Bool
  waitsHeld : Bool
  waitsLost : Bool
  deriving DecidableEq, Repr

/-- A zone boundary (R116). -/
structure Boundary where
  on  : Bool
  key : Key
  deriving DecidableEq, Repr

/-- The attribute set of a zone (R116). `supOnly` is create right SUPERVISOR. -/
structure ZoneAttr where
  supOnly    : Bool
  autoCreate : Bool
  waits      : Bool
  share      : Nat
  defTerm    : Term
  maxTerm    : Term
  deriving DecidableEq, Repr

/-- The zone map (R116). -/
structure ZoneMap where
  b1 : Boundary
  b2 : Boundary
  b3 : Boundary
  z0 : ZoneAttr
  z1 : ZoneAttr
  z2 : ZoneAttr
  z3 : ZoneAttr
  frozen : Bool
  deriving DecidableEq, Repr

/-- The store flags word (R135). -/
structure StoreFlags where
  fresh  : Bool
  wiping : Bool
  deriving DecidableEq, Repr

/-- The two copies of a control word (R135). -/
structure Copies (α : Type) where
  c1 : Block α
  c2 : Block α
  deriving DecidableEq, Repr

/-- What an image place holds (R137): a slot image with its slot number, whole or word 0 alone, or
the zone map image. -/
inductive Image where
  | slot (slot : Nat) (whole : Bool) (img : SlotImg)
  | zone (map : ZoneMap)
  deriving DecidableEq, Repr

/-- A place of the intent area with its presence mark (R137). The mark is a plain flag that is never found in error: the
spec names no word, and so no check bits, that hold it (DESIGN CHOICE: log 44). -/
structure Place (α : Type) where
  present : Bool
  block   : Block α
  deriving DecidableEq, Repr

/-- The intent area (R137). -/
structure Intent where
  marker  : Copies Bool
  image1  : Place Image
  image2  : Place Image
  image3  : Place Image
  image4  : Place Image
  session : Place (Nat × SessEntry)
  token   : Place Token
  nonce   : Place Nonce
  flags   : Place StoreFlags
  deriving DecidableEq, Repr

/-- The Retained Store (R133). `slots` is a table with default `Block.blankSlot`, `sess` one with
default `Copies.freeSess`. -/
structure Store where
  slots  : Tab (Block SlotImg)
  sess   : Tab (Copies SessEntry)
  zone   : Copies ZoneMap
  token  : Copies Token
  nonce  : Copies Nonce
  flags  : Copies StoreFlags
  intent : Intent
  deriving DecidableEq, Repr

/-! ### The main domain -/

/-- The trap of the Store Monitor (R145). `copy` is 0 where there is none. -/
structure Trap where
  area  : TrapArea
  index : Nat
  word  : Nat
  copy  : Nat
  kind  : Ecc
  deriving DecidableEq, Repr

/-- The Store Monitor with the store mode and the scrub control (R136, R145, R150). -/
structure Monitor where
  /-- STORE_FAULT mode (R136). -/
  fault        : Bool
  /-- Lost control words, one bit each (R136, R188). -/
  lost         : BitVec 24
  /-- A replay of the intent area failed (R140). -/
  replayFailed : Bool
  corrected    : Nat
  uncorrected  : Nat
  trap         : Option Trap
  interval     : Byte
  cursor       : Nat
  count        : Nat
  stepPending  : Bool
  deriving DecidableEq, Repr

/-- What the key index holds for a key (R5, R74, R142): the slot, whether it is QUARANTINED, and the
client and token of each grant. -/
structure IndexEntry where
  slot        : Nat
  quarantined : Bool
  holders     : List (Nat × Token)
  deriving DecidableEq, Repr

/-- An entry of the Expiry Schedule (R92); `due` is its status. Its sequence is its place in the
list. -/
structure Entry where
  kind     : Kind
  ref      : Ref
  deadline : Tick
  due      : Bool
  deriving DecidableEq, Repr

/-- The volatile fields of a session (R65) and the lapse requests waiting for it (R72, R87). -/
structure SessVol where
  deadline       : Option Tick
  waitCount      : Nat
  restarted      : Bool
  lapseHeartbeat : Bool
  lapseGrace     : Bool
  deriving DecidableEq, Repr

/-- A notice (R104). An absent token is 0, an absent waiter id none. -/
structure Notice where
  kind   : NoticeKind
  key    : Key
  token  : Token
  waiter : Option Nat
  cause  : Cause
  tick   : Tick
  deriving DecidableEq, Repr

/-- A session's notice queue, oldest first, and its lost-notice count (R106, R107). -/
structure NoticeQueue where
  queue : List Notice
  lost  : Nat
  deriving DecidableEq, Repr

/-- The attention lines; true is pulled low (R112). -/
structure AttnLines where
  a : Bool
  b : Bool
  c : Bool
  deriving DecidableEq, Repr

/-- A request that waits for the directory at its source (R6, R155): a frame held on a port, a DUE schedule entry of
the directory's kinds, a lapse request, or the pending scrub step. -/
inductive Waiting where
  | frame (port : PortId)
  | due (ref : Ref) (deadline : Tick)
  | lapse (kind : SessKind) (client : Nat)
  | scrub
  deriving DecidableEq, Repr

/-- The audit context and its pending step (R153, R155). `ahead` holds the requests that already waited when the
step was made pending and have not been taken: they reached the directory first (R155; log 1). -/
structure Audit where
  state       : AuditState
  low         : Key
  high        : Key
  cursor      : Key
  visited     : Nat
  qseen       : Nat
  digest      : BitVec 32
  stale       : Bool
  reason      : AbortReason
  stepPending : Bool
  ahead       : List Waiting
  deriving DecidableEq, Repr

/-- A host port (R176). `lead` and `sent` are the model's own: the byte shifted out during the
leading byte and the bytes sent after it in the last transaction (R177, R178). -/
structure Port where
  state     : PortState
  cmdBuf    : List Byte
  received  : Nat
  respBuf   : List Byte
  readPos   : Nat
  collided  : Bool
  discarded : Bool
  frameErr  : Bool
  lead      : Option Byte
  sent      : List Byte
  deriving DecidableEq, Repr

/-- The three ports. -/
structure Ports where
  a : Port
  b : Port
  c : Port
  deriving DecidableEq, Repr

/-- The main domain (00, section 0.3). -/
structure Main where
  supPort    : Option PortId
  stage      : Nat
  slotCursor : Nat
  mon        : Monitor
  index      : Tab IndexEntry
  free       : BitVec 1024
  quar       : Tab (Option Key)
  pool       : Tab Waiter
  queues     : Tab (List Nat)
  sched      : List Entry
  sessV      : Tab SessVol
  notices    : Tab NoticeQueue
  attn       : AttnLines
  audit      : Audit
  ports      : Ports
  arbiter    : List PortId
  deriving DecidableEq, Repr

/-! ### The whole part -/

/-- The Timebase (R89). -/
structure Timebase where
  tick  : Tick
  phase : BitVec 7
  deriving DecidableEq, Repr

/-- Power Control's retained mark, the power state and the levels of supplies and pins (R163, R164). -/
structure Power where
  state      : PowerState
  firstStart : Bool
  vbat       : Bool
  vdd        : Bool
  resetN     : Bool
  supsel     : BitVec 2
  addr       : BitVec 2
  deriving DecidableEq, Repr

/-- The state of the part. -/
structure State where
  /-- The commands that are waiting, first in, first out. -/
  pending : List Instr
  power   : Power
  tb      : Timebase
  store   : Store
  main    : Main
  /-- The model's own: word writes still completed before a loss of power (R166); none between steps. -/
  cut     : Option Nat
  deriving DecidableEq, Repr

/-- Reasons to stop with a fault. There is none: an error of this part is a response status, a mode, a
quarantine or a trap, and each of them is an effect on the state. -/
inductive Fault where
  deriving DecidableEq, Repr

/-- Reasons to refuse a command. -/
inductive Refusal where
  /-- Raised by an arm of `exec` for a command whose meaning is not written; no arm raises it now.
  Safe: nothing is claimed of such a command. -/
  | notModelled (mnemonic : String)
  deriving DecidableEq, Repr

/-! ### Values after a retained POR (R164) and of the main domain at reset (R165) -/

/-- An empty grant place (R134). -/
abbrev GrantPlace.empty : GrantPlace :=
  { head := { client := 0, mode := .exclusive, gstate := .live, token := 0 },
    tail := { expiry := 0, term := 0 } }

/-- Word 0 of a FREE slot (R134). -/
abbrev IdWord.free : IdWord :=
  { inUse := false, key := none, state := .vacant, zone := 0, persist := .pinned, defTerm := 0 }

/-- A slot as a retained POR leaves it (R164; words 1 to 9: log 7). -/
abbrev SlotImg.blank : SlotImg :=
  { ident := IdWord.free, lim := { share := 0, maxTerm := 0, gen := 0 }, g1 := GrantPlace.empty,
    g2 := GrantPlace.empty, g3 := GrantPlace.empty, g4 := GrantPlace.empty }

/-- A block of one good word. -/
abbrev Block.one {α : Type} (v : α) : Block α := { val := v, ecc := [.good] }

/-- The check-bit conditions of ten good words. -/
abbrev tenGood : List Ecc :=
  [.good, .good, .good, .good, .good, .good, .good, .good, .good, .good]

/-- The check-bit conditions of seven good words. -/
abbrev sevenGood : List Ecc := [.good, .good, .good, .good, .good, .good, .good]

/-- What a slot that the table does not list reads as. -/
abbrev Block.blankSlot : Block SlotImg := { val := SlotImg.blank, ecc := tenGood }

/-- Two copies of one good word. -/
abbrev Copies.two {α : Type} (v : α) : Copies α := { c1 := Block.one v, c2 := Block.one v }

/-- A FREE session entry (R65; fields without meaning: log 28). -/
abbrev SessEntry.free : SessEntry :=
  { state := .free, action := .none, port := none, nonce := 0, hbTerm := 0, policy := .release,
    attention := false, waitsHeld := false, waitsLost := false }

/-- What a session entry that the table does not list reads as. -/
abbrev Copies.freeSess : Copies SessEntry := Copies.two SessEntry.free

/-- A zone's attributes after a retained POR (R116). -/
abbrev ZoneAttr.por : ZoneAttr :=
  { supOnly := false, autoCreate := false, waits := true, share := 1, defTerm := 2560,
    maxTerm := 15360 }

/-- The zone map after a retained POR (R116). -/
abbrev ZoneMap.por : ZoneMap :=
  { b1 := { on := false, key := 0 }, b2 := { on := false, key := 0 },
    b3 := { on := false, key := 0 }, z0 := ZoneAttr.por, z1 := ZoneAttr.por, z2 := ZoneAttr.por,
    z3 := ZoneAttr.por, frozen := false }

/-- An absent image place (R164; its content: log 7). -/
abbrev Place.noImage : Place Image :=
  { present := false, block := { val := .slot 0 false SlotImg.blank, ecc := tenGood } }

/-- An absent place of one word (R164; its content: log 7). -/
abbrev Place.absent {α : Type} (v : α) : Place α := { present := false, block := Block.one v }

/-- The intent area after a retained POR (R164). -/
abbrev Intent.por : Intent :=
  { marker := Copies.two false, image1 := Place.noImage, image2 := Place.noImage,
    image3 := Place.noImage, image4 := Place.noImage, session := Place.absent (0, SessEntry.free),
    token := Place.absent 0, nonce := Place.absent 0,
    flags := Place.absent { fresh := false, wiping := false } }

/-- The Retained Store after a retained POR (R164). -/
abbrev Store.por : Store :=
  { slots := [], sess := [], zone := { c1 := { val := ZoneMap.por, ecc := sevenGood },
                                       c2 := { val := ZoneMap.por, ecc := sevenGood } },
    token := Copies.two 1, nonce := Copies.two 1,
    flags := Copies.two { fresh := true, wiping := false }, intent := Intent.por }

/-- The Store Monitor at main reset (R145, R151, R152). -/
abbrev Monitor.reset : Monitor :=
  { fault := false, lost := 0, replayFailed := false, corrected := 0, uncorrected := 0, trap := none,
    interval := Config.scrubInterval, cursor := 0, count := 0, stepPending := false }

/-- Volatile session fields of a session with nothing volatile (R65, R88). -/
abbrev SessVol.none : SessVol :=
  { deadline := Option.none, waitCount := 0, restarted := false, lapseHeartbeat := false,
    lapseGrace := false }

/-- An empty notice queue (R106). -/
abbrev NoticeQueue.empty : NoticeQueue := { queue := [], lost := 0 }

/-- All attention lines released (R114). -/
abbrev AttnLines.released : AttnLines := { a := false, b := false, c := false }

/-- The audit context IDLE (R162). -/
abbrev Audit.idle : Audit :=
  { state := .idle, low := 0, high := 0, cursor := 0, visited := 0, qseen := 0, digest := 0,
    stale := false, reason := .none, stepPending := false, ahead := [] }

/-- A port at main reset (R176). -/
abbrev Port.reset : Port :=
  { state := .idle, cmdBuf := [], received := 0, respBuf := [], readPos := 0, collided := false,
    discarded := false, frameErr := false, lead := none, sent := [] }

/-- The main domain with no work in it: without VDD, and as a main reset begins (R165). -/
abbrev Main.empty : Main :=
  { supPort := none, stage := 0, slotCursor := 0, mon := Monitor.reset, index := [], free := 0,
    quar := [], pool := [], queues := [], sched := [], sessV := [], notices := [],
    attn := AttnLines.released, audit := Audit.idle,
    ports := { a := Port.reset, b := Port.reset, c := Port.reset }, arbiter := [] }

/-- The part right after a retained POR with VDD absent: RETAINED_ONLY (R163, R164; log 3). -/
def State.reset : State :=
  { pending := [],
    power := { state := .retainedOnly, firstStart := true, vbat := true, vdd := false,
               resetN := true, supsel := 0, addr := 0 },
    tb := { tick := 0, phase := 0 }, store := Store.por, main := Main.empty, cut := none }

end Sys2Proof.Machine
end

