-- ==== Sys2Proof/Machine/Access.lean ====
section
/-! DEFINITION. The named updates of the state, one for each field, and the named reads the rules use. Every
operation of the model changes the state through these updates only. -/

namespace Sys2Proof.Machine

def State.setPending (s : State) (x : List Instr) : State := { s with pending := x }

def State.setPower (s : State) (x : Power) : State := { s with power := x }

def State.setTb (s : State) (x : Timebase) : State := { s with tb := x }

def State.setStore (s : State) (x : Store) : State := { s with store := x }

def State.setCut (s : State) (x : Option Nat) : State := { s with cut := x }

def State.setMain (s : State) (x : Main) : State := { s with main := x }

def State.setSupPort (s : State) (x : Option PortId) : State := { s with main := { s.main with supPort := x } }

def State.setStage (s : State) (x : Nat) : State := { s with main := { s.main with stage := x } }

def State.setSlotCursor (s : State) (x : Nat) : State := { s with main := { s.main with slotCursor := x } }

def State.setMon (s : State) (x : Monitor) : State := { s with main := { s.main with mon := x } }

def State.setIndex (s : State) (x : Tab IndexEntry) : State := { s with main := { s.main with index := x } }

def State.setFree (s : State) (x : BitVec 1024) : State := { s with main := { s.main with free := x } }

def State.setQuar (s : State) (x : Tab (Option Key)) : State := { s with main := { s.main with quar := x } }

def State.setPool (s : State) (x : Tab Waiter) : State := { s with main := { s.main with pool := x } }

def State.setQueues (s : State) (x : Tab (List Nat)) : State := { s with main := { s.main with queues := x } }

def State.setSched (s : State) (x : List Entry) : State := { s with main := { s.main with sched := x } }

def State.setSessV (s : State) (x : Tab SessVol) : State := { s with main := { s.main with sessV := x } }

def State.setNotices (s : State) (x : Tab NoticeQueue) : State := { s with main := { s.main with notices := x } }

def State.setAttn (s : State) (x : AttnLines) : State := { s with main := { s.main with attn := x } }

def State.setAudit (s : State) (x : Audit) : State := { s with main := { s.main with audit := x } }

def State.setPorts (s : State) (x : Ports) : State := { s with main := { s.main with ports := x } }

def State.setArbiter (s : State) (x : List PortId) : State := { s with main := { s.main with arbiter := x } }


/-- The current tick, `now` of a take (R7, R90). -/
abbrev State.now (s : State) : Tick := s.tb.tick

/-- The part takes commands and internal requests (R163). -/
abbrev State.isReady (s : State) : Prop := s.power.state = .ready

/-- The part is ACTIVE (R163). -/
abbrev State.isActive (s : State) : Prop :=
  s.power.state = .restarting ∨ s.power.state = .ready

/-- STORE_FAULT mode (R136). -/
abbrev State.inFault (s : State) : Prop := s.main.mon.fault = true

/-- The words of a slot (R133). -/
def Store.slot (st : Store) (n : Nat) : Block SlotImg := Tab.get Block.blankSlot st.slots n

/-- The store with a slot's words replaced. -/
def Store.setSlot (st : Store) (n : Nat) (b : Block SlotImg) : Store :=
  { st with slots := Tab.set Block.blankSlot st.slots n b }

/-- The two copies of a session entry's control word (R135). -/
def Store.session (st : Store) (c : Nat) : Copies SessEntry := Tab.get Copies.freeSess st.sess c

/-- The store with the two copies of a session entry replaced. -/
def Store.setSession (st : Store) (c : Nat) (x : Copies SessEntry) : Store :=
  { st with sess := Tab.set Copies.freeSess st.sess c x }

/-- The volatile fields of a session (R65). -/
def State.vol (s : State) (c : Nat) : SessVol := Tab.get SessVol.none s.main.sessV c

/-- Replaces the volatile fields of a session. -/
def State.setVol (s : State) (c : Nat) (v : SessVol) : State :=
  s.setSessV (Tab.set SessVol.none s.main.sessV c v)

/-- The notice queue of a session (R106). -/
def State.noticesOf (s : State) (c : Nat) : NoticeQueue :=
  Tab.get NoticeQueue.empty s.main.notices c

/-- Replaces the notice queue of a session. -/
def State.setNoticesOf (s : State) (c : Nat) (q : NoticeQueue) : State :=
  s.setNotices (Tab.set NoticeQueue.empty s.main.notices c q)

/-- The waiter queue of the record in a slot: waiter ids, oldest first (R46). -/
def State.queueOf (s : State) (slot : Nat) : List Nat := Tab.get [] s.main.queues slot

/-- Replaces the waiter queue of a slot. -/
def State.setQueueOf (s : State) (slot : Nat) (q : List Nat) : State :=
  s.setQueues (Tab.set [] s.main.queues slot q)

/-- The waiter in a pool entry; none where the entry is FREE (R45). -/
def State.waiter (s : State) (id : Nat) : Option Waiter := Tab.find? s.main.pool id

/-- A port (R176). -/
def Ports.get (p : Ports) : PortId → Port
  | .a => p.a
  | .b => p.b
  | .c => p.c

/-- The ports with one replaced. -/
def Ports.set (p : Ports) (i : PortId) (x : Port) : Ports :=
  match i with
  | .a => { p with a := x }
  | .b => { p with b := x }
  | .c => { p with c := x }

/-- A port of the part (R176). -/
def State.port (s : State) (i : PortId) : Port := s.main.ports.get i

/-- Replaces a port. -/
def State.setPort (s : State) (i : PortId) (x : Port) : State := s.setPorts (s.main.ports.set i x)

/-- A deadline: now plus a length in ticks (R30, R48, R68). Past the 40-bit count the value is free
(log 5). -/
def tickPlus (now : Tick) (n : Nat) : Tick :=
  if now.toNat + n < 2 ^ 40 then BitVec.ofNat 40 (now.toNat + n) else Config.tickPastEnd now n

/-- The token counter after one token has been taken (R25). Past the end of its range the value is
free (log 6). -/
def tokenNext (t : Token) : Token :=
  if t.toNat + 1 < 2 ^ 48 then t + 1 else Config.tokenPastEnd t

/-- The nonce counter's advance: from 65535 to 1, skipping 0 (R67). -/
def nonceNext (n : Nonce) : Nonce := if n = 0xFFFF then 1 else n + 1

/-- A key that no command takes (00, section 0.6). -/
abbrev reservedKey (k : Key) : Prop := k = 0x00000000 ∨ k = 0xFFFFFFFF

end Sys2Proof.Machine
end

