-- ==== Sys2Proof/Machine/Store.lean ====
section
/-! DEFINITION. The Retained Store (spec 08): word writes, checked reads, the commit and the replay of the
intent area, and the record images of slots. -/

namespace Sys2Proof.Machine

/-! ### Word writes (R133, R166) -/

/-- The store after a list of word writes of which a loss of power lets only the first `cut` happen. -/
def applyWrites (cut : Option Nat) (ws : List (Store → Store)) (st : Store) : Store :=
  match cut with
  | none => ws.foldl (fun st w => w st) st
  | some n => (ws.take n).foldl (fun st w => w st) st

/-- Makes word writes in order (R133); a take that a loss of power stops makes no more of them than the
model's `cut` allows (R166). -/
def State.writes (s : State) (ws : List (Store → Store)) : State :=
  (s.setStore (applyWrites s.cut ws s.store)).setCut (s.cut.map fun n => n - ws.length)

/-- Writes word `k` of `src` into a block, with fresh check bits (R133). -/
def Block.putWord {α : Type} (setWord : Nat → α → α → α) (k : Nat) (src : α) (b : Block α) :
    Block α :=
  { val := setWord k src b.val, ecc := b.ecc.set k .good }

/-- Writes a corrected word back in place (R141): the content stays, the check bits are fresh. -/
def Block.mendWord {α : Type} (k : Nat) (b : Block α) : Block α :=
  { b with ecc := b.ecc.set k .good }

/-- No word of the list is uncorrectable (R135). -/
def readable (es : List Ecc) : Bool := es.all fun e => e != .double

/-- The places of the words with one bit in error, counted from `k`. -/
def singlesFrom : Nat → List Ecc → List Nat
  | _, [] => []
  | k, e :: es => if e = .single then k :: singlesFrom (k + 1) es else singlesFrom (k + 1) es

/-- Word `k` of a slot taken from `src` (R134). -/
def SlotImg.setWord (k : Nat) (src dst : SlotImg) : SlotImg :=
  match k with
  | 0 => { dst with ident := src.ident }
  | 1 => { dst with lim := src.lim }
  | 2 => { dst with g1 := { dst.g1 with head := src.g1.head } }
  | 3 => { dst with g1 := { dst.g1 with tail := src.g1.tail } }
  | 4 => { dst with g2 := { dst.g2 with head := src.g2.head } }
  | 5 => { dst with g2 := { dst.g2 with tail := src.g2.tail } }
  | 6 => { dst with g3 := { dst.g3 with head := src.g3.head } }
  | 7 => { dst with g3 := { dst.g3 with tail := src.g3.tail } }
  | 8 => { dst with g4 := { dst.g4 with head := src.g4.head } }
  | 9 => { dst with g4 := { dst.g4 with tail := src.g4.tail } }
  | _ => dst

/-- Word `k` of a zone map copy taken from `src`: three boundary words, the first with the frozen flag,
and four attribute words (R135; the split: log 8). -/
def ZoneMap.setWord (k : Nat) (src dst : ZoneMap) : ZoneMap :=
  match k with
  | 0 => { dst with b1 := src.b1, frozen := src.frozen }
  | 1 => { dst with b2 := src.b2 }
  | 2 => { dst with b3 := src.b3 }
  | 3 => { dst with z0 := src.z0 }
  | 4 => { dst with z1 := src.z1 }
  | 5 => { dst with z2 := src.z2 }
  | 6 => { dst with z3 := src.z3 }
  | _ => dst

/-- The one word of a control word copy of one word. -/
def setOneWord {α : Type} (_k : Nat) (src _dst : α) : α := src

/-- Writes word `k` of an image into a slot. -/
def writeSlotWord (n : Nat) (img : SlotImg) (k : Nat) (st : Store) : Store :=
  st.setSlot n ((st.slot n).putWord SlotImg.setWord k img)

/-- Writes a corrected word of a slot back (R141). -/
def mendSlotWord (n k : Nat) (st : Store) : Store := st.setSlot n ((st.slot n).mendWord k)

/-! ### Control words (R135) -/

/-- A control word: its number, its two copies in the store, and its words. -/
structure Control (α : Type) where
  number  : Nat
  get     : Store → Copies α
  put     : Store → Copies α → Store
  setWord : Nat → α → α → α
  words   : Nat

/-- Control words 0 to 15: the session entries. -/
def sessionWord (c : Nat) : Control SessEntry :=
  { number := c, get := fun st => st.session c, put := fun st x => st.setSession c x,
    setWord := setOneWord, words := 1 }

/-- Control word 16: the zone map. -/
def zoneWord : Control ZoneMap :=
  { number := 16, get := Store.zone, put := fun st x => { st with zone := x },
    setWord := ZoneMap.setWord, words := Config.zoneWords }

/-- Control word 17: the token counter. -/
def tokenWord : Control Token :=
  { number := 17, get := Store.token, put := fun st x => { st with token := x },
    setWord := setOneWord, words := 1 }

/-- Control word 18: the nonce counter. -/
def nonceWord : Control Nonce :=
  { number := 18, get := Store.nonce, put := fun st x => { st with nonce := x },
    setWord := setOneWord, words := 1 }

/-- Control word 19: the store flags. -/
def flagsWord : Control StoreFlags :=
  { number := 19, get := Store.flags, put := fun st x => { st with flags := x },
    setWord := setOneWord, words := 1 }

/-- Writes word `k` of copy 1. -/
def Control.writeCopy1 {α : Type} (c : Control α) (v : α) (k : Nat) (st : Store) : Store :=
  c.put st { c.get st with c1 := (c.get st).c1.putWord c.setWord k v }

/-- Writes word `k` of copy 2. -/
def Control.writeCopy2 {α : Type} (c : Control α) (v : α) (k : Nat) (st : Store) : Store :=
  c.put st { c.get st with c2 := (c.get st).c2.putWord c.setWord k v }

/-- The writes of all words of copy 1. -/
def Control.copy1Writes {α : Type} (c : Control α) (v : α) : List (Store → Store) :=
  (List.range c.words).map (c.writeCopy1 v)

/-- The writes of all words of copy 2. -/
def Control.copy2Writes {α : Type} (c : Control α) (v : α) : List (Store → Store) :=
  (List.range c.words).map (c.writeCopy2 v)

/-- The writes that put a value into copy 1 and then into copy 2 (R138, step 3). -/
def Control.bothWrites {α : Type} (c : Control α) (v : α) : List (Store → Store) :=
  c.copy1Writes v ++ c.copy2Writes v

/-- Writes of the corrected words of copy 1 and of copy 2 (R141). -/
def Control.mendWrites {α : Type} (c : Control α) (st : Store) : List (Store → Store) :=
  (singlesFrom 0 (c.get st).c1.ecc).map
      (fun k st => c.put st { c.get st with c1 := (c.get st).c1.mendWord k }) ++
    (singlesFrom 0 (c.get st).c2.ecc).map
      (fun k st => c.put st { c.get st with c2 := (c.get st).c2.mendWord k })

/-- The value that R135 takes from two copies: copy 1 where it is readable, else copy 2, else none. -/
def Copies.value {α : Type} (x : Copies α) : Option α :=
  if readable x.c1.ecc then some x.c1.val
  else if readable x.c2.ecc then some x.c2.val
  else none

/-- The writes that bring a bad or different copy back to the value used (R135). -/
def Control.repairWrites {α : Type} [DecidableEq α] (c : Control α) (st : Store) :
    List (Store → Store) :=
  let x := c.get st
  if readable x.c1.ecc then
    if readable x.c2.ecc ∧ x.c1.val = x.c2.val then [] else c.copy2Writes x.c1.val
  else if readable x.c2.ecc then c.copy1Writes x.c2.val
  else []

/-! ### The Store Monitor's counts and trap (R145) -/

/-- One checked word: counts it and fills an empty trap (R141, R142, R145). -/
def Monitor.log (m : Monitor) (t : Trap) : Monitor :=
  match t.kind with
  | .good => m
  | .single =>
    { m with corrected := min (m.corrected + 1) 65535, trap := some (m.trap.getD t) }
  | .double =>
    { m with uncorrected := min (m.uncorrected + 1) 255, trap := some (m.trap.getD t) }

/-- Checked words in the order they are read, counted from word `k`. -/
def Monitor.logWords (area : TrapArea) (index copy : Nat) : Nat → List Ecc → Monitor → Monitor
  | _, [], m => m
  | k, e :: es, m =>
    Monitor.logWords area index copy (k + 1) es
      (m.log { area := area, index := index, word := k, copy := copy, kind := e })

/-- Logs checked words in the state. -/
def State.logWords (s : State) (area : TrapArea) (index copy : Nat) (es : List Ecc) : State :=
  s.setMon (Monitor.logWords area index copy 0 es s.main.mon)

/-- STORE_FAULT mode is entered with a control word lost (R136). -/
def State.enterFault (s : State) (lost : BitVec 24) : State :=
  s.setMon { s.main.mon with fault := true, lost := s.main.mon.lost ||| lost }

/-- The bit of a control word in the set of lost control words (R188). -/
def lostBit (number : Nat) : BitVec 24 := (1 : BitVec 24) <<< number

/-! ### Checked reads -/

/-- A checked read of a control word (R135, R141): both copies are read and checked, corrected words are
written back and a bad copy is rewritten, but not in STORE_FAULT mode. Copy 1's words are read, and so logged, before
copy 2's (DESIGN CHOICE: log 39). Where both copies are uncorrectable there is no value and STORE_FAULT mode is entered (R136); whether the take then ends is the
caller's matter. -/
def Control.read {α : Type} [DecidableEq α] (c : Control α) (s : State) : State × Option α :=
  let x := c.get s.store
  let s1 := (s.logWords .control c.number 1 x.c1.ecc).logWords .control c.number 2 x.c2.ecc
  match x.value with
  | none => (s1.enterFault (lostBit c.number), none)
  | some v =>
    if s.inFault then (s1, some v)
    else (s1.writes (c.mendWrites s.store ++ c.repairWrites s.store), some v)

/-- A control word's value without a read of the take: what the wiring of the main domain goes by (log 9). -/
def Control.peek {α : Type} (c : Control α) (s : State) : Option α := (c.get s.store).value

/-- In STORE_FAULT mode: the session entry is among the lost control words, whatever its copies hold now (R136,
R173). -/
def State.entryLost (s : State) (c : Nat) : Bool := s.main.mon.fault && s.main.mon.lost.getLsbD c

/-- A session entry as the wiring sees it; an entry that cannot be read, or is among the lost control words, counts
as FREE (R173). -/
def State.session (s : State) (c : Nat) : SessEntry :=
  if s.entryLost c then SessEntry.free else ((sessionWord c).peek s).getD SessEntry.free

/-- A checked read of the first `k` words of a slot (R134, R141): whether all could be read. They are read, and so
logged, from word 0 upward (DESIGN CHOICE: log 47). -/
def State.readSlot (s : State) (n k : Nat) : State × Bool :=
  let es := (s.store.slot n).ecc.take k
  let s1 := s.logWords .record n 0 es
  (if s.inFault then s1 else s1.writes ((singlesFrom 0 es).map (mendSlotWord n)), readable es)

/-! ### The commit (R137, R138) -/

/-- The changes that one commit carries (R137). -/
structure Commit where
  images  : List Image := []
  session : Option (Nat × SessEntry) := none
  token   : Option Token := none
  nonce   : Option Nonce := none
  flags   : Option StoreFlags := none

/-- The words an image has (R134, R135). -/
def Image.words : Image → Nat
  | .slot _ true _ => Config.slotWords
  | .slot _ false _ => 1
  | .zone _ => Config.zoneWords

/-- An image place of the intent area. -/
def Intent.image (x : Intent) : Nat → Place Image
  | 0 => x.image1
  | 1 => x.image2
  | 2 => x.image3
  | _ => x.image4

/-- The intent area with an image place replaced. -/
def Intent.setImage (x : Intent) (i : Nat) (p : Place Image) : Intent :=
  match i with
  | 0 => { x with image1 := p }
  | 1 => { x with image2 := p }
  | 2 => { x with image3 := p }
  | _ => { x with image4 := p }

/-- A write into the intent area. -/
def Store.onIntent (g : Intent → Intent) (st : Store) : Store := { st with intent := g st.intent }

/-- Step 1 of the commit for one image place: the image's words, then the presence mark; a place not
used has its mark cleared (R138). -/
def imagePlaceWrites (i : Nat) (o : Option Image) : List (Store → Store) :=
  match o with
  | none =>
    [Store.onIntent fun x => x.setImage i { x.image i with present := false }]
  | some img =>
    (List.range img.words).map (fun k => Store.onIntent fun x =>
        x.setImage i { x.image i with
          block := { val := img, ecc := (x.image i).block.ecc.set k .good } }) ++
      [Store.onIntent fun x => x.setImage i { x.image i with present := true }]

/-- Step 1 of the commit for a place of one word. -/
def wordPlaceWrites {α : Type} (get : Intent → Place α) (set : Intent → Place α → Intent)
    (o : Option α) : List (Store → Store) :=
  match o with
  | none => [Store.onIntent fun x => set x { get x with present := false }]
  | some v =>
    [Store.onIntent fun x => set x { get x with block := Block.one v },
     Store.onIntent fun x => set x { get x with present := true }]

/-- Step 1 of the commit, place by place (R138), in an order that R138 leaves open (DESIGN CHOICE: log 47). -/
def Commit.placeWrites (c : Commit) : List (List (Store → Store)) :=
  [imagePlaceWrites 0 c.images[0]?, imagePlaceWrites 1 c.images[1]?, imagePlaceWrites 2 c.images[2]?,
   imagePlaceWrites 3 c.images[3]?,
   wordPlaceWrites Intent.session (fun x p => { x with session := p }) c.session,
   wordPlaceWrites Intent.token (fun x p => { x with token := p }) c.token,
   wordPlaceWrites Intent.nonce (fun x p => { x with nonce := p }) c.nonce,
   wordPlaceWrites Intent.flags (fun x p => { x with flags := p }) c.flags]

/-- Step 1 of the commit: every place (R138). -/
def Commit.intentWrites (c : Commit) : List (Store → Store) := c.placeWrites.flatten

/-- The VALID marker set or cleared, copy 1 and then copy 2 (R138, steps 2 and 4). -/
def markerWrites (v : Bool) : List (Store → Store) :=
  [Store.onIntent fun x => { x with marker := { x.marker with c1 := Block.one v } },
   Store.onIntent fun x => { x with marker := { x.marker with c2 := Block.one v } }]

/-- An image written to its target (R138, step 3). -/
def Image.targetWrites : Image → List (Store → Store)
  | .slot n true img => (List.range Config.slotWords).map (writeSlotWord n img)
  | .slot n false img => [writeSlotWord n img 0]
  | .zone m => zoneWord.bothWrites m

/-- Step 3 of the commit: every present place to its target (R138), in an order that R138 leaves open but for the two
copies of a control word (DESIGN CHOICE: log 47). -/
def Commit.targetWrites (c : Commit) : List (Store → Store) :=
  c.images.flatMap Image.targetWrites ++
    c.session.elim [] (fun p => (sessionWord p.1).bothWrites p.2) ++
    c.token.elim [] tokenWord.bothWrites ++ c.nonce.elim [] nonceWord.bothWrites ++
    c.flags.elim [] flagsWord.bothWrites

/-- The word writes of a commit, in the four steps of R138. -/
def Commit.writes (c : Commit) : List (Store → Store) :=
  c.intentWrites ++ markerWrites true ++ c.targetWrites ++ markerWrites false

/-- A commit (R138). -/
def State.commit (s : State) (c : Commit) : State := s.writes c.writes

/-! ### The replay (R140) -/

/-- The present places of the intent area as the commit they carry (R137). -/
def Intent.owed (x : Intent) : Commit :=
  { images := (if x.image1.present then [x.image1.block.val] else []) ++
      (if x.image2.present then [x.image2.block.val] else []) ++
      (if x.image3.present then [x.image3.block.val] else []) ++
      (if x.image4.present then [x.image4.block.val] else []),
    session := if x.session.present then some x.session.block.val else none,
    token := if x.token.present then some x.token.block.val else none,
    nonce := if x.nonce.present then some x.nonce.block.val else none,
    flags := if x.flags.present then some x.flags.block.val else none }

/-- The check-bit conditions of a place's words; none where the place is absent. -/
def imageEcc (p : Place Image) : List Ecc :=
  if p.present then p.block.ecc.take p.block.val.words else []

/-- The check-bit condition of a one-word place; none where the place is absent. -/
def wordEcc {α : Type} (p : Place α) : List Ecc := if p.present then p.block.ecc.take 1 else []

/-- The checked words of the present places, each list with its trap index (R140, R188), in the order in which they are
read: image places 1 to 4, session, token, nonce, flags (DESIGN CHOICE: log 47). -/
def Intent.checked (x : Intent) : List (Nat × List Ecc) :=
  [(1, imageEcc x.image1), (2, imageEcc x.image2), (3, imageEcc x.image3), (4, imageEcc x.image4),
   (5, wordEcc x.session), (6, wordEcc x.token), (7, wordEcc x.nonce), (8, wordEcc x.flags)]

/-- The last place of the intent area that is present with an uncorrectable word, by its place in the list of
places. -/
def Intent.lastBad (x : Intent) : Option Nat :=
  (List.range 8).reverse.find? fun i => !readable ((x.checked.map Prod.snd).getD i [])

/-- Word writes of which nothing shows before the last of them. -/
def shownAtLast (ws : List (Store → Store)) : List (Store → Store) :=
  List.replicate (ws.length - 1) id ++ [fun st => ws.foldl (fun st w => w st) st]

/-- The word writes of a commit over an intent area whose marker may still be VALID: the last uncorrectable place is
written behind the other places, so that until then no replay can be made and the part comes back as it was (R131;
log 40). -/
def Commit.writesOver (c : Commit) (x : Intent) : List (Store → Store) :=
  (match x.lastBad with
    | none => c.intentWrites
    | some i => (c.placeWrites.eraseIdx i).flatten ++ shownAtLast (c.placeWrites.getD i [])) ++
    markerWrites true ++ c.targetWrites ++ markerWrites false

/-- A commit over an intent area that a failed replay has left (R131, R138, R140). -/
def State.commitOver (s : State) (c : Commit) : State := s.writes (c.writesOver s.store.intent)

/-- Logs the words of the present places in the order they are read. -/
def State.logPlaces (s : State) (ps : List (Nat × List Ecc)) : State :=
  ps.foldl (fun s p => s.logWords .intent p.1 0 p.2) s

/-- Writes of a marker's corrected copies (R141). -/
def markerMends (m : Copies Bool) : List (Store → Store) :=
  (if m.c1.ecc.headD .good = .single then
    [Store.onIntent fun x => { x with marker := { x.marker with c1 := x.marker.c1.mendWord 0 } }]
   else []) ++
  (if m.c2.ecc.headD .good = .single then
    [Store.onIntent fun x => { x with marker := { x.marker with c2 := x.marker.c2.mendWord 0 } }]
   else [])

/-- The marker is VALID when a copy that can be read is set, and when neither can be read (R137). -/
def markerValid (m : Copies Bool) : Bool :=
  (readable m.c1.ecc && m.c1.val) || (readable m.c2.ecc && m.c2.val) ||
    (!readable m.c1.ecc && !readable m.c2.ecc)

/-- A replay cannot be made: STORE_FAULT mode with the marker left as it is (R140). -/
def State.failReplay (s : State) : State :=
  s.setMon { s.main.mon with fault := true, replayFailed := true }

/-- A replay can be made: a copy of the marker can be read, and so can every word of the present places (R140). -/
def Intent.replayable (x : Intent) : Bool :=
  (readable x.marker.c1.ecc || readable x.marker.c2.ecc) && x.checked.all fun p => readable p.2

/-- The replay of the intent area (R140). The copies of the marker are read, and so logged, in order (log 39). -/
def State.replay (s : State) : State :=
  let x := s.store.intent
  let s1 := (s.logWords .intent 0 1 x.marker.c1.ecc).logWords .intent 0 2 x.marker.c2.ecc
  if markerValid x.marker then
    let s2 := s1.logPlaces x.checked
    if x.replayable then s2.writes (x.owed.targetWrites ++ markerWrites false) else s2.failReplay
  else if s.inFault then s1
  else s1.writes (markerMends x.marker)

end Sys2Proof.Machine
end

