-- ==== Sys2Proof/Machine/Flags.lean ====
section
/-! DEFINITION. The flags the hosts see: the attention lines (R112 to R114) and the port status byte (R182). -/

namespace Sys2Proof.Machine

/-- A session holds the attention line of a port low: the three conditions of R112. -/
def State.drivesLine (s : State) (p : PortId) (c : Nat) : Bool :=
  ((s.session c).state != .free && (s.session c).port == some p) && (s.session c).attention &&
    (!(s.noticesOf c).queue.isEmpty || (s.noticesOf c).lost != 0)

/-- The level that R112 gives a port's attention line; true is pulled low. -/
def State.lineLow (s : State) (p : PortId) : Bool :=
  (List.range Config.sessions).any (s.drivesLine p)

/-- The attention lines evaluated anew (R112). In STORE_FAULT mode each line holds its level (R114). -/
def State.driveLines (s : State) : State :=
  if s.inFault then s
  else s.setAttn { a := s.lineLow .a, b := s.lineLow .b, c := s.lineLow .c }

/-- The level of a port's attention line. -/
def AttnLines.get (l : AttnLines) : PortId → Bool
  | .a => l.a
  | .b => l.b
  | .c => l.c

/-- STATE, bits 2 to 0 of the port status byte (R182). -/
def PortState.code : PortState → Byte
  | .idle => 0
  | .receiving => 1
  | .frameHeld => 2
  | .executing => 3
  | .responseReady => 4

/-- A flag at its place in a byte. -/
def flagBit (n : Nat) (b : Bool) : Byte := if b then (1 : Byte) <<< n else 0

/-- The port status byte (R182). -/
def State.statusByte (s : State) (p : PortId) : Byte :=
  (s.port p).state.code ||| flagBit 3 (s.port p).collided ||| flagBit 4 (s.port p).discarded |||
    flagBit 5 (s.port p).frameErr ||| flagBit 6 (decide (s.power.state = .restarting)) |||
    flagBit 7 (s.main.attn.get p)

/-- A port with COLLIDED, DISCARDED and FRAME_ERR cleared (R182). -/
def Port.clearFlags (x : Port) : Port :=
  { x with collided := false, discarded := false, frameErr := false }

end Sys2Proof.Machine
end

