-- ==== Sys2Proof/Machine/Operands.lean ====
section
/-! DEFINITION. The fields of frames: code tables (R189, R190), argument decoding, the zone map image (R121), the
record, enumerate and notice images (R191), the audit image (R158) and the response frame (R187). -/

namespace Sys2Proof.Machine

/-! ### Status codes (R189) -/

/-- The status of a response. -/
inductive Status where
  | ok | queued | busy | notFound | exists_ | notHeld | staleSession | wrongPort | noSession
  | noSpace | noWaiter | waitLimit | badKey | badArg | zoneDenied | zoneOccupied | zoneFrozen
  | quarantined | storeFault | notPrivileged | auditBusy | auditIdle | unknownCommand | frameError
  deriving DecidableEq, Repr

/-- The code of a status (R189). -/
def Status.code : Status → Byte
  | .ok => 0x00
  | .queued => 0x01
  | .busy => 0x02
  | .notFound => 0x03
  | .exists_ => 0x04
  | .notHeld => 0x05
  | .staleSession => 0x06
  | .wrongPort => 0x07
  | .noSession => 0x08
  | .noSpace => 0x09
  | .noWaiter => 0x0A
  | .waitLimit => 0x0B
  | .badKey => 0x0C
  | .badArg => 0x0D
  | .zoneDenied => 0x0E
  | .zoneOccupied => 0x0F
  | .zoneFrozen => 0x10
  | .quarantined => 0x11
  | .storeFault => 0x12
  | .notPrivileged => 0x13
  | .auditBusy => 0x14
  | .auditIdle => 0x15
  | .unknownCommand => 0x1E
  | .frameError => 0x1F

/-- A response before it is placed: status and payload (R186). -/
structure Reply where
  status  : Status
  payload : List Byte
  deriving DecidableEq, Repr

/-- A response with no payload. -/
abbrev Reply.bare (st : Status) : Reply := { status := st, payload := [] }

/-- A response OK with a payload. -/
abbrev Reply.ok (p : List Byte) : Reply := { status := .ok, payload := p }

/-- The response frame but for its CRC (R187). -/
def responseBody (cmd : Byte) (tick : Tick) (r : Reply) : List Byte :=
  BitVec.ofNat 8 (9 + r.payload.length) :: cmd :: r.status.code :: (beBytes 5 tick.toNat ++ r.payload)

/-- The response frame (R187). -/
def responseBytes (cmd : Byte) (tick : Tick) (r : Reply) : List Byte :=
  responseBody cmd tick r ++ [crc8 (responseBody cmd tick r)]

/-! ### Enumerated fields (R190) -/

def Mode.code : Mode → Byte
  | .exclusive => 0
  | .shared => 1

def RecState.code : RecState → Byte
  | .vacant => 0
  | .heldExclusive => 1
  | .heldShared => 2
  | .quarantined => 3

def Persist.code : Persist → Byte
  | .pinned => 0
  | .transient => 1

def GState.code : GState → Byte
  | .live => 0
  | .orphaned => 1

def NoticeKind.code : NoticeKind → Byte
  | .granted => 1
  | .expired => 2
  | .waitExpired => 3
  | .waitCancelled => 4
  | .revoked => 5

def Cause.code : Cause → Byte
  | .none => 0
  | .force => 1
  | .quarantine => 2

/-- SETTLING has no code in R190; no command finds a session in it in normal running (R66, log 24). -/
def SessState.code : SessState → Byte
  | .free => 0
  | .opened => 1
  | .suspect => 2
  | .lapsed => 3
  | .settling => Config.settlingCode

def portCode : Option PortId → Byte
  | none => 0
  | some .a => 1
  | some .b => 2
  | some .c => 3

def Policy.code : Policy → Byte
  | .release => 1
  | .hold => 2

def AuditState.code : AuditState → Byte
  | .idle => 0
  | .running => 1
  | .suspended => 2
  | .done => 3
  | .aborted => 4

def AbortReason.code : AbortReason → Byte
  | .none => 0
  | .range => 1
  | .wipe => 2
  | .reset => 3

def TrapArea.code : TrapArea → Byte
  | .record => 0
  | .control => 1
  | .intent => 2

/-- The trap kind; a good word fills no trap. -/
def trapKindCode : Ecc → Byte
  | .good => 0
  | .single => 1
  | .double => 2

/-- The mode that an argument byte names (R190). -/
def modeOf (b : Byte) : Option Mode :=
  if b = 0 then some .exclusive else if b = 1 then some .shared else none

/-- The lapse policy that an argument byte names (R190; 0 belongs to a FREE session). -/
def policyOf (b : Byte) : Option Policy :=
  if b = 1 then some .release else if b = 2 then some .hold else none

/-- The value of an on/off argument byte (R190). -/
def onOffOf (b : Byte) : Option Bool :=
  if b = 0 then some false else if b = 1 then some true else none

/-! ### Argument fields (R188): offsets are counted from byte 5 of the frame -/

def keyAt (args : List Byte) (i : Nat) : Key := BitVec.ofNat 32 (field args i 4)

def tokenAt (args : List Byte) (i : Nat) : Token := BitVec.ofNat 48 (field args i 6)

def termAt (args : List Byte) (i : Nat) : Term := BitVec.ofNat 24 (field args i 3)

def tokenBytes (t : Token) : List Byte := beBytes 6 t.toNat

def tickBytes (t : Tick) : List Byte := beBytes 5 t.toNat

def termBytes (t : Term) : List Byte := beBytes 3 t.toNat

def keyBytes (k : Key) : List Byte := beBytes 4 k.toNat

/-! ### The zone map (R116, R117, R121) -/

/-- The zone of a value (R117). -/
def ZoneMap.classify (m : ZoneMap) (k : Key) : BitVec 2 :=
  if m.b3.on ∧ m.b3.key ≤ k then 3
  else if m.b2.on ∧ m.b2.key ≤ k then 2
  else if m.b1.on ∧ m.b1.key ≤ k then 1
  else 0

/-- The attribute set of a zone (R116). -/
def ZoneMap.attr (m : ZoneMap) (z : BitVec 2) : ZoneAttr :=
  if z = 0 then m.z0 else if z = 1 then m.z1 else if z = 2 then m.z2 else m.z3

/-- A boundary of the image; the key carried for a disabled boundary is stored as 0 (R121). -/
def boundaryAt (args : List Byte) (i : Nat) : Option Boundary :=
  (onOffOf (byteAt args i)).map fun on =>
    { on := on, key := if on then keyAt args (i + 1) else 0 }

/-- An attribute set of the image, with the checks that R121 makes of it. -/
def zoneAttrAt (args : List Byte) (i : Nat) : Option ZoneAttr :=
  match onOffOf (byteAt args i), onOffOf (byteAt args (i + 1)), onOffOf (byteAt args (i + 2)) with
  | some right, some auto, some waits =>
    let share := (byteAt args (i + 3)).toNat
    let d := termAt args (i + 4)
    let m := termAt args (i + 7)
    if (1 ≤ share ∧ share ≤ 4) ∧ m ≠ 0 ∧ d ≠ 0 ∧ d ≤ m then
      some { supOnly := right, autoCreate := auto, waits := waits, share := share, defTerm := d,
             maxTerm := m }
    else none
  | _, _, _ => none

/-- The enabled boundaries are well formed: no reserved key, a prefix, rising strictly (R121). -/
def boundariesOk (b1 b2 b3 : Boundary) : Bool :=
  (!b1.on || !decide (reservedKey b1.key)) && (!b2.on || !decide (reservedKey b2.key)) &&
    (!b3.on || !decide (reservedKey b3.key)) && (!b2.on || b1.on) && (!b3.on || b2.on) &&
    (!b2.on || decide (b1.key < b2.key)) && (!b3.on || decide (b2.key < b3.key))

/-- The zone map that the image of ZONE SET carries; none where R121 finds it not well formed. The image has
no frozen flag. -/
def zoneMapOf (args : List Byte) (frozen : Bool) : Option ZoneMap :=
  match boundaryAt args 0, boundaryAt args 5, boundaryAt args 10, zoneAttrAt args 15,
      zoneAttrAt args 25, zoneAttrAt args 35, zoneAttrAt args 45 with
  | some b1, some b2, some b3, some z0, some z1, some z2, some z3 =>
    if boundariesOk b1 b2 b3 then
      some { b1 := b1, b2 := b2, b3 := b3, z0 := z0, z1 := z1, z2 := z2, z3 := z3, frozen := frozen }
    else none
  | _, _, _, _, _, _, _ => none

/-- A boundary in the image; a disabled boundary shows key 0 (R125). -/
def Boundary.bytes (b : Boundary) : List Byte := onOff b.on :: keyBytes (if b.on then b.key else 0)

/-- An attribute set in the image (R121). -/
def ZoneAttr.bytes (z : ZoneAttr) : List Byte :=
  onOff z.supOnly :: onOff z.autoCreate :: onOff z.waits :: BitVec.ofNat 8 z.share ::
    (termBytes z.defTerm ++ termBytes z.maxTerm)

/-- The 55-byte zone map image (R121). -/
def ZoneMap.bytes (m : ZoneMap) : List Byte :=
  m.b1.bytes ++ m.b2.bytes ++ m.b3.bytes ++ m.z0.bytes ++ m.z1.bytes ++ m.z2.bytes ++ m.z3.bytes

/-! ### Record images (R16, R158, R191) -/

/-- The record of a slot: what its ten words hold (R1, R134). -/
structure Rec where
  key     : Key
  zone    : BitVec 2
  state   : RecState
  persist : Persist
  defTerm : Term
  maxTerm : Term
  share   : Nat
  gen     : Gen
  /-- In ascending token order, the order of issue (R21). -/
  grants  : List Grant
  deriving DecidableEq, Repr

/-- A grant in an image: 17 bytes (R191). -/
def Grant.bytes (g : Grant) : List Byte :=
  BitVec.ofNat 8 g.client :: g.mode.code :: g.gstate.code ::
    (tokenBytes g.token ++ tickBytes g.expiry ++ termBytes g.term)

/-- The first 18 bytes of the summary image, which the audit image shares (R158). -/
def Rec.headBytes (r : Rec) : List Byte :=
  keyBytes r.key ++ [r.state.code, r.zone.setWidth 8, BitVec.ofNat 8 r.share, r.persist.code] ++
    termBytes r.defTerm ++ termBytes r.maxTerm ++ beBytes 4 r.gen.toNat

/-- The record summary image with the number of waiters given (R191). -/
def Rec.summary (r : Rec) (waiters : Nat) : List Byte :=
  r.headBytes ++ [BitVec.ofNat 8 r.grants.length, BitVec.ofNat 8 waiters] ++
    r.grants.flatMap Grant.bytes

/-- The audit image: the summary image without its waiter count (R158). -/
def Rec.auditImage (r : Rec) : List Byte :=
  r.headBytes ++ [BitVec.ofNat 8 r.grants.length] ++ r.grants.flatMap Grant.bytes

/-- The audit image of a QUARANTINED record (R158). -/
def quarantinedImage (k : Key) : List Byte := keyBytes k ++ [RecState.quarantined.code]

/-- The summary image of a QUARANTINED record (R16, R191). -/
def quarantinedSummary (k : Key) (zone : Byte) : List Byte :=
  keyBytes k ++ [RecState.quarantined.code, zone] ++ List.replicate 14 0

/-- The enumerate entry of a record (R191). -/
def Rec.entry (r : Rec) (waiters : Nat) : List Byte :=
  keyBytes r.key ++ [r.state.code, BitVec.ofNat 8 r.grants.length, BitVec.ofNat 8 waiters] ++
    beBytes 4 r.gen.toNat

/-- The enumerate entry of a QUARANTINED record (R17). -/
def quarantinedEntry (k : Key) : List Byte :=
  keyBytes k ++ [RecState.quarantined.code, 0, 0, 0, 0, 0, 0]

/-- The notice entry (R191). -/
def Notice.bytes (n : Notice) : List Byte :=
  n.kind.code :: (keyBytes n.key ++ tokenBytes n.token ++
    [(n.waiter.map (BitVec.ofNat 8)).getD 0xFF, n.cause.code] ++ tickBytes n.tick)

end Sys2Proof.Machine
end

