-- ==== Sys2Proof/Machine/Record.lean ====
section
/-! DEFINITION. What a take does to one record before it commits: the record read from its slot, the holding rules
(R23), lazy expiry (R8), timeouts (R54), handoff (R51, R52) and the changes of grants. A `Bench` is the
record in hand: its image, its queue, the next token, and the results to hand to the other blocks, in order. -/

namespace Sys2Proof.Machine

/-! ### The record and its image (R134) -/

/-- The grant of a grant place; none where it is empty (R134). The client field has 4 bits (R21). -/
def GrantPlace.grant (p : GrantPlace) : List Grant :=
  if p.head.token = 0 then []
  else [{ client := p.head.client, mode := p.head.mode, gstate := p.head.gstate,
          token := p.head.token, expiry := p.tail.expiry, term := p.tail.term }]

/-- A grant written into a place; an empty place for none. -/
def placeOf : Option Grant → GrantPlace
  | none => GrantPlace.empty
  | some g => { head := { client := g.client, mode := g.mode, gstate := g.gstate, token := g.token },
                tail := { expiry := g.expiry, term := g.term } }

/-- The grants that the four places hold. -/
def SlotImg.grants (i : SlotImg) : List Grant :=
  i.g1.grant ++ i.g2.grant ++ i.g3.grant ++ i.g4.grant

/-- The record that a slot's words hold (R134). -/
def SlotImg.record (i : SlotImg) : Rec :=
  { key := i.ident.key.getD 0, zone := i.ident.zone, state := i.ident.state, persist := i.ident.persist,
    defTerm := i.ident.defTerm, maxTerm := i.lim.maxTerm, share := i.lim.share, gen := i.lim.gen,
    grants := i.grants }

/-- The ten words of a record (R134). -/
def Rec.image (r : Rec) : SlotImg :=
  { ident := { inUse := true, key := some r.key, state := r.state, zone := r.zone,
               persist := r.persist, defTerm := r.defTerm },
    lim := { share := r.share, maxTerm := r.maxTerm, gen := r.gen },
    g1 := placeOf r.grants[0]?, g2 := placeOf r.grants[1]?, g3 := placeOf r.grants[2]?,
    g4 := placeOf r.grants[3]? }

/-- Word 0 of a slot quarantined without a readable key (R134, R143). -/
def IdWord.lost : IdWord :=
  { inUse := true, key := none, state := .quarantined, zone := 0, persist := .pinned, defTerm := 0 }

/-- The summary of a grant list (R2). -/
def summaryOf : List Grant → RecState
  | [] => .vacant
  | g :: _ => if g.mode = .exclusive then .heldExclusive else .heldShared

/-- The record with another grant list, its record state brought up to date (R2). -/
def Rec.withGrants (r : Rec) (gs : List Grant) : Rec := { r with grants := gs, state := summaryOf gs }

/-- A request is admissible (R23). -/
def Rec.admits (r : Rec) (client : Nat) (m : Mode) : Bool :=
  match m with
  | .exclusive => r.state == .vacant
  | .shared =>
    (r.state == .vacant || (r.state == .heldShared && r.grants.length < r.share)) &&
      r.grants.all (fun g => g.client != client)

/-- A grant has run out (R39): LIVE with its expiry at or before now. -/
def Grant.due (now : Tick) (g : Grant) : Bool := g.gstate == .live && decide (g.expiry ≤ now)

/-- The term a request asks for, with 0 taken as the record's default term (R29). -/
def Rec.resolve (r : Rec) (t : Term) : Term := if t = 0 then r.defTerm else t

/-! ### The record in hand -/

/-- A result that a take hands to another block (R9). -/
inductive Out where
  /-- A notice offered to a client (R106). -/
  | notice (client : Nat) (n : Notice)
  | insert (kind : Kind) (ref : Ref) (deadline : Tick)
  | move (kind : Kind) (ref : Ref) (deadline : Tick)
  | remove (ref : Ref)
  /-- A pool entry becomes FREE and its session's wait count loses one (R45, R47). -/
  | freeWaiter (id : Nat) (client : Nat)
  deriving DecidableEq, Repr

/-- The record in hand. -/
structure Bench where
  slot   : Nat
  body   : Rec
  queue  : List (Nat × Waiter)
  /-- The token counter as this take has it so far (R25). -/
  token  : Token
  issued : Nat
  /-- The retained image has changed (R4). -/
  dirty  : Bool
  /-- The record is prepared and not yet committed (R13). -/
  isNew  : Bool
  outs   : List Out
  deriving DecidableEq, Repr

/-- The bench with further results to hand over. -/
def Bench.emit (b : Bench) (os : List Out) : Bench := { b with outs := b.outs ++ os }

/-- The bench with another grant list. -/
def Bench.setGrants (b : Bench) (gs : List Grant) : Bench :=
  { b with body := b.body.withGrants gs, dirty := true }

/-- The notice of a grant that ran out or was revoked (R104). -/
def grantNotice (now : Tick) (kind : NoticeKind) (cause : Cause) (key : Key) (token : Token) : Notice :=
  { kind := kind, key := key, token := token, waiter := none, cause := cause, tick := now }

/-- The notice of a waiter that timed out or was cancelled (R104). -/
def waiterNotice (now : Tick) (kind : NoticeKind) (cause : Cause) (key : Key) (id : Nat) : Notice :=
  { kind := kind, key := key, token := 0, waiter := some id, cause := cause, tick := now }

/-- Step 1 of lazy expiry: the due grants are removed, each with its EXPIRED notice (R8, R39). -/
def Bench.expireGrants (now : Tick) (b : Bench) : Bench :=
  let due := b.body.grants.filter (Grant.due now)
  if due.isEmpty then b
  else
    (b.setGrants (b.body.grants.filter fun g => !g.due now)).emit
      (due.flatMap fun g =>
        [.notice g.client (grantNotice now .expired .none b.body.key g.token),
         .remove (.grant b.slot g.token)])

/-- What the timeout of a waiter hands over (R54). -/
def timeoutOuts (now : Tick) (key : Key) (id : Nat) (w : Waiter) : List Out :=
  [.freeWaiter id w.client, .remove (.waiter id),
   .notice w.client (waiterNotice now .waitExpired .none key id)]

/-- A waiter's deadline is at or before now (R54). -/
def Waiter.due (now : Tick) (w : Waiter) : Bool := decide (w.deadline ≤ now)

/-- Step 2 of lazy expiry: the due waiters are timed out in queue order (R8, R54). -/
def Bench.timeoutWaiters (now : Tick) (b : Bench) : Bench :=
  { b with
    queue := b.queue.filter fun p => !p.2.due now,
    outs := b.outs ++ (b.queue.filter fun p => p.2.due now).flatMap
      fun p => timeoutOuts now b.body.key p.1 p.2 }

/-- A grant joins the end of the grant list: it takes the next token, LIVE, with expiry now + term, and its
schedule entry is inserted (R30, R52). -/
def Bench.issue (now : Tick) (client : Nat) (m : Mode) (term : Term) (b : Bench) : Bench :=
  (Bench.setGrants { b with token := tokenNext b.token, issued := b.issued + 1 }
      (b.body.grants ++ [{ client := client, mode := m, gstate := .live, token := b.token,
                           expiry := tickPlus now term.toNat, term := term }])).emit
    [.insert .grantExpiry (.grant b.slot b.token) (tickPlus now term.toNat)]

/-- Handoff grants a waiter (R52). -/
def Bench.grantWaiter (now : Tick) (id : Nat) (w : Waiter) (b : Bench) : Bench :=
  ((b.emit [.freeWaiter id w.client, .remove (.waiter id)]).issue now w.client w.mode w.term).emit
    [.notice w.client (grantNotice now .granted .none b.body.key b.token)]

/-- Handoff over a queue, head first (R51). -/
def handoffOver (now : Tick) : List (Nat × Waiter) → Bench → Bench
  | [], b => { b with queue := [] }
  | (id, w) :: q, b =>
    if w.due now then handoffOver now q (b.emit (timeoutOuts now b.body.key id w))
    else if b.body.admits w.client w.mode then
      match w.mode with
      | .shared => handoffOver now q (b.grantWaiter now id w)
      | .exclusive => { b.grantWaiter now id w with queue := q }
    else { b with queue := (id, w) :: q }

/-- Handoff (R50, R51). -/
def Bench.handoff (now : Tick) (b : Bench) : Bench := handoffOver now b.queue b

/-- The waiter at the head is due (R54). -/
def Bench.headDue (now : Tick) (b : Bench) : Bool :=
  match b.queue with
  | [] => false
  | p :: _ => p.2.due now

/-- Lazy expiry: due grants, then due waiters, then handoff when a grant or the head waiter was removed
(R8). -/
def Bench.lazyExpiry (now : Tick) (b : Bench) : Bench :=
  let b2 := (b.expireGrants now).timeoutWaiters now
  if b.body.grants.any (Grant.due now) || b.headDue now then b2.handoff now else b2

/-- A TRANSIENT record that is VACANT with an empty queue (R15). -/
def Bench.toRetire (b : Bench) : Bool :=
  b.body.persist == .transient && b.body.state == .vacant && b.queue.isEmpty

/-- The grant of a client on the record (R23: at most one). -/
def Rec.grantOf (r : Rec) (client : Nat) : Option Grant := r.grants.find? fun g => g.client == client

/-- The grant with a token. -/
def Rec.grantWith (r : Rec) (token : Token) : Option Grant := r.grants.find? fun g => g.token == token

/-- A grant leaves the list; its schedule entry is removed where it is LIVE (R22, R37, R43). -/
def Bench.removeGrant (g : Grant) (b : Bench) : Bench :=
  (b.setGrants (b.body.grants.filter fun x => x.token != g.token)).emit
    (if g.gstate = .live then [.remove (.grant b.slot g.token)] else [])

/-- A grant changes in its place (R21: it keeps its place in the list). -/
def Bench.changeGrant (token : Token) (f : Grant → Grant) (b : Bench) : Bench :=
  b.setGrants (b.body.grants.map fun g => if g.token = token then f g else g)

/-- The waiter of a client in the queue (R46: at most one), with whether it stands at the head. -/
def Bench.waiterOf (client : Nat) (b : Bench) : Option (Nat × Waiter) :=
  b.queue.find? fun p => p.2.client == client

/-- The head of the queue has this waiter id. -/
def Bench.isHead (id : Nat) (b : Bench) : Bool := (b.queue.head?.map Prod.fst) == some id

/-- A waiter leaves the queue without notice (R58, R60). -/
def Bench.removeWaiter (id : Nat) (client : Nat) (b : Bench) : Bench :=
  { b with queue := b.queue.filter (fun p => p.1 != id),
           outs := b.outs ++ [.freeWaiter id client, .remove (.waiter id)] }

/-- The session's waiter on the record is removed, with handoff where it stood at the head (R60, R75). -/
def Bench.dropWaiterOf (now : Tick) (client : Nat) (b : Bench) : Bench :=
  match b.waiterOf client with
  | none => b
  | some (id, _) =>
    if b.isHead id then (b.removeWaiter id client).handoff now else b.removeWaiter id client

/-! ### The work of a settle on one record -/

/-- The four forms of settle work (R75, R76, R82, R80). -/
inductive SettleForm where
  | release | orphan | revive
  /-- REATTACH of a session whose lapse is due under HOLD (R80). -/
  | reviveDue
  deriving DecidableEq, Repr

/-- The settle action a form commits (R74). -/
def SettleForm.action : SettleForm → Action
  | .release => .release
  | .orphan => .orphan
  | .revive => .revive
  | .reviveDue => .revive

/-- Action RELEASE (R75): the client's grant and waiter are removed; handoff runs where the grant left room or
the waiter stood at the head. -/
def Bench.settleRelease (now : Tick) (client : Nat) (b : Bench) : Bench :=
  match b.body.grantOf client with
  | some g => (((b.removeGrant g).dropWaiterOf now client)).handoff now
  | none => b.dropWaiterOf now client

/-- Action ORPHAN (R76): the client's LIVE grant becomes ORPHANED and its entry is removed; its waiter is
removed. -/
def Bench.settleOrphan (now : Tick) (client : Nat) (b : Bench) : Bench :=
  match b.body.grantOf client with
  | some g =>
    if g.gstate = .live then
      (((b.changeGrant g.token fun x => { x with gstate := .orphaned }).emit
        [.remove (.grant b.slot g.token)])).dropWaiterOf now client
    else b.dropWaiterOf now client
  | none => b.dropWaiterOf now client

/-- A grant that runs again from now (R82, R80). -/
def Grant.revived (now : Tick) (g : Grant) : Grant :=
  { g with gstate := .live, expiry := tickPlus now g.term.toNat }

/-- Action REVIVE of a LAPSED session (R82): the client's ORPHANED grant becomes LIVE. -/
def Bench.settleRevive (now : Tick) (client : Nat) (b : Bench) : Bench :=
  match b.body.grantOf client with
  | some g =>
    if g.gstate = .orphaned then
      (b.changeGrant g.token (Grant.revived now)).emit
        [.insert .grantExpiry (.grant b.slot g.token) (tickPlus now g.term.toNat)]
    else b
  | none => b

/-- Action REVIVE of a session whose lapse is due under HOLD (R80): its waiter is removed, and its grant
runs on from now. -/
def Bench.settleReviveDue (now : Tick) (client : Nat) (b : Bench) : Bench :=
  let b1 := b.dropWaiterOf now client
  match b1.body.grantOf client with
  | some g =>
    (b1.changeGrant g.token (Grant.revived now)).emit
      [.move .grantExpiry (.grant b.slot g.token) (tickPlus now g.term.toNat)]
  | none => b1

/-- The work of a settle on a record after lazy expiry (R74). -/
def Bench.settleWork (form : SettleForm) (now : Tick) (client : Nat) (b : Bench) : Bench :=
  match form with
  | .release => b.settleRelease now client
  | .orphan => b.settleOrphan now client
  | .revive => b.settleRevive now client
  | .reviveDue => b.settleReviveDue now client

/-- The grants that a settle of this form counts as revived on a record (R80, R82). -/
def Bench.revivedBy (form : SettleForm) (client : Nat) (b : Bench) : Nat :=
  match form, b.body.grantOf client with
  | .revive, some g => if g.gstate = .orphaned then 1 else 0
  | .reviveDue, some _ => 1
  | _, _ => 0

end Sys2Proof.Machine
end

