-- ==== Sys2Proof/Machine/Sched.lean ====
section
/-! DEFINITION. The requests that the Expiry Schedule takes and the falling due of its entries (spec 05, R92 to
R97). The schedule is the list of its entries in order; the sequence of an entry is its place. -/

namespace Sys2Proof.Machine

/-- Places an entry after every entry whose deadline is less than or equal to its own (R93). -/
def schedPlace (e : Entry) : List Entry → List Entry
  | [] => [e]
  | x :: xs => if x.deadline ≤ e.deadline then x :: schedPlace e xs else e :: x :: xs

/-- The schedule without the entry of a reference (R93). -/
def schedDrop (r : Ref) (es : List Entry) : List Entry := es.filter fun e => e.ref != r

/-- The entry of a reference (R93: at most one). -/
def schedFind (r : Ref) (es : List Entry) : Option Entry := es.find? fun e => e.ref == r

/-- The request insert (R93): PENDING when the deadline is greater than the count, and DUE otherwise. -/
def schedInsert (now : Tick) (k : Kind) (r : Ref) (d : Tick) (es : List Entry) : List Entry :=
  schedPlace { kind := k, ref := r, deadline := d, due := decide (d ≤ now) } (schedDrop r es)

/-- The request move (R93): a held entry keeps its kind; otherwise the kind is the one the request names. -/
def schedMove (now : Tick) (k : Kind) (r : Ref) (d : Tick) (es : List Entry) : List Entry :=
  schedInsert now (((schedFind r es).map Entry.kind).getD k) r d es

/-- An entry whose deadline the count has reached becomes DUE (R96). -/
def Entry.reached (now : Tick) (e : Entry) : Entry :=
  if e.deadline ≤ now then { e with due := true } else e

/-- Every entry whose deadline the count has reached becomes DUE (R96). -/
def schedFallDue (now : Tick) (es : List Entry) : List Entry := es.map (Entry.reached now)

/-- A kind whose owner is the directory (R92). -/
def Kind.ofDirectory : Kind → Bool
  | .grantExpiry => true
  | .waitDeadline => true
  | .heartbeat => false
  | .grace => false

/-- The DUE entry that its owner takes next: the first in schedule order among the owner's kinds (R97). -/
def State.firstDue (s : State) (directory : Bool) : Option Entry :=
  s.main.sched.find? fun e => e.due && (e.kind.ofDirectory == directory)

/-- A request insert to the schedule. -/
def State.schedInsert (s : State) (k : Kind) (r : Ref) (d : Tick) : State :=
  s.setSched (Machine.schedInsert s.now k r d s.main.sched)

/-- A request move to the schedule. -/
def State.schedMove (s : State) (k : Kind) (r : Ref) (d : Tick) : State :=
  s.setSched (Machine.schedMove s.now k r d s.main.sched)

/-- A request remove to the schedule. -/
def State.schedRemove (s : State) (r : Ref) : State := s.setSched (schedDrop r s.main.sched)

end Sys2Proof.Machine
end

