-- ==== Sys2Proof/Machine/Ops.lean ====
section
/-! DEFINITION. The named operations of a take: checked reads that can end it (R136), results handed to the other
blocks (R9), the touch of a record (R7, R8), the quarantine (R142, R143), the close of a record with its
commit (R53, R15), the settle of a session (R74), the session check (R69), and the taking and answering of
a command frame (R183 to R186). -/

namespace Sys2Proof.Machine

/-! ### A take -/

/-- Why a take ends before its end: a control word is lost in both copies (R136). -/
inductive Halt where
  | storeFault
  deriving DecidableEq, Repr

/-- Work of a take: it changes the state and ends with a value, or is ended at a point (R136). What it
has done up to that point stands. -/
abbrev Take (α : Type) := EStateM Halt State α

/-- A checked read of a control word; its loss ends the take (R136). -/
def readControl {α : Type} [DecidableEq α] (c : Control α) : Take α := fun s =>
  match c.read s with
  | (s1, some v) => .ok v s1
  | (s1, none) => .error .storeFault s1

/-- A checked read of a session entry. Its loss ends the take; in STORE_FAULT mode a lost entry, or one that is
among the lost control words, is no entry (R136). -/
def readSession (c : Nat) : Take (Option SessEntry) := fun s =>
  match (sessionWord c).read s with
  | (s1, some e) => .ok (if s.entryLost c then none else some e) s1
  | (s1, none) => if s.inFault then .ok none s1 else .error .storeFault s1

/-- A checked read of the first words of a slot: whether all could be read. -/
def readWords (n k : Nat) : Take Bool := fun s => .ok (s.readSlot n k).2 (s.readSlot n k).1

/-! ### Requests that wait for the directory (R6, R155) -/

/-- A lapse request of this kind waits (R72; log 17). -/
def State.lapseWaits (s : State) (k : SessKind) (c : Nat) : Bool :=
  match k with
  | .heartbeat => (s.vol c).lapseHeartbeat
  | .grace => (s.vol c).lapseGrace

/-- The request still waits at its source. -/
def State.stillWaits (s : State) : Waiting → Bool
  | .frame p => s.main.arbiter.contains p
  | .due r d => s.main.sched.any fun e => e.ref == r && e.deadline == d && e.due
  | .lapse k c => s.lapseWaits k c
  | .scrub => s.main.mon.stepPending

/-- The requests that wait for the directory. -/
def State.requests (s : State) : List Waiting :=
  s.main.arbiter.map .frame ++
    (s.main.sched.filter fun e => e.due && e.kind.ofDirectory).map (fun e => .due e.ref e.deadline) ++
    ((List.range Config.sessions).flatMap fun c => [.lapse .heartbeat c, .lapse .grace c]).filter
      s.stillWaits ++
    [Waiting.scrub].filter s.stillWaits

/-- A request leaves its source: the audit step waits for it no more (R155). -/
def State.taken (s : State) (w : Waiting) : State :=
  s.setAudit { s.main.audit with ahead := s.main.audit.ahead.filter fun x => x != w }

/-- Work whose own answer nobody sees (R6). -/
def State.run (s : State) (t : Take Unit) : State :=
  match t s with
  | .ok _ s1 => s1
  | .error _ s1 => s1

/-! ### Results handed to the other blocks -/

/-- The Audit Unit is told of a key: behind the cursor of a walk it marks the audit stale (R159). -/
def Audit.told (a : Audit) (k : Key) : Audit :=
  if (a.state = .running ∨ a.state = .suspended) ∧ a.low ≤ k ∧ k < a.cursor then
    { a with stale := true }
  else a

/-- The Audit Unit is told of a key (R9, R159). -/
def State.told (s : State) (k : Key) : State := s.setAudit (s.main.audit.told k)

/-- A notice joins a queue, or is lost (R106, R107). -/
def NoticeQueue.join (q : NoticeQueue) (n : Notice) : NoticeQueue :=
  if q.queue.length < Config.noticesPerQueue then { q with queue := q.queue ++ [n] }
  else { q with lost := min (q.lost + 1) 255 }

/-- A session keeps the notices offered to it (R106). -/
def SessEntry.keepsNotices (e : SessEntry) : Bool :=
  match e.state with
  | .free => false
  | .opened => true
  | .suspect => true
  | .lapsed => true
  | .settling => e.action != .release

/-- A notice is offered to a client (R106), and the attention lines follow (R112). -/
def State.offer (s : State) (c : Nat) (n : Notice) : State :=
  if (s.session c).keepsNotices then (s.setNoticesOf c ((s.noticesOf c).join n)).driveLines else s

/-- A pool entry becomes FREE and its session's wait count loses one (R45, R47). -/
def State.freeWaiter (s : State) (id c : Nat) : State :=
  (s.setPool (Tab.del s.main.pool id)).setVol c { s.vol c with waitCount := (s.vol c).waitCount - 1 }

/-- One result handed over (R9). -/
def State.handOut (s : State) : Out → State
  | .notice c n => s.offer c n
  | .insert k r d => s.schedInsert k r d
  | .move k r d => s.schedMove k r d
  | .remove r => s.schedRemove r
  | .freeWaiter id c => s.freeWaiter id c

/-- Results handed over in order (R9). -/
def State.handOuts (s : State) (os : List Out) : State := os.foldl State.handOut s

/-- The clients of the waiters that left the pool. -/
def freedClients (os : List Out) : List Nat :=
  os.filterMap fun o => match o with
    | .freeWaiter _ c => some c
    | .notice _ _ => none
    | .insert _ _ _ => none
    | .move _ _ _ => none
    | .remove _ => none

/-- The waits-held mark of a session is cleared in a commit of its entry (R47); a settling session's mark
is the settle's matter (log 23). -/
def clearMark (c : Nat) : Take Unit := do
  let e ← readControl (sessionWord c)
  if e.waitsHeld ∧ e.state ≠ .settling then
    modify fun s => s.commit { session := some (c, { e with waitsHeld := false }) }
  else pure ()

/-- The marks of the sessions whose wait count has returned to 0 are cleared (R47). -/
def clearMarks : List Nat → Take Unit
  | [] => pure ()
  | c :: cs => do
    let s ← get
    if (s.vol c).waitCount = 0 then clearMark c else pure ()
    clearMarks cs

/-! ### The key index and the set of FREE slots (R5) -/

/-- The key index's entry of a key. -/
def State.lookup (s : State) (k : Key) : Option IndexEntry := Tab.find? s.main.index k.toNat

/-- The key under which the key index holds a slot. -/
def State.keyOfSlot (s : State) (n : Nat) : Option (Key × IndexEntry) :=
  (List.find? (fun e => e.2.slot == n) s.main.index).map fun e => (BitVec.ofNat 32 e.1, e.2)

/-- A slot is in the set of FREE slots. -/
def State.isFree (s : State) (n : Nat) : Bool := s.main.free.getLsbD n

/-- A slot joins or leaves the set of FREE slots. -/
def State.markFree (s : State) (n : Nat) (b : Bool) : State :=
  s.setFree (if b then s.main.free ||| ((1 : BitVec 1024) <<< n)
    else s.main.free &&& ~~~((1 : BitVec 1024) <<< n))

/-- The lowest FREE slot that is not among the given ones (R11, R13). -/
def State.lowestFree (s : State) (avoid : List Nat) : Option Nat :=
  (List.range Config.slots).find? fun n => s.isFree n && !avoid.contains n

/-- The key index takes a record (R5, R74). -/
def State.indexRecord (s : State) (n : Nat) (r : Rec) : State :=
  s.setIndex (Tab.put s.main.index r.key.toNat
    { slot := n, quarantined := false, holders := r.grants.map fun g => (g.client, g.token) })

/-- A key leaves the key index. -/
def State.unindex (s : State) (k : Key) : State := s.setIndex (Tab.del s.main.index k.toNat)

/-! ### Quarantine (R142, R143) -/

/-- The waiters of a slot's queue, with their ids, oldest first. -/
def State.waitersOf (s : State) (n : Nat) : List (Nat × Waiter) :=
  (s.queueOf n).filterMap fun id => (s.waiter id).map fun w => (id, w)

/-- The grants that the readable head words of a slot name (R142). -/
def readableHolders (b : Block SlotImg) : List (Nat × Token) :=
  [(2, b.val.g1), (4, b.val.g2), (6, b.val.g3), (8, b.val.g4)].filterMap fun p =>
    if b.ecc.getD p.1 .good = .double ∨ p.2.head.token = 0 then none
    else some (p.2.head.client, p.2.head.token)

/-- Word 0 of a slot could be read. -/
def identReadable (b : Block SlotImg) : Bool := b.ecc.headD .good != .double

/-- Word 0 that a quarantine commits (R142, step 5). -/
def quarantinedIdent (b : Block SlotImg) : IdWord :=
  if identReadable b then { b.val.ident with inUse := true, state := .quarantined } else IdWord.lost

/-- Word 0 of a slot is committed with new content (R134). -/
def State.commitIdent (s : State) (n : Nat) (w : IdWord) : State :=
  s.commit { images := [.slot n false { (s.store.slot n).val with ident := w }] }

/-- The removal of a record's grants and waiters at a quarantine, with their notices (R142, steps 3 and 4). -/
def quarantineOuts (now : Tick) (n : Nat) (key : Key) (holders : List (Nat × Token))
    (waiters : List (Nat × Waiter)) : List Out :=
  (holders.flatMap fun h =>
      [.remove (.grant n h.2), .notice h.1 (grantNotice now .revoked .quarantine key h.2)]) ++
    waiters.flatMap fun p =>
      [.freeWaiter p.1 p.2.client, .remove (.waiter p.1),
       .notice p.2.client (waiterNotice now .waitCancelled .quarantine key p.1)]

/-- A quarantined slot joins the quarantine set; with word 0 readable it stays in the key index, otherwise its key
leaves the index; the Audit Unit is told of the key where it is known (R142, step 6; R143, R159). -/
def State.listQuarantined (s : State) (n : Nat) (key : Option Key) (known : Bool) : State :=
  let s1 := (s.setQuar (Tab.put s.main.quar n (if known then key else none))).markFree n false
  match key, known with
  | some k, true =>
    (s1.setIndex (Tab.put s1.main.index k.toNat { slot := n, quarantined := true, holders := [] })).told k
  | some k, false => (s1.unindex k).told k
  | none, _ => s1

/-- Results are handed over, and the marks of sessions without waiters are cleared (R9, R47). -/
def deliver (outs : List Out) : Take Unit := do
  modify fun s => s.handOuts outs
  clearMarks (freedClients outs)

/-- The quarantine of an IN_USE slot, its uncorrectable words already counted (R142, R143); answers the results that
are to be handed over. -/
def quarantineWork (n : Nat) : Take (List Out) := do
  let s ← get
  let blk := s.store.slot n
  let key := match s.keyOfSlot n with
    | some (k, _) => some k
    | none => if identReadable blk then blk.val.ident.key else none
  let holders := match s.keyOfSlot n with
    | some (_, e) => e.holders
    | none => readableHolders blk
  let outs := quarantineOuts s.now n (key.getD 0) holders (s.waitersOf n)
  set (((s.setQueueOf n []).commitIdent n (quarantinedIdent blk)).listQuarantined n key (identReadable blk))
  pure outs

/-- The quarantine of a FREE slot whose word 0 cannot be read (R143). -/
def State.quarantineFree (s : State) (n : Nat) : State :=
  (s.commitIdent n IdWord.lost).listQuarantined n none false

/-- Word 0 of a FREE slot is read; where it cannot be read the slot is quarantined (R11, R143, R150). -/
def checkFreeSlot (n : Nat) : Take Bool := do
  let ok ← readWords n 1
  if ok then pure true
  else do
    modify fun s => s.quarantineFree n
    pure false

/-! ### The close of a record: its commit and its results -/

/-- The record as its commit writes it: the generation advances by one, or is 0 for a new record (R4). -/
def Bench.next (b : Bench) : Rec :=
  { b.body with gen := if b.isNew then 0 else b.body.gen + 1 }

/-- The record as the take leaves it (R16). -/
def Bench.final (b : Bench) : Rec := if b.dirty then b.next else b.body

/-- The record is to be removed with the close, whatever its persistence (R12). -/
def Bench.doomed (b : Bench) : Bench := { b with body := { b.body with persist := .transient } }

/-- The image that the take owes the slot: a freed word 0, a whole record, or nothing (R15, R53, R134). -/
def Bench.owed (b : Bench) : List Image :=
  if b.toRetire then [.slot b.slot false { b.body.image with ident := IdWord.free }]
  else if b.dirty then [.slot b.slot true b.next.image]
  else []

/-- The waiter queue of a record in hand goes back to its slot. -/
def State.requeue (s : State) (b : Bench) : State :=
  if b.queue.map Prod.fst = s.queueOf b.slot then s
  else s.setQueueOf b.slot (b.queue.map Prod.fst)

/-- The index, the set of FREE slots, the queue and the audit after a record's commit (R5, R9). -/
def State.settleIn (s : State) (b : Bench) : State :=
  let s1 := s.requeue b
  if b.toRetire then ((s1.unindex b.body.key).markFree b.slot true).told b.body.key
  else if b.dirty then ((s1.indexRecord b.slot b.body).markFree b.slot false).told b.body.key
  else s1

/-- The one commit of several records with the token counter (R34, R53). No commit where nothing is owed. -/
def State.commitBenches (s : State) (bs : List Bench) : State :=
  if (bs.flatMap Bench.owed).isEmpty then s
  else s.commit
    { images := bs.flatMap Bench.owed,
      token := if bs.any (fun b => 0 < b.issued) then (bs.getLast?.map Bench.token) else none }

/-- The commit of the records in hand, with the index, the sets and the queues after it. -/
def State.closeBenches (s : State) (bs : List Bench) : State :=
  bs.foldl State.settleIn (s.commitBenches bs)

/-- The records in hand are closed but for their results: the token counter is read where a token is issued, and all
are written in one commit (R34, R53). -/
def closeBenches (bs : List Bench) : Take Unit := do
  if bs.any (fun b => 0 < b.issued) then discard (readControl tokenWord) else pure ()
  modify fun s => s.closeBenches bs

/-- One record in hand is closed, and its results are handed over (R9). -/
def closeBench (b : Bench) : Take Unit := do
  closeBenches [b]
  deliver b.outs

/-! ### The touch (R7, R8, R15) -/

/-- The token counter as a take begins to use it (log 9). -/
def State.nextToken (s : State) : Token := (tokenWord.peek s).getD 1

/-- The record of a slot taken in hand. -/
def State.bench (s : State) (n : Nat) (tok : Option Token) : Bench :=
  { slot := n, body := (s.store.slot n).val.record, queue := s.waitersOf n,
    token := tok.getD s.nextToken, issued := 0, dirty := false, isNew := false, outs := [] }

/-- What a touch finds. -/
inductive Touched where
  /-- The touch quarantined the slot. -/
  | quarantined
  /-- Lazy expiry emptied a TRANSIENT record, which was retired. -/
  | gone
  | held (b : Bench)
  deriving DecidableEq, Repr

/-- All ten words of a slot are read and checked; an uncorrectable one quarantines it (R134, R142). Answers the
record in hand, or the results of the quarantine. -/
def openHeld (n : Nat) (tok : Option Token) : Take (Except (List Out) Bench) := do
  let ok ← readWords n Config.slotWords
  if ok then do
    let s ← get
    pure (.ok (s.bench n tok))
  else do
    let outs ← quarantineWork n
    pure (.error outs)

/-- Lazy expiry and the first check of R15 on a record in hand. Answers the results of a retirement. -/
def freshenHeld (b : Bench) : Take (Touched × List Out) := do
  let s ← get
  if (b.lazyExpiry s.now).toRetire then do
    closeBenches [b.lazyExpiry s.now]
    pure (.gone, (b.lazyExpiry s.now).outs)
  else pure (.held (b.lazyExpiry s.now), [])

/-- A touch of the record in a slot (R7, R8), with the results of what it has committed still to hand over. -/
def touchHeld (n : Nat) (tok : Option Token) : Take (Touched × List Out) := do
  match (← openHeld n tok) with
  | .error outs => pure (.quarantined, outs)
  | .ok b => freshenHeld b

/-- `openHeld`, the results of a quarantine handed over. -/
def openSlot (n : Nat) (tok : Option Token) : Take (Option Bench) := do
  match (← openHeld n tok) with
  | .error outs => do
    deliver outs
    pure none
  | .ok b => pure (some b)

/-- `freshenHeld`, the results of a retirement handed over. -/
def freshen (b : Bench) : Take Touched := do
  let r ← freshenHeld b
  deliver r.2
  pure r.1

/-- A touch of the record in a slot, its results handed over (R7, R8, R9). -/
def touch (n : Nat) (tok : Option Token) : Take Touched := do
  let r ← touchHeld n tok
  deliver r.2
  pure r.1

/-! ### Sessions -/

/-- The session's deadline is reached: an OPEN or SUSPECT session at or past its deadline (R69, step 2). -/
def State.lapseDue (s : State) (c : Nat) (e : SessEntry) : Bool :=
  (e.state == .opened || e.state == .suspect) &&
    match (s.vol c).deadline with
    | some d => decide (d ≤ s.now)
    | none => false

/-- A new deadline of a session: an entry of this kind is inserted (R68, R81, R172). -/
def State.placeDeadline (s : State) (k : Kind) (c : Nat) (d : Tick) : State :=
  (s.setVol c { s.vol c with deadline := some d }).schedInsert k (.session c) d

/-- The session has no deadline any more. -/
def State.dropDeadline (s : State) (c : Nat) : State :=
  (s.setVol c { s.vol c with deadline := none }).schedRemove (.session c)

/-- The heartbeat refresh (R70). -/
def State.refresh (s : State) (c : Nat) (e : SessEntry) : State :=
  (s.setVol c { s.vol c with deadline := some (tickPlus s.now e.hbTerm.toNat) }).schedMove .heartbeat
    (.session c) (tickPlus s.now e.hbTerm.toNat)

/-- The slots of the records that hold a grant or a waiter of a session, in ascending key order, as the key
index and the Waiter Pool give them (R74). -/
def State.settleSlots (s : State) (c : Nat) : List Nat :=
  (s.main.index.filter fun e => !e.2.quarantined && (e.2.holders.any (fun h => h.1 == c) ||
      s.main.pool.any fun p => p.2.client == c && p.2.slot == e.2.slot)).map fun e => e.2.slot

/-- Part 2 of a settle (R74): each record in its turn; answers the number of grants revived. The touch and the handoff
come before the session's own waiter is removed, so where they time that waiter out, or grant it, a HOLD session's kept
queue gets the WAIT_EXPIRED or GRANTED notice (R54, R74, R106 over the words of R60; DESIGN CHOICE: log 43). -/
def settleRecords (form : SettleForm) (c : Nat) : List Nat → Take Nat
  | [] => pure 0
  | n :: ns => do
    let k ← (do
      match (← touch n none) with
      | .quarantined => pure 0
      | .gone => pure 0
      | .held b => do
        let s ← get
        closeBench (b.settleWork form s.now c)
        pure (b.revivedBy form c))
    let r ← settleRecords form c ns
    pure (k + r)

/-- The waiters of a session whose settle was ended are discarded (R136). -/
def State.discardWaiters (s : State) (c : Nat) : State :=
  let ids := (s.main.pool.filter fun p => p.2.client == c).map Prod.fst
  let slots := (s.main.pool.filter fun p => p.2.client == c).map fun p => p.2.slot
  let s1 := s.setPool (s.main.pool.filter fun p => p.2.client != c)
  let s2 := slots.foldl (fun s n => s.setQueueOf n ((s.queueOf n).filter fun id => !ids.contains id)) s1
  (ids.foldl (fun s id => s.schedRemove (.waiter id)) s2).setVol c { s2.vol c with waitCount := 0 }

/-- A settle (R74): part 1 commits SETTLING with the action, part 2 works the records, part 3 is `finish`. A
settle ended by a lost control word discards the waiters it had not removed (R136). -/
def settle {α : Type} (form : SettleForm) (c : Nat) (e : SessEntry) (finish : Take α) :
    Take (Nat × α) := do
  modify fun s =>
    s.commit { session := some (c, { e with state := .settling, action := form.action }) }
  tryCatch (do
      let s ← get
      let n ← settleRecords form c (s.settleSlots c)
      let a ← finish
      pure (n, a))
    (fun h => do
      modify fun s => s.discardWaiters c
      throw h)

/-- Part 3 of action RELEASE (R75): the entry is FREE, its deadline, counts and queue are gone, and the lines
are driven anew. A waiting lapse request stays until it is taken (R85). -/
def State.freeSession (s : State) (c : Nat) : State :=
  let s1 := (s.commit { session := some (c, SessEntry.free) }).schedRemove (.session c)
  ((s1.setVol c { s1.vol c with deadline := none, waitCount := 0, restarted := false }).setNoticesOf c
    NoticeQueue.empty).driveLines

/-- A settle with action RELEASE (R75, R78, R84). -/
def settleRelease (c : Nat) (e : SessEntry) : Take Unit := do
  discard (settle .release c e (modify fun s => s.freeSession c))

/-- The entry of a session that lapsed under HOLD (R76). -/
def SessEntry.lapsed (e : SessEntry) : SessEntry :=
  { e with state := .lapsed, action := .none, waitsHeld := false }

/-- Part 3 of action ORPHAN (R76). -/
def State.lapseSession (s : State) (c : Nat) (e : SessEntry) : State :=
  let s1 := (s.commit { session := some (c, e.lapsed) }).dropDeadline c
  s1.setVol c { s1.vol c with waitCount := 0 }

/-- A session lapses under its policy (R73, R87); answers its entry afterwards. -/
def lapse (c : Nat) (e : SessEntry) : Take SessEntry :=
  match e.policy with
  | .release => do
    settleRelease c e
    pure SessEntry.free
  | .hold => do
    discard (settle .orphan c e (modify fun s => s.lapseSession c e))
    pure e.lapsed

/-- Steps 1 and 2 of the session check (R69); in STORE_FAULT mode no lapse is applied (R71). None: the answer
is STALE_SESSION. -/
def liveEntry (c : Nat) : Take (Option SessEntry) := do
  let s ← get
  match (← readSession c) with
  | none => pure none
  | some e =>
    if e.state = .free then pure none
    else if s.lapseDue c e then
      if s.inFault then pure (if e.state = .opened then none else some e)
      else do
        let e1 ← lapse c e
        pure (if e1.state = .free then none else some e1)
    else pure (some e)

/-- The session check with the refresh of the heartbeat (R69, R70); none: the check is passed. -/
def checkSession (f : Frame) : Take (Option Status) := do
  if Config.sessions ≤ f.client.toNat then pure (some .staleSession)
  else
    match (← liveEntry f.client.toNat) with
    | none => pure (some .staleSession)
    | some e =>
      if e.nonce ≠ f.nonce then pure (some .staleSession)
      else if e.port ≠ some f.port then pure (some .wrongPort)
      else if e.state ≠ .opened then pure (some .staleSession)
      else do
        modify fun s => s.refresh f.client.toNat e
        pure none

/-- The session column of R188. -/
inductive Need where
  | needs | may
  /-- Needs a session, or client 0xFF on the supervisor port (CREATE, RETIRE). -/
  | orSupervisor
  | skip
  deriving DecidableEq, Repr

/-- Step 5 of the order of checks (R184). -/
def sessionStep (need : Need) (f : Frame) : Take (Option Status) := do
  match need with
  | .skip => pure none
  | .needs => checkSession f
  | .may => if f.client = noClient then pure none else checkSession f
  | .orSupervisor =>
    let s ← get
    if f.client ≠ noClient then checkSession f
    else if s.main.supPort = some f.port then pure none
    else pure (some .staleSession)

/-! ### Taking a command (R183 to R186) -/

/-- What R188 says of a command: marks S and F, the session column, and the length of its arguments. -/
structure Marks where
  supervisor : Bool := false
  inFault    : Bool := false
  need       : Need := .needs
  args       : Nat := 0

/-- Steps 3 to 6 of the order of checks around a command's own work (R184), with the session step given. -/
def judgedWith (m : Marks) (f : Frame) (session : Take (Option Status)) (work : Take Reply) :
    Take Reply := do
  let s ← get
  if m.supervisor ∧ s.main.supPort ≠ some f.port then pure (.bare .notPrivileged)
  else if s.inFault ∧ m.inFault = false then pure (.bare .storeFault)
  else
    match (← session) with
    | some st => pure (.bare st)
    | none => if f.args.length ≠ m.args then pure (.bare .badArg) else work

/-- Steps 3 to 6 of the order of checks (R184). -/
def judged (m : Marks) (f : Frame) (work : Take Reply) : Take Reply :=
  judgedWith m f (sessionStep m.need f) work

/-- A response placed in a port's buffer (R186). -/
def State.respond (s : State) (p : PortId) (cmd : Byte) (r : Reply) : State :=
  s.setPort p { s.port p with
    state := .responseReady, respBuf := responseBytes cmd s.now r, readPos := 0 }

/-- The occasion of a frame command: the part is READY and the frame at the head of the arbiter's list carries
this command (R183). -/
abbrev State.offers (s : State) (i : Instr) (p : PortId) : Prop :=
  s.isReady ∧ s.main.arbiter.head? = some p ∧ (s.port p).state = .frameHeld ∧
    decodeFrame p (s.port p).cmdBuf = some i

/-- The frame leaves the list and its port becomes EXECUTING (R183). -/
def State.accept (s : State) (p : PortId) : State :=
  ((s.setArbiter s.main.arbiter.tail).setPort p { s.port p with state := .executing }).taken (.frame p)

/-- The directory takes a frame, does the command's work and places the response. A take that a lost control
word ended answers STORE_FAULT (R136). Without its occasion the command changes nothing (log 1). -/
def State.takeFrame (s : State) (i : Instr) (cmd : Byte) (f : Frame) (work : Take Reply) : State :=
  if s.offers i f.port then
    match work (s.accept f.port) with
    | .ok r s1 => s1.respond f.port cmd r
    | .error _ s1 => s1.respond f.port cmd (.bare .storeFault)
  else s

/-- What `exec` answers. -/
abbrev Answer : Type := Host.Outcome State Fault Refusal

end Sys2Proof.Machine
end

