-- ==== Sys2Proof/Machine/Clock.lean ====
section
/-! DEFINITION. Chapter 5: TIME, the advance of the Timebase, the falling due of schedule entries, and the scrub
count that the ticks drive (R150). -/

namespace Sys2Proof.Machine

/-- TIME answers the tick count and the divider phase (R91). -/
def timeWork : Take Reply := do
  let s ← get
  pure (.ok (tickBytes s.now ++ [s.tb.phase.setWidth 8]))

/-- The take of a TIME frame. -/
def takeTime (f : Frame) (s : State) : State :=
  s.takeFrame (.time f) 0x02 f (judged { inFault := true, need := .may } f timeWork)

/-- TIME (R91). -/
def execTime (f : Frame) (s : State) : Answer := .next (takeTime f s)

/-- The scrub control after a number of ticks: the count goes on while the part is READY, and a step becomes
pending when the count reaches the interval (R150). -/
def Monitor.countTicks (m : Monitor) (ticks : Nat) : Monitor :=
  { m with
    count := m.count + ticks,
    stepPending := m.stepPending ||
      (m.interval != 0 && decide (0 < ticks) && decide (m.interval.toNat ≤ m.count + ticks)) }

/-- The ticks that a number of crystal cycles make: one for every 128th cycle (R89). -/
def Timebase.ticksOf (t : Timebase) (cycles : Nat) : Nat := (t.phase.toNat + cycles) / 128

/-- The advances that the count makes: it holds at 2^40 − 1 (R89; log 26). -/
def Timebase.advances (t : Timebase) (cycles : Nat) : Nat :=
  min (t.ticksOf cycles) (2 ^ 40 - 1 - t.tick.toNat)

/-- The Timebase after a number of crystal cycles (R89). -/
def Timebase.advance (t : Timebase) (cycles : Nat) : Timebase :=
  { tick := BitVec.ofNat 40 (t.tick.toNat + t.advances cycles),
    phase := BitVec.ofNat 7 (t.phase.toNat + cycles) }

/-- The passing of crystal cycles: the count runs whenever VBAT is present (R89); in the main domain entries
fall due (R96) and the scrub counts while the part is READY (R150). -/
def takeAdvance (cycles : Nat) (s : State) : State :=
  if s.power.vbat = false then s
  else
    let s1 := s.setTb (s.tb.advance cycles)
    if s.isActive then
      let s2 := s1.setSched (schedFallDue s1.now s1.main.sched)
      if s.isReady then s2.setMon (s2.main.mon.countTicks (s.tb.advances cycles)) else s2
    else s1

/-- TIMEBASE_ADVANCE (R89, R96). -/
def execTimebaseAdvance (cycles : Nat) (s : State) : Answer := .next (takeAdvance cycles s)

/-- One entry falls due where the count has reached its deadline (R96; log 27). -/
def takeFallsDue (r : Ref) (s : State) : State :=
  if s.isActive then
    s.setSched (s.main.sched.map fun e => if e.ref = r then e.reached s.now else e)
  else s

/-- ENTRY_FALLS_DUE (R96). -/
def execEntryFallsDue (r : Ref) (s : State) : Answer := .next (takeFallsDue r s)

/-- A scrub step becomes pending where the count has reached the interval (R150; log 27). -/
def takeScrubPending (s : State) : State :=
  if s.isReady ∧ s.main.mon.interval ≠ 0 ∧ s.main.mon.interval.toNat ≤ s.main.mon.count then
    s.setMon { s.main.mon with stepPending := true }
  else s

/-- SCRUB_STEP_PENDING (R150). -/
def execScrubStepPending (s : State) : Answer := .next (takeScrubPending s)

end Sys2Proof.Machine
end

