-- ==== Sys2Proof/Machine/HostPorts.lean ====
section
/-! DEFINITION. Chapter 11: INFO, the unknown command, and the transactions of the host ports. -/

namespace Sys2Proof.Machine

/-- The INFO payload (R185). -/
def infoPayload (sup : Option PortId) (fault : Bool) : List Byte :=
  [0x41, 0x20] ++ beBytes 2 Config.slots ++
    [BitVec.ofNat 8 Config.sessions, BitVec.ofNat 8 Config.waiters,
     BitVec.ofNat 8 Config.waitsPerClient, 4, BitVec.ofNat 8 Config.noticesPerQueue, 4, portCode sup,
     onOff fault]

/-- INFO (R185). -/
def infoWork : Take Reply := do
  let s ← get
  pure (.ok (infoPayload s.main.supPort s.main.mon.fault))

/-- The take of an INFO frame. -/
def takeInfo (f : Frame) (s : State) : State :=
  s.takeFrame (.info f) 0x01 f (judged { inFault := true, need := .may } f infoWork)

/-- INFO (R185). -/
def execInfo (f : Frame) (s : State) : Answer := .next (takeInfo f s)

/-- The take of a frame whose CMD byte is no code of R188 (R184, step 2). -/
def takeUnknown (cmd : Byte) (f : Frame) (s : State) : State :=
  s.takeFrame (.unknownCommand cmd f) cmd f (pure (.bare .unknownCommand))

/-- UNKNOWN_COMMAND (R184, step 2). -/
def execUnknownCommand (cmd : Byte) (f : Frame) (s : State) : Answer := .next (takeUnknown cmd f s)

/-! ### Transactions (R177, R178) -/

/-- The I2C address of port C (R178). -/
def State.portAddress (s : State) : BitVec 7 := 0x3C + s.power.addr.setWidth 7

/-- A port answers a transaction: the part is ACTIVE with RESET# high (R176), and on port C the address is its
own (R178). -/
def State.answers (s : State) (p : PortId) (address : BitVec 7) : Bool :=
  decide s.isActive && s.power.resetN &&
    match p with
    | .a => true
    | .b => true
    | .c => address == s.portAddress

/-- The byte that the port sends during the leading byte: the status byte on an SPI port (R177). -/
def State.leadByte (s : State) (p : PortId) : Option Byte :=
  match p with
  | .a => some (s.statusByte p)
  | .b => some (s.statusByte p)
  | .c => none

/-- The bytes that an SPI port sends while the host sends `n` bytes of a frame: zeros (R177). On port C the
host's bytes are acknowledged and nothing is sent. -/
def zerosOn (p : PortId) (n : Nat) : List Byte :=
  match p with
  | .a => List.replicate n 0
  | .b => List.replicate n 0
  | .c => []

/-- A read that had a leading byte: every SPI transaction, and on port C the reads that name one (R178). -/
def readsStatus (p : PortId) (leading : Bool) : Bool :=
  match p with
  | .a => true
  | .b => true
  | .c => leading

/-- A status read: the status byte repeated; the flags are cleared as it ends (R177, R178, R182). -/
def takeStatusRead (p : PortId) (address : BitVec 7) (leading : Bool) (count : Nat) (s : State) :
    State :=
  if s.answers p address then
    let x := { s.port p with
      lead := s.leadByte p, sent := List.replicate count (s.statusByte p) }
    s.setPort p (if readsStatus p leading then x.clearFlags else x)
  else s

/-- STATUS_READ (R177, R178, R182). -/
def execStatusRead (p : PortId) (address : BitVec 7) (leading : Bool) (count : Nat) (s : State) :
    Answer :=
  .next (takeStatusRead p address leading count s)

/-- The bytes of a response read: the response from byte 0, then zeros (R181). -/
def Port.readBytes (x : Port) (count : Nat) : List Byte :=
  if x.state = .responseReady then
    x.respBuf.take count ++ List.replicate (count - x.respBuf.length) 0
  else List.replicate count 0

/-- A port after a response read: IDLE where the last byte has been sent (R181). After a read that stops early the read
position stays at the number of bytes clocked, which nothing reads, as each read begins again at byte 0 (DESIGN CHOICE:
log 22). -/
def Port.afterRead (x : Port) (count : Nat) : Port :=
  if x.state = .responseReady then
    if x.respBuf.length ≤ count then { x with state := .idle, respBuf := [], readPos := 0 }
    else { x with readPos := count }
  else x

/-- A response read (R177, R178, R181). -/
def takeResponseRead (p : PortId) (address : BitVec 7) (count : Nat) (s : State) : State :=
  if s.answers p address then
    s.setPort p { (s.port p).afterRead count with
      lead := s.leadByte p, sent := (s.port p).readBytes count }
  else s

/-- RESPONSE_READ (R181). -/
def execResponseRead (p : PortId) (address : BitVec 7) (count : Nat) (s : State) : Answer :=
  .next (takeResponseRead p address count s)

/-- The first frame byte by the port's state (R179). -/
def Port.firstByte (x : Port) (b : Byte) : Port :=
  match x.state with
  | .idle => { x with state := .receiving, cmdBuf := [b], received := 1 }
  | .receiving => x
  | .frameHeld => { x with collided := true }
  | .executing => { x with collided := true }
  | .responseReady =>
    { x with state := .receiving, cmdBuf := [b], received := 1, respBuf := [], readPos := 0,
             discarded := true }

/-- The first frame byte of a command write (R179). -/
def takeFirstByte (p : PortId) (address : BitVec 7) (b : Byte) (s : State) : State :=
  if s.answers p address then
    s.setPort p { (s.port p).firstByte b with lead := s.leadByte p, sent := zerosOn p 1 }
  else s

/-- FIRST_FRAME_BYTE (R179). -/
def execFirstFrameByte (p : PortId) (address : BitVec 7) (b : Byte) (s : State) : Answer :=
  .next (takeFirstByte p address b s)

/-- A port with the further bytes of a frame: bytes beyond the 64th are counted and not stored (R179). -/
def Port.store (x : Port) (more : List Byte) : Port :=
  { x with cmdBuf := (x.cmdBuf ++ more).take 64, received := x.received + more.length }

/-- The CMD byte that a FRAME_ERROR response echoes (R180). -/
def Port.echo (x : Port) : Byte := if 2 ≤ x.received then byteAt x.cmdBuf 1 else 0

/-- The end of a frame: the further bytes are stored and the frame is checked. A sound one is held and joins the
arbiter's list; otherwise the port places FRAME_ERROR (R179, R180, R183). -/
def takeFrameEnd (p : PortId) (more : List Byte) (s : State) : State :=
  if decide s.isActive && s.power.resetN && (s.port p).state == .receiving then
    let x := { (s.port p).store more with sent := (s.port p).sent ++ zerosOn p more.length }
    if frameSound x.cmdBuf x.received then
      (s.setPort p { x with state := .frameHeld }).setArbiter (s.main.arbiter ++ [p])
    else
      s.setPort p { x with
        state := .responseReady, respBuf := responseBytes x.echo s.now (.bare .frameError),
        readPos := 0, frameErr := true }
  else s

/-- FRAME_END (R179, R180). -/
def execFrameEnd (p : PortId) (more : List Byte) (s : State) : Answer := .next (takeFrameEnd p more s)

end Sys2Proof.Machine
end

