-- ==== Sys2Proof/Machine/Notices.lean ====
section
/-! DEFINITION. Chapter 6: FETCH NOTICES and ATTENTION. -/

namespace Sys2Proof.Machine

/-- A queue after FETCH NOTICES has removed up to `n` notices and cleared the lost count (R110). -/
def NoticeQueue.fetched (q : NoticeQueue) (n : Nat) : NoticeQueue :=
  { queue := q.queue.drop n, lost := 0 }

/-- The FETCH NOTICES payload: the removed notices, the lost count before it was cleared, the number left
(R110). -/
def fetchPayload (q : NoticeQueue) (n : Nat) : List Byte :=
  (q.queue.take n).flatMap Notice.bytes ++
    [BitVec.ofNat 8 q.lost, BitVec.ofNat 8 (q.queue.drop n).length]

/-- FETCH NOTICES's own check and work: COUNT 1 (R109, R110). -/
def fetchWork (f : Frame) : Take Reply := do
  let s ← get
  let n := (byteAt f.args 0).toNat
  let c := f.client.toNat
  if n = 0 ∨ 4 < n then pure (.bare .badArg)
  else do
    set (s.setNoticesOf c ((s.noticesOf c).fetched n)).driveLines
    pure (.ok (fetchPayload (s.noticesOf c) n))

/-- The take of a FETCH NOTICES frame. -/
def takeFetchNotices (f : Frame) (s : State) : State :=
  s.takeFrame (.fetchNotices f) 0x40 f (judged { args := 1 } f (fetchWork f))

/-- FETCH NOTICES (R109, R110). -/
def execFetchNotices (f : Frame) (s : State) : Answer := .next (takeFetchNotices f s)

/-- ATTENTION's own check and work: ENABLE 1 (R111). -/
def attentionWork (f : Frame) : Take Reply := do
  match onOffOf (byteAt f.args 0) with
  | none => pure (.bare .badArg)
  | some on => do
    let e ← readControl (sessionWord f.client.toNat)
    if e.attention = on then do
      modify State.driveLines
      pure (.bare .ok)
    else do
      modify fun s =>
        (s.commit { session := some (f.client.toNat, { e with attention := on }) }).driveLines
      pure (.bare .ok)

/-- The take of an ATTENTION frame. -/
def takeAttention (f : Frame) (s : State) : State :=
  s.takeFrame (.attention f) 0x41 f (judged { args := 1 } f (attentionWork f))

/-- ATTENTION (R111). -/
def execAttention (f : Frame) (s : State) : Answer := .next (takeAttention f s)

end Sys2Proof.Machine
end

