-- ==== Sys2Proof/Machine/Directory.lean ====
section
/-! DEFINITION. Chapter 1: CREATE, RETIRE, LOOKUP and ENUMERATE. -/

namespace Sys2Proof.Machine

/-! ### CREATE (R10, R11) -/

/-- The create right of a zone lets this port create and retire there (R10, R12). -/
def State.mayCreate (s : State) (z : ZoneAttr) (p : PortId) : Bool :=
  !z.supOnly || s.main.supPort == some p

/-- Check 3 of R10: the key is not in use; a record that holds it is touched. None: the check passes. -/
def keyUnused (k : Key) : Take (Option Status) := do
  let s ← get
  match s.lookup k with
  | none => pure none
  | some e =>
    if e.quarantined then pure (some .quarantined)
    else
      match (← touch e.slot none) with
      | .quarantined => pure (some .quarantined)
      | .gone => pure none
      | .held b => do
        closeBench b
        pure (some .exists_)

/-- The record that CREATE commits (R11). -/
def newRecord (k : Key) (zone : BitVec 2) (persist : Persist) (share : Nat) (d m : Term) : Rec :=
  { key := k, zone := zone, state := .vacant, persist := persist, defTerm := d, maxTerm := m,
    share := share, gen := 0, grants := [] }

/-- A new record in hand, in a FREE slot (R11, R13). -/
def newBench (n : Nat) (tok : Token) (r : Rec) : Bench :=
  { slot := n, body := r, queue := [], token := tok, issued := 0, dirty := true, isNew := true,
    outs := [] }

/-- The terms and the share limit that CREATE carries are in range (R10, check 5). -/
def createArgsOk (share : Nat) (d m : Term) : Bool :=
  decide (1 ≤ share) && decide (share ≤ 4) && m != 0 && d != 0 && decide (d ≤ m)

/-- R11: the new record goes into the lowest FREE slot. -/
def createIn (n : Nat) (r : Rec) : Take Reply := do
  if (← checkFreeSlot n) then do
    closeBench (newBench n 0 r)
    pure (.ok (r.summary 0))
  else pure (.bare .quarantined)

/-- CREATE's own checks and work: KEY 4, SHARE 1, DEF_TERM 3, MAX_TERM 3 (R10, R11). -/
def createWork (f : Frame) : Take Reply := do
  let map ← readControl zoneWord
  let s ← get
  let k := keyAt f.args 0
  let share := (byteAt f.args 4).toNat
  if !s.mayCreate (map.attr (map.classify k)) f.port then pure (.bare .zoneDenied)
  else if reservedKey k then pure (.bare .badKey)
  else
    match (← keyUnused k) with
    | some st => pure (.bare st)
    | none => do
      let s ← get
      match s.lowestFree [] with
      | none => pure (.bare .noSpace)
      | some n =>
        if !createArgsOk share (termAt f.args 5) (termAt f.args 8) then pure (.bare .badArg)
        else
          createIn n
            (newRecord k (map.classify k) .pinned share (termAt f.args 5) (termAt f.args 8))

/-- The take of a CREATE frame. -/
def takeCreate (f : Frame) (s : State) : State :=
  s.takeFrame (.create f) 0x20 f (judged { need := .orSupervisor, args := 11 } f (createWork f))

/-- CREATE (R10, R11). -/
def execCreate (f : Frame) (s : State) : Answer := .next (takeCreate f s)

/-! ### RETIRE (R12) -/

/-- Checks 3 to 5 of R12 and the removal of the record. -/
def retireRecord (k : Key) : Take Reply := do
  let s ← get
  match s.lookup k with
  | none => pure (.bare .notFound)
  | some e =>
    if e.quarantined then pure (.bare .quarantined)
    else
      match (← touch e.slot none) with
      | .quarantined => pure (.bare .quarantined)
      | .gone => pure (.bare .ok)
      | .held b =>
        if b.body.state = .vacant ∧ b.queue = [] then do
          closeBench b.doomed
          pure (.bare .ok)
        else do
          closeBench b
          pure (.bare .busy)

/-- RETIRE's own checks and work: KEY 4 (R12). -/
def retireWork (f : Frame) : Take Reply := do
  let map ← readControl zoneWord
  let s ← get
  let k := keyAt f.args 0
  if !s.mayCreate (map.attr (map.classify k)) f.port then pure (.bare .zoneDenied)
  else if reservedKey k then pure (.bare .badKey)
  else retireRecord k

/-- The take of a RETIRE frame. -/
def takeRetire (f : Frame) (s : State) : State :=
  s.takeFrame (.retire f) 0x21 f (judged { need := .orSupervisor, args := 4 } f (retireWork f))

/-- RETIRE (R12). -/
def execRetire (f : Frame) (s : State) : Answer := .next (takeRetire f s)

/-! ### LOOKUP (R16, R19) -/

/-- The zone of a key by the zone map as it stands; free where the map is lost (R16; log 13). -/
def State.zoneByte (s : State) (k : Key) : Byte :=
  match zoneWord.peek s with
  | some m => (m.classify k).setWidth 8
  | none => Config.lostZone k

/-- The zone of a record whose slot a take has read and could not read whole (R16; log 13). -/
def State.zoneOfBad (s : State) (k : Key) (n : Nat) : Byte :=
  if identReadable (s.store.slot n) then (s.store.slot n).val.ident.zone.setWidth 8 else s.zoneByte k

/-- LOOKUP answered QUARANTINED carries an image (R16, R186). -/
def quarantinedReply (k : Key) (zone : Byte) : Reply :=
  { status := .quarantined, payload := quarantinedSummary k zone }

/-- The record of a slot as LOOKUP and ENUMERATE show it in STORE_FAULT mode: read and counted, nothing
applied and nothing written (R19). None: it cannot be read. -/
def showRecord (n : Nat) : Take (Option Rec) := do
  let s ← get
  let ok ← readWords n Config.slotWords
  pure (if ok then some (s.store.slot n).val.record else none)

/-- LOOKUP of a record that is not QUARANTINED (R16). -/
def lookupRecord (k : Key) (n : Nat) : Take Reply := do
  let s ← get
  if s.inFault then
    match (← showRecord n) with
    | some r => pure (.ok (r.summary (s.queueOf n).length))
    | none => pure (quarantinedReply k (s.zoneOfBad k n))
  else
    match (← touch n none) with
    | .quarantined => pure (quarantinedReply k (s.zoneOfBad k n))
    | .gone => pure (.bare .notFound)
    | .held b => do
      closeBench b
      pure (.ok (b.final.summary b.queue.length))

/-- LOOKUP's own checks and work: KEY 4 (R16). -/
def lookupWork (f : Frame) : Take Reply := do
  let s ← get
  let k := keyAt f.args 0
  if reservedKey k then pure (.bare .badKey)
  else
    match s.lookup k with
    | none => pure (.bare .notFound)
    | some e =>
      if e.quarantined then pure (quarantinedReply k (s.zoneByte k))
      else lookupRecord k e.slot

/-- The take of a LOOKUP frame. -/
def takeLookup (f : Frame) (s : State) : State :=
  s.takeFrame (.lookup f) 0x22 f
    (judged { inFault := true, need := .may, args := 4 } f (lookupWork f))

/-- LOOKUP (R16). -/
def execLookup (f : Frame) (s : State) : Answer := .next (takeLookup f s)

/-! ### ENUMERATE (R17, R18) -/

/-- The entry of a record that the walk reaches; none where the walk passes it over (R17, R19). -/
def listRecord (k : Key) (e : IndexEntry) : Take (Option (List Byte)) := do
  let s ← get
  if e.quarantined then pure (some (quarantinedEntry k))
  else if s.inFault then
    match (← showRecord e.slot) with
    | some r => pure (some (r.entry (s.queueOf e.slot).length))
    | none => pure (some (quarantinedEntry k))
  else
    match (← touch e.slot none) with
    | .quarantined => do
      let s ← get
      pure (if (s.lookup k).isSome then some (quarantinedEntry k) else none)
    | .gone => pure none
    | .held b => do
      closeBench b
      pure (some (b.final.entry b.queue.length))

/-- The walk over the keys of the index from the start key upward: it lists up to `left` records, and the first
listable key after them is the next key; 0 at the end of the index (R17, R18). Answers the entries,
the number listed and the next key. -/
def enumWalk : List (Nat × IndexEntry) → Nat → Take (List Byte × Nat × Key)
  | [], _ => pure ([], 0, 0)
  | (k, e) :: es, left => do
    match (← listRecord (BitVec.ofNat 32 k) e), left with
    | none, _ => enumWalk es left
    | some _, 0 => pure ([], 0, BitVec.ofNat 32 k)
    | some bytes, n + 1 => do
      let r ← enumWalk es n
      pure (bytes ++ r.1, r.2.1 + 1, r.2.2)

/-- ENUMERATE's own checks and work: START 4, COUNT 1 (R17, R18; the order of the checks: log 31). -/
def enumerateWork (f : Frame) : Take Reply := do
  let s ← get
  let start := keyAt f.args 0
  let count := (byteAt f.args 4).toNat
  if start = 0xFFFFFFFF then pure (.bare .badKey)
  else if count = 0 ∨ 8 < count then pure (.bare .badArg)
  else do
    let r ← enumWalk (s.main.index.filter fun e => start.toNat ≤ e.1) count
    pure (.ok (r.1 ++ keyBytes r.2.2 ++ [BitVec.ofNat 8 r.2.1]))

/-- The take of an ENUMERATE frame. -/
def takeEnumerate (f : Frame) (s : State) : State :=
  s.takeFrame (.enumerate f) 0x23 f
    (judged { inFault := true, need := .may, args := 5 } f (enumerateWork f))

/-- ENUMERATE (R17, R18). -/
def execEnumerate (f : Frame) (s : State) : Answer := .next (takeEnumerate f s)

end Sys2Proof.Machine
end

