-- ==== Sys2Proof/Machine/Grants.lean ====
section
/-! DEFINITION. Chapter 2: ACQUIRE, ACQUIRE SET, RENEW, RELEASE and DOWNGRADE; and the expiry event of a grant. -/

namespace Sys2Proof.Machine

/-! ### Locating a record for an acquisition (R13, R28) -/

/-- A record prepared from the auto policy of its zone (R13). -/
def preparedRecord (map : ZoneMap) (k : Key) : Rec :=
  newRecord k (map.classify k) .transient (map.attr (map.classify k)).share
    (map.attr (map.classify k)).defTerm (map.attr (map.classify k)).maxTerm

/-- An acquisition on an absent key: auto-create in the lowest FREE slot that is not already prepared
(R13). -/
def prepareRecord (k : Key) (tok : Option Token) (prepared : List Nat) :
    Take (Except Status Bench) := do
  let map ← readControl zoneWord
  let s ← get
  if (map.attr (map.classify k)).autoCreate = false then pure (.error .notFound)
  else
    match s.lowestFree prepared with
    | none => pure (.error .noSpace)
    | some n =>
      if (← checkFreeSlot n) then
        pure (.ok (newBench n (tok.getD s.nextToken) (preparedRecord map k)))
      else pure (.error .quarantined)

/-- The record that an acquisition names, in hand (R28). -/
def locate (k : Key) (tok : Option Token) (prepared : List Nat) : Take (Except Status Bench) := do
  let s ← get
  match s.lookup k with
  | none => prepareRecord k tok prepared
  | some e =>
    if e.quarantined then pure (.error .quarantined)
    else
      match (← touch e.slot tok) with
      | .quarantined => pure (.error .quarantined)
      | .gone => prepareRecord k tok prepared
      | .held b => pure (.ok b)

/-- A record in hand is closed when its request is refused: a prepared record is not kept (R14). -/
def closeRefused (b : Bench) : Take Unit := if b.isNew then pure () else closeBench b

/-- The client holds a grant on the record or has a waiter in its queue (R29). -/
def Bench.names (client : Nat) (b : Bench) : Bool :=
  (b.body.grantOf client).isSome || (b.waiterOf client).isSome

/-- A request is grantable at once (R24). -/
def Bench.grantable (client : Nat) (m : Mode) (b : Bench) : Bool :=
  b.body.admits client m && b.queue.isEmpty

/-! ### Queueing (R31, R48) -/

/-- The lowest FREE pool entry (R45). -/
def State.freeEntry (s : State) : Option Nat :=
  (List.range Config.waiters).find? fun id => (s.waiter id).isNone

/-- A waiter is linked at the tail of its record's queue, counted and scheduled (R48). -/
def State.enqueue (s : State) (id : Nat) (w : Waiter) : State :=
  let s1 := (s.setPool (Tab.put s.main.pool id w)).setQueueOf w.slot (s.queueOf w.slot ++ [id])
  (s1.setVol w.client { s1.vol w.client with waitCount := (s1.vol w.client).waitCount + 1 }).schedInsert
    .waitDeadline (.waiter id) w.deadline

/-- A request is queued (R48), the waits-held mark set where the count was 0 (R47). -/
def queueRequest (id : Nat) (w : Waiter) : Take Reply := do
  let s ← get
  if (s.vol w.client).waitCount = 0 then do
    let e ← readControl (sessionWord w.client)
    modify fun s =>
      (s.enqueue id w).commit { session := some (w.client, { e with waitsHeld := true }) }
  else modify fun s => s.enqueue id w
  pure { status := .queued, payload := BitVec.ofNat 8 id :: tickBytes w.deadline }

/-- The three checks of R31 for a request that would wait. -/
def waitRequest (b : Bench) (client : Nat) (m : Mode) (term wait : Term) : Take Reply := do
  let map ← readControl zoneWord
  let s ← get
  if (map.attr b.body.zone).waits = false then pure (.bare .zoneDenied)
  else
    match s.freeEntry with
    | none => pure (.bare .noWaiter)
    | some id =>
      if Config.waitsPerClient ≤ (s.vol client).waitCount then pure (.bare .waitLimit)
      else
        queueRequest id { client := client, slot := b.slot, mode := m, term := term,
                          deadline := tickPlus s.now wait.toNat }

/-! ### ACQUIRE (R27 to R31) -/

/-- ACQUIRE on the located record (R29 to R31). -/
def acquireOn (b : Bench) (client : Nat) (m : Mode) (term wait : Term) : Take Reply := do
  let s ← get
  if b.names client then do
    closeRefused b
    pure (.bare .exists_)
  else if b.body.maxTerm < b.body.resolve term then do
    closeRefused b
    pure (.bare .badArg)
  else if b.grantable client m then do
    closeBench (b.issue s.now client m (b.body.resolve term))
    pure (.ok (tokenBytes b.token ++
      tickBytes (tickPlus s.now (b.body.resolve term).toNat) ++ termBytes (b.body.resolve term)))
  else if wait = 0 then do
    closeRefused b
    pure (.bare .busy)
  else do
    closeRefused b
    waitRequest b client m (b.body.resolve term) wait

/-- ACQUIRE's own checks and work: KEY 4, MODE 1, TERM 3, WAIT 3 (R27 to R31). -/
def acquireWork (f : Frame) : Take Reply :=
  let k := keyAt f.args 0
  if reservedKey k then pure (.bare .badKey)
  else
    match modeOf (byteAt f.args 4) with
    | none => pure (.bare .badArg)
    | some m => do
      match (← locate k none []) with
      | .error st => pure (.bare st)
      | .ok b => acquireOn b f.client.toNat m (termAt f.args 5) (termAt f.args 8)

/-- The take of an ACQUIRE frame. -/
def takeAcquire (f : Frame) (s : State) : State :=
  s.takeFrame (.acquire f) 0x30 f (judged { args := 11 } f (acquireWork f))

/-- ACQUIRE (R27 to R31). -/
def execAcquire (f : Frame) (s : State) : Answer := .next (takeAcquire f s)

/-! ### ACQUIRE SET (R32 to R34) -/

/-- A refusal with its failure index (R186). -/
def refusedAt (st : Status) (i : Byte) : Reply := { status := st, payload := [i] }

/-- The keys and modes that the list carries, `n` of them from offset `i` (R188). -/
def setItems (args : List Byte) : Nat → Nat → List (Key × Byte)
  | 0, _ => []
  | n + 1, i => (keyAt args i, byteAt args (i + 4)) :: setItems args n (i + 5)

/-- The checks of the list (R32): the first failure with its index, or the keys with their modes. -/
def checkItems : List (Key × Byte) → List Key → Nat → Except (Status × Nat) (List (Key × Mode))
  | [], _, _ => .ok []
  | (k, mb) :: items, seen, i =>
    if reservedKey k then .error (.badKey, i)
    else
      match modeOf mb with
      | none => .error (.badArg, i)
      | some m =>
        if seen.contains k then .error (.badArg, i)
        else
          match checkItems items (k :: seen) (i + 1) with
          | .error e => .error e
          | .ok l => .ok ((k, m) :: l)

/-- A record of the set with what is to be granted on it. -/
structure SetItem where
  bench : Bench
  mode  : Mode
  term  : Term
  deriving DecidableEq, Repr

/-- Checks 2 to 4 of R33 on the record of one key. -/
def setItemOn (b : Bench) (client : Nat) (m : Mode) (term : Term) : Except Status SetItem :=
  if b.names client then .error .exists_
  else if b.body.maxTerm < b.body.resolve term then .error .badArg
  else if b.grantable client m then
    .ok { bench := b, mode := m, term := b.body.resolve term }
  else .error .busy

/-- The token counter as the records in hand leave it. -/
def tokenAfter (done : List SetItem) : Option Token := done.getLast?.map fun x => x.bench.token

/-- The slots prepared for earlier keys of the set (R13). -/
def preparedSlots (done : List SetItem) : List Nat :=
  (done.filter fun x => x.bench.isNew).map fun x => x.bench.slot

/-- What a touch of the set has changed and whose results are still to be handed over, so that they go out in the
order of the changes (R9, R108): a record that the touch has committed, retired or quarantined, or a record in
hand. -/
inductive Change where
  | committed (outs : List Out)
  | inHand (b : Bench)
  deriving DecidableEq, Repr

/-- The results of a change. -/
def Change.outs : Change → List Out
  | .committed outs => outs
  | .inHand b => b.outs

/-- The results of the changes already committed. -/
def committedOuts (cs : List Change) : List Out :=
  cs.flatMap fun c => match c with
    | .committed outs => outs
    | .inHand _ => []

/-- Results of commits that stood before STORE_FAULT mode began, handed over as they were before it, so that the
attention lines follow them (R9, R114, R136; log 10). -/
def State.handOutsBefore (s : State) (outs : List Out) : State :=
  ((s.setMon { s.main.mon with fault := false }).handOuts outs).setMon s.main.mon

/-- Work that a lost control word may end: the results of the changes already committed are handed over all the same,
as they were before the mode that the loss begins (R136; log 10). -/
def orHandOver {α : Type} (cs : List Change) (work : Take α) : Take α :=
  tryCatch work fun h => do
    modify fun s => s.handOutsBefore (committedOuts cs)
    throw h

/-- The record of one key of the set, in hand (R33, check 1), and the changes so far. -/
def locateHeld (k : Key) (tok : Option Token) (prepared : List Nat) (past : List Change) :
    Take (Except Status Bench × List Change) := do
  let s ← get
  match s.lookup k with
  | none => do
    let r ← orHandOver past (prepareRecord k tok prepared)
    pure (r, past)
  | some e =>
    if e.quarantined then pure (.error .quarantined, past)
    else
      match (← touchHeld e.slot tok) with
      | (.quarantined, outs) => pure (.error .quarantined, past ++ [.committed outs])
      | (.gone, outs) => do
        let r ← orHandOver (past ++ [.committed outs]) (prepareRecord k tok prepared)
        pure (r, past ++ [.committed outs])
      | (.held b, _) => pure (.ok b, past)

/-- A refusal closes the records in hand, with the changes of lazy expiry, and hands the results over in the order of
the changes (R33; log 29). -/
def closeAll : List Change → Take Unit
  | [] => pure ()
  | .committed outs :: cs => do
    orHandOver cs (deliver outs)
    closeAll cs
  | .inHand b :: cs => do
    orHandOver cs (closeRefused b)
    closeAll cs

/-- The keys in listed order, each through the checks of R33. A failure closes the records touched so far and
answers with the key's index. -/
def examine (client : Nat) (term : Term) :
    List (Key × Mode) → List SetItem → List Change → Take (Except Reply (List SetItem × List Change))
  | [], done, past => pure (.ok (done, past))
  | (k, m) :: items, done, past => do
    match (← locateHeld k (tokenAfter done) (preparedSlots done) past) with
    | (.error st, past) => do
      closeAll past
      pure (.error (refusedAt st (BitVec.ofNat 8 done.length)))
    | (.ok b, past) =>
      match setItemOn b client m term with
      | .error st => do
        closeAll (past ++ [.inHand b])
        pure (.error (refusedAt st (BitVec.ofNat 8 done.length)))
      | .ok it => examine client term items (done ++ [it]) (past ++ [.inHand b])

/-- The grants of the set in listed order, with consecutive tokens (R34). -/
def issueSet (now : Tick) (client : Nat) : Token → List SetItem → List Bench
  | _, [] => []
  | tok, x :: xs =>
    let b := Bench.issue now client x.mode x.term { x.bench with token := tok, outs := [] }
    b :: issueSet now client b.token xs

/-- The last grant of a record in hand, as the response of ACQUIRE SET gives it (R34). -/
def Bench.lastGrantBytes (b : Bench) : List Byte :=
  match b.body.grants.getLast? with
  | some g => tokenBytes g.token ++ tickBytes g.expiry
  | none => []

/-- R34: every grant of the set in one commit; the results of the touches go out before those of the grants. -/
def grantSet (client : Nat) (items : List SetItem) (past : List Change) : Take Reply := do
  let s ← get
  let bs := issueSet s.now client ((tokenAfter items).getD 0) items
  orHandOver past (closeBenches bs)
  deliver (past.flatMap Change.outs ++ bs.flatMap Bench.outs)
  pure (.ok (bs.flatMap Bench.lastGrantBytes))

/-- ACQUIRE SET's own checks and work: COUNT 1, TERM 3, then KEY 4 and MODE 1 for each key (R32 to R34). The
length check of R184 is made here, because it too carries the index 0xFF. -/
def acquireSetWork (f : Frame) : Take Reply :=
  let count := (byteAt f.args 0).toNat
  if f.args.length ≠ 4 + 5 * count then pure (refusedAt .badArg 0xFF)
  else if count = 0 ∨ 4 < count then pure (refusedAt .badArg 0xFF)
  else
    match checkItems (setItems f.args count 4) [] 0 with
    | .error (st, i) => pure (refusedAt st (BitVec.ofNat 8 i))
    | .ok items => do
      match (← examine f.client.toNat (termAt f.args 1) items [] []) with
      | .error r => pure r
      | .ok (l, past) => grantSet f.client.toNat l past

/-- The take of an ACQUIRE SET frame. -/
def takeAcquireSet (f : Frame) (s : State) : State :=
  s.takeFrame (.acquireSet f) 0x31 f (judged { args := f.args.length } f (acquireSetWork f))

/-- ACQUIRE SET (R32 to R34). -/
def execAcquireSet (f : Frame) (s : State) : Answer := .next (takeAcquireSet f s)

/-! ### RENEW, RELEASE, DOWNGRADE (R35 to R38) -/

/-- Checks 1 to 4 of R35 and of R126: the record in hand after lazy expiry. -/
def locateGrant (k : Key) (token : Token) : Take (Except Status Bench) := do
  let s ← get
  if reservedKey k then pure (.error .badKey)
  else if token = 0 then pure (.error .badArg)
  else
    match s.lookup k with
    | none => pure (.error .notFound)
    | some e =>
      if e.quarantined then pure (.error .quarantined)
      else
        match (← touch e.slot none) with
        | .quarantined => pure (.error .quarantined)
        | .gone => pure (.error .notHeld)
        | .held b => pure (.ok b)

/-- The caller's LIVE grant with a token (R35, check 5). -/
def Rec.liveGrant (r : Rec) (client : Nat) (token : Token) : Option Grant :=
  r.grants.find? fun g => g.token == token && g.gstate == .live && g.client == client

/-- A command on the caller's own grant: `work` on the grant R35 finds, NOT_HELD where there is none. -/
def onGrant (f : Frame) (work : Bench → Grant → Take Reply) : Take Reply := do
  match (← locateGrant (keyAt f.args 0) (tokenAt f.args 4)) with
  | .error st => pure (.bare st)
  | .ok b =>
    match b.body.liveGrant f.client.toNat (tokenAt f.args 4) with
    | none => do
      closeBench b
      pure (.bare .notHeld)
    | some g => work b g

/-- RENEW on the grant found: TERM 3 (R36). -/
def renewGrant (term : Term) (b : Bench) (g : Grant) : Take Reply := do
  let s ← get
  let t := b.body.resolve term
  let e := tickPlus s.now t.toNat
  if b.body.maxTerm < t then do
    closeBench b
    pure (.bare .badArg)
  else do
    closeBench ((b.changeGrant g.token fun x => { x with term := t, expiry := e }).emit
      [.move .grantExpiry (.grant b.slot g.token) e])
    pure (.ok (tokenBytes g.token ++ tickBytes e ++ termBytes t))

/-- The take of a RENEW frame: KEY 4, TOKEN 6, TERM 3. -/
def takeRenew (f : Frame) (s : State) : State :=
  s.takeFrame (.renew f) 0x32 f
    (judged { args := 13 } f (onGrant f (renewGrant (termAt f.args 10))))

/-- RENEW (R35, R36). -/
def execRenew (f : Frame) (s : State) : Answer := .next (takeRenew f s)

/-- RELEASE on the grant found (R37). -/
def releaseGrant (b : Bench) (g : Grant) : Take Reply := do
  let s ← get
  closeBench ((b.removeGrant g).handoff s.now)
  pure (.bare .ok)

/-- The take of a RELEASE frame: KEY 4, TOKEN 6. -/
def takeRelease (f : Frame) (s : State) : State :=
  s.takeFrame (.release f) 0x33 f (judged { args := 10 } f (onGrant f releaseGrant))

/-- RELEASE (R35, R37). -/
def execRelease (f : Frame) (s : State) : Answer := .next (takeRelease f s)

/-- DOWNGRADE on the grant found (R38). -/
def downgradeGrant (b : Bench) (g : Grant) : Take Reply := do
  let s ← get
  if g.mode = .shared then do
    closeBench b
    pure (.bare .badArg)
  else do
    closeBench ((b.changeGrant g.token fun x => { x with mode := .shared }).handoff s.now)
    pure (.ok (tokenBytes g.token ++ tickBytes g.expiry ++ termBytes g.term))

/-- The take of a DOWNGRADE frame: KEY 4, TOKEN 6. -/
def takeDowngrade (f : Frame) (s : State) : State :=
  s.takeFrame (.downgrade f) 0x34 f (judged { args := 10 } f (onGrant f downgradeGrant))

/-- DOWNGRADE (R35, R38). -/
def execDowngrade (f : Frame) (s : State) : Answer := .next (takeDowngrade f s)

/-! ### The expiry event of a grant (R40) -/

/-- The directory takes its DUE entries one at a time, in schedule order (R97); none of them in STORE_FAULT
mode (R102). -/
abbrev State.nextDirectoryEvent (s : State) : Option Entry :=
  if s.isReady ∧ ¬ s.inFault then s.firstDue true else none

/-- The record of a slot that an event names, closed after lazy expiry and the given check (R40; log 16). -/
def expireRecord (n : Nat) (token : Token) (deadline : Tick) : Take Unit := do
  let s ← get
  if s.isFree n ∨ (Tab.find? s.main.quar n).isSome then pure ()
  else
    match (← openSlot n none) with
    | none => pure ()
    | some b =>
      match b.body.grantWith token with
      | none => pure ()
      | some g =>
        if g.gstate = .live ∧ g.expiry = deadline then do
          match (← freshen b) with
          | .quarantined => pure ()
          | .gone => pure ()
          | .held b1 => closeBench b1
        else pure ()

/-- The take of a GRANT_EXPIRY event (R40, R97). -/
def takeGrantExpiry (slot : Nat) (token : Token) (deadline : Tick) (s : State) : State :=
  match s.nextDirectoryEvent with
  | none => s
  | some e =>
    if e.kind = .grantExpiry ∧ e.ref = .grant slot token ∧ e.deadline = deadline then
      (s.schedRemove e.ref).run (expireRecord slot token deadline)
    else s

/-- GRANT_EXPIRY_EVENT (R40). -/
def execGrantExpiryEvent (slot : Nat) (token : Token) (deadline : Tick) (s : State) : Answer :=
  .next (takeGrantExpiry slot token deadline s)

end Sys2Proof.Machine
end

