-- ==== Sys2Proof/Machine/Waits.lean ====
section
/-! DEFINITION. Chapter 3: CANCEL WAIT and the deadline event of a waiter. -/

namespace Sys2Proof.Machine

/-- The waiter leaves the queue; handoff runs where it stood at the head (R58). -/
def Bench.cancelWait (now : Tick) (id client : Nat) (b : Bench) : Bench :=
  if b.isHead id then (b.removeWaiter id client).handoff now else b.removeWaiter id client

/-- Checks 4 and 5 of R57 and the cancellation (R58). -/
def cancelOn (id client slot : Nat) : Take Reply := do
  match (← touch slot none) with
  | .quarantined => pure (.bare .quarantined)
  | .gone => pure (.bare .notFound)
  | .held b =>
    match b.queue.find? (fun p => p.1 == id && p.2.client == client) with
    | none => do
      closeBench b
      pure (.bare .notFound)
    | some _ => do
      let s ← get
      closeBench (b.cancelWait s.now id client)
      pure (.bare .ok)

/-- CANCEL WAIT's own checks and work: WAITER 1, KEY 4 (R57, R58). -/
def cancelWaitWork (f : Frame) : Take Reply := do
  let s ← get
  let k := keyAt f.args 1
  if reservedKey k then pure (.bare .badKey)
  else if Config.waiters ≤ (byteAt f.args 0).toNat then pure (.bare .badArg)
  else
    match s.lookup k with
    | none => pure (.bare .notFound)
    | some e =>
      if e.quarantined then pure (.bare .quarantined)
      else cancelOn (byteAt f.args 0).toNat f.client.toNat e.slot

/-- The take of a CANCEL WAIT frame. -/
def takeCancelWait (f : Frame) (s : State) : State :=
  s.takeFrame (.cancelWait f) 0x38 f (judged { args := 5 } f (cancelWaitWork f))

/-- CANCEL WAIT (R57, R58). -/
def execCancelWait (f : Frame) (s : State) : Answer := .next (takeCancelWait f s)

/-- The record of a due waiter is touched (R55). -/
def timeoutRecord (id : Nat) (deadline : Tick) : Take Unit := do
  let s ← get
  match s.waiter id with
  | none => pure ()
  | some w =>
    if w.deadline = deadline then do
      match (← touch w.slot none) with
      | .quarantined => pure ()
      | .gone => pure ()
      | .held b => closeBench b
    else pure ()

/-- The take of a WAIT_DEADLINE event (R55, R97). -/
def takeWaitDeadline (id : Nat) (deadline : Tick) (s : State) : State :=
  match s.nextDirectoryEvent with
  | none => s
  | some e =>
    if e.kind = .waitDeadline ∧ e.ref = .waiter id ∧ e.deadline = deadline then
      (s.schedRemove e.ref).run (timeoutRecord id deadline)
    else s

/-- WAIT_DEADLINE_EVENT (R55). -/
def execWaitDeadlineEvent (id : Nat) (deadline : Tick) (s : State) : Answer :=
  .next (takeWaitDeadline id deadline s)

end Sys2Proof.Machine
end

