-- ==== Sys2Proof/Machine/Zones.lean ====
section
/-! DEFINITION. Chapter 7: ZONE SET, ZONE FREEZE, ZONE READ, FORCE RELEASE and WIPE. -/

namespace Sys2Proof.Machine

/-! ### ZONE SET, ZONE FREEZE, ZONE READ (R121 to R125) -/

/-- Every key of the key index keeps its zone under the new map (R122, check 2). -/
def State.zonesKept (s : State) (old new : ZoneMap) : Bool :=
  s.main.index.all fun e =>
    new.classify (BitVec.ofNat 32 e.1) == old.classify (BitVec.ofNat 32 e.1)

/-- ZONE SET's own checks and work: the zone map image, 55 bytes (R121 to R123). -/
def zoneSetWork (f : Frame) : Take Reply := do
  match zoneMapOf f.args false with
  | none => pure (.bare .badArg)
  | some new => do
    let old ← readControl zoneWord
    let s ← get
    if old.frozen then pure (.bare .zoneFrozen)
    else if !s.zonesKept old new then pure (.bare .zoneOccupied)
    else do
      modify fun s => s.commit { images := [.zone new] }
      pure (.bare .ok)

/-- The take of a ZONE SET frame. -/
def takeZoneSet (f : Frame) (s : State) : State :=
  s.takeFrame (.zoneSet f) 0x80 f
    (judged { supervisor := true, need := .may, args := 55 } f (zoneSetWork f))

/-- ZONE SET (R121 to R123). -/
def execZoneSet (f : Frame) (s : State) : Answer := .next (takeZoneSet f s)

/-- ZONE FREEZE commits the frozen flag where the map is unfrozen (R124). -/
def zoneFreezeWork : Take Reply := do
  let map ← readControl zoneWord
  if map.frozen then pure (.bare .ok)
  else do
    modify fun s => s.commit { images := [.zone { map with frozen := true }] }
    pure (.bare .ok)

/-- The take of a ZONE FREEZE frame. -/
def takeZoneFreeze (f : Frame) (s : State) : State :=
  s.takeFrame (.zoneFreeze f) 0x81 f (judged { supervisor := true, need := .may } f zoneFreezeWork)

/-- ZONE FREEZE (R124). -/
def execZoneFreeze (f : Frame) (s : State) : Answer := .next (takeZoneFreeze f s)

/-- ZONE READ answers the map and the frozen flag (R125). -/
def zoneReadWork : Take Reply := do
  let map ← readControl zoneWord
  pure (.ok (map.bytes ++ [onOff map.frozen]))

/-- The take of a ZONE READ frame. -/
def takeZoneRead (f : Frame) (s : State) : State :=
  s.takeFrame (.zoneRead f) 0x82 f (judged { need := .may } f zoneReadWork)

/-- ZONE READ (R125). -/
def execZoneRead (f : Frame) (s : State) : Answer := .next (takeZoneRead f s)

/-! ### FORCE RELEASE (R126, R127) -/

/-- The grant is removed with a REVOKED notice, then handoff runs (R127). -/
def Bench.forceRelease (now : Tick) (g : Grant) (b : Bench) : Bench :=
  ((b.removeGrant g).emit
    [.notice g.client (grantNotice now .revoked .force b.body.key g.token)]).handoff now

/-- FORCE RELEASE's own checks and work: KEY 4, TOKEN 6 (R126, R127). -/
def forceReleaseWork (f : Frame) : Take Reply := do
  match (← locateGrant (keyAt f.args 0) (tokenAt f.args 4)) with
  | .error st => pure (.bare st)
  | .ok b =>
    match b.body.grantWith (tokenAt f.args 4) with
    | none => do
      closeBench b
      pure (.bare .notHeld)
    | some g => do
      let s ← get
      closeBench (b.forceRelease s.now g)
      pure (.ok [BitVec.ofNat 8 g.client, g.mode.code, g.gstate.code])

/-- The take of a FORCE RELEASE frame. -/
def takeForceRelease (f : Frame) (s : State) : State :=
  s.takeFrame (.forceRelease f) 0x84 f
    (judged { supervisor := true, need := .may, args := 10 } f (forceReleaseWork f))

/-- FORCE RELEASE (R126, R127). -/
def execForceRelease (f : Frame) (s : State) : Answer := .next (takeForceRelease f s)

/-! ### WIPE (R129, R130) -/

/-- The commit of a slot as FREE: word 0 alone (R129, step 3). -/
def freedImage (st : Store) (n : Nat) : Image :=
  .slot n false { (st.slot n).val with ident := IdWord.free }

/-- Slots are freed in ascending order, four to a commit (R129, step 3; R137). -/
def State.freeSlotsFrom (s : State) : Nat → Nat → State
  | 0, _ => s
  | k + 1, n =>
    State.freeSlotsFrom
      (s.commit { images := [freedImage s.store n, freedImage s.store (n + 1),
                             freedImage s.store (n + 2), freedImage s.store (n + 3)] }) k (n + 4)

/-- Every record slot is committed FREE (R129, step 3). -/
def State.freeAllSlots (s : State) : State := s.freeSlotsFrom 256 0

/-- Every session entry is committed FREE, each in a commit of its own (R129, step 4; R169), in ascending client id order
(DESIGN CHOICE: log 46). -/
def State.freeAllSessions (s : State) : State :=
  (List.range Config.sessions).foldl (fun s c => s.commit { session := some (c, SessEntry.free) }) s

/-- The audit context as WIPE leaves it (R162). -/
def Audit.wiped (a : Audit) : Audit :=
  { a with state := .aborted, reason := .wipe, stepPending := false, ahead := [] }

/-- The volatile state is discarded (R129, step 2). -/
def State.discardVolatile (s : State) : State :=
  (((((((((s.setPool []).setQueues []).setSched []).setNotices []).setSessV []).setIndex []).setFree
    (BitVec.allOnes 1024)).setQuar []).setAudit s.main.audit.wiped).setAttn AttnLines.released

/-- Steps 2 to 5 of WIPE behind a committed WIPING flag, and the end of STORE_FAULT mode (R129, R130). -/
def State.wipeRest (s : State) (flags : StoreFlags) : State :=
  let s1 := s.discardVolatile.freeAllSlots.freeAllSessions.commit
    { flags := some { flags with wiping := false } }
  s1.setMon { s1.main.mon with fault := false, lost := 0, replayFailed := false }

/-- The token counter that a WIPE in STORE_FAULT mode writes (R130, R140; log 14). A counter that was lost at stage 1
of the sweep and that the replay has written good again keeps the replayed value (DESIGN CHOICE: log 14). -/
def wipedToken (replayFailed : Bool) (old : Option Token) : Token :=
  match old with
  | none => 1
  | some t =>
    if replayFailed then
      (if t.toNat + Config.tokensPerCommit < 2 ^ 48 then t + 16 else Config.tokenPastEnd t)
    else t

/-- The store flags that a WIPE in STORE_FAULT mode writes in step 1 (R130, R147). -/
def wipedFlags (old : Option StoreFlags) (token : Token) : StoreFlags :=
  { fresh := (old.map StoreFlags.fresh).getD true || token == 1, wiping := true }

/-- WIPE in STORE_FAULT mode: step 1 writes the zone map, the counters and the flags (R130), over an intent area that a
failed replay may have left (R131; log 40). A control word that can be read now keeps its value, also where its loss
entered the mode (DESIGN CHOICE: log 14). -/
def State.wipeInFault (s : State) (flags : Option StoreFlags) : State :=
  let z := zoneWord.read s
  let t := tokenWord.read z.1
  let n := nonceWord.read t.1
  let token := wipedToken s.main.mon.replayFailed t.2
  let fl := wipedFlags flags token
  (n.1.commitOver { images := [.zone (z.2.getD ZoneMap.por)], token := some token,
                    nonce := some (n.2.getD 1), flags := some fl }).wipeRest fl

/-- The work of WIPE. It reads the store flags; a loss found there makes it a WIPE in STORE_FAULT mode
(R129, R130, R136). -/
def State.wipe (s : State) : State :=
  let r := flagsWord.read s
  match r.2 with
  | none => r.1.wipeInFault none
  | some fl =>
    if r.1.inFault then r.1.wipeInFault (some fl)
    else (r.1.commit { flags := some { fl with wiping := true } }).wipeRest fl

/-- WIPE's own work (R129). -/
def wipeWork : Take Reply := do
  modify State.wipe
  pure (.bare .ok)

/-- The session step of WIPE: where a control word is found lost the take goes on, and the frame is judged as
in STORE_FAULT mode (R136; log 12). -/
def wipeSession (f : Frame) : Take (Option Status) :=
  tryCatch (sessionStep .may f) (fun _ => sessionStep .may f)

/-- The take of a WIPE frame. -/
def takeWipe (f : Frame) (s : State) : State :=
  s.takeFrame (.wipe f) 0x86 f
    (judgedWith { supervisor := true, inFault := true, need := .may } f (wipeSession f) wipeWork)

/-- WIPE (R129, R130). -/
def execWipe (f : Frame) (s : State) : Answer := .next (takeWipe f s)

end Sys2Proof.Machine
end

