-- ==== Sys2Proof/Machine/StoreUnit.lean ====
section
/-! DEFINITION. Chapter 8: STORE STATUS, STORE CLEAR, SCRUB CONTROL, RECLAIM, QUARANTINE LIST and the scrub step. -/

namespace Sys2Proof.Machine

/-- The trap's fields in STORE STATUS (R146, R188, R190); of an empty trap only TRAP_VALID has a stated value
(log 15). -/
def trapBytes : Option Trap → List Byte
  | none => 0 :: (List.range 6).map Config.emptyTrapByte
  | some t =>
    [1, t.area.code] ++ beBytes 2 t.index ++
      [BitVec.ofNat 8 t.word, BitVec.ofNat 8 t.copy, trapKindCode t.kind]

/-- The STORE STATUS payload (R146, R188). -/
def storeStatusPayload (m : Monitor) (fresh : Bool) (quarantined : Nat) : List Byte :=
  [onOff m.fault] ++ beBytes 3 m.lost.toNat ++ [onOff fresh] ++ beBytes 2 m.corrected ++
    [BitVec.ofNat 8 m.uncorrected] ++ beBytes 2 quarantined ++ trapBytes m.trap ++ [m.interval] ++
    beBytes 2 m.cursor

/-- STORE STATUS reads the fresh-start flag; in STORE_FAULT mode it is reported as set where the flags word cannot be
read or is among the lost control words (R146). -/
def storeStatusWork : Take Reply := do
  let s ← get
  if s.inFault then do
    let r := flagsWord.read s
    set r.1
    pure (.ok (storeStatusPayload r.1.main.mon
      ((r.2.map StoreFlags.fresh).getD true || s.main.mon.lost.getLsbD 19) r.1.main.quar.length))
  else do
    let fl ← readControl flagsWord
    let s ← get
    pure (.ok (storeStatusPayload s.main.mon fl.fresh s.main.quar.length))

/-- The take of a STORE STATUS frame. -/
def takeStoreStatus (f : Frame) (s : State) : State :=
  s.takeFrame (.storeStatus f) 0x8C f (judged { inFault := true, need := .may } f storeStatusWork)

/-- STORE STATUS (R146). -/
def execStoreStatus (f : Frame) (s : State) : Answer := .next (takeStoreStatus f s)

/-- The counts at 0 and the trap empty (R147). -/
def Monitor.cleared (m : Monitor) : Monitor := { m with corrected := 0, uncorrected := 0, trap := none }

/-- STORE CLEAR (R147). -/
def storeClearWork : Take Reply := do
  let fl ← readControl flagsWord
  modify fun s => s.setMon s.main.mon.cleared
  if fl.fresh then do
    modify fun s => s.commit { flags := some { fl with fresh := false } }
    pure (.bare .ok)
  else pure (.bare .ok)

/-- The take of a STORE CLEAR frame. -/
def takeStoreClear (f : Frame) (s : State) : State :=
  s.takeFrame (.storeClear f) 0x8D f (judged { supervisor := true, need := .may } f storeClearWork)

/-- STORE CLEAR (R147). -/
def execStoreClear (f : Frame) (s : State) : Answer := .next (takeStoreClear f s)

/-- SCRUB CONTROL: INTERVAL 1 (R151). -/
def scrubControlWork (f : Frame) : Take Reply := do
  let s ← get
  set ((s.setMon { s.main.mon with
    interval := byteAt f.args 0, count := 0, stepPending := false }).taken .scrub)
  pure (.ok (byteAt f.args 0 :: beBytes 2 s.main.mon.cursor))

/-- The take of a SCRUB CONTROL frame. -/
def takeScrubControl (f : Frame) (s : State) : State :=
  s.takeFrame (.scrubControl f) 0x8E f
    (judged { supervisor := true, need := .may, args := 1 } f (scrubControlWork f))

/-- SCRUB CONTROL (R151). -/
def execScrubControl (f : Frame) (s : State) : Answer := .next (takeScrubControl f s)

/-- A quarantined slot is made FREE (R149). -/
def State.reclaim (s : State) (n : Nat) (key : Option Key) : State :=
  let s1 := s.commit { images := [freedImage s.store n] }
  let s2 := (s1.setQuar (Tab.del s1.main.quar n)).markFree n true
  match key with
  | some k => (s2.unindex k).told k
  | none => s2

/-- RECLAIM: SLOT 2 (R149). -/
def reclaimWork (f : Frame) : Take Reply := do
  let s ← get
  let n := field f.args 0 2
  if Config.slots ≤ n then pure (.bare .badArg)
  else
    match Tab.find? s.main.quar n with
    | none => pure (.bare .notFound)
    | some key => do
      set (s.reclaim n key)
      pure (.ok (onOff key.isSome :: keyBytes (key.getD 0)))

/-- The take of a RECLAIM frame. -/
def takeReclaim (f : Frame) (s : State) : State :=
  s.takeFrame (.reclaim f) 0x8F f
    (judged { supervisor := true, need := .may, args := 2 } f (reclaimWork f))

/-- RECLAIM (R149). -/
def execReclaim (f : Frame) (s : State) : Answer := .next (takeReclaim f s)

/-- A slot in the QUARANTINE LIST payload (R148, R188). -/
def quarantineItem (e : Nat × Option Key) : List Byte :=
  beBytes 2 e.1 ++ (onOff e.2.isSome :: keyBytes (e.2.getD 0))

/-- The QUARANTINE LIST payload over the slots at or above the start slot (R148). -/
def quarantinePayload (l : List (Nat × Option Key)) : List Byte :=
  (l.take 8).flatMap quarantineItem ++
    beBytes 2 (((l.drop 8).head?.map Prod.fst).getD 0xFFFF) ++ [BitVec.ofNat 8 (l.take 8).length]

/-- QUARANTINE LIST: START 2 (R148). -/
def quarantineListWork (f : Frame) : Take Reply := do
  let s ← get
  let start := field f.args 0 2
  if Config.slots ≤ start then pure (.bare .badArg)
  else pure (.ok (quarantinePayload (s.main.quar.filter fun e => start ≤ e.1)))

/-- The take of a QUARANTINE LIST frame. -/
def takeQuarantineList (f : Frame) (s : State) : State :=
  s.takeFrame (.quarantineList f) 0x90 f
    (judged { inFault := true, need := .may, args := 2 } f (quarantineListWork f))

/-- QUARANTINE LIST (R148). -/
def execQuarantineList (f : Frame) (s : State) : Answer := .next (takeQuarantineList f s)

/-! ### The scrub step (R150) -/

/-- A touch that asks nothing more of the record: lazy expiry and auto-retirement. -/
def touchOnly (n : Nat) : Take Unit := do
  match (← touch n none) with
  | .quarantined => pure ()
  | .gone => pure ()
  | .held b => closeBench b

/-- The slot at the cursor by its state (R150). -/
def scrubSlot (n : Nat) : Take Unit := do
  let s ← get
  if s.isFree n then discard (checkFreeSlot n)
  else if (Tab.find? s.main.quar n).isSome then pure ()
  else touchOnly n

/-- The scrub step: the slot, then the advance of the cursor (R150). -/
def scrubWork : Take Unit := do
  let s ← get
  scrubSlot s.main.mon.cursor
  modify fun s => s.setMon { s.main.mon with cursor := (s.main.mon.cursor + 1) % Config.slots }

/-- The take of a scrub step; held in STORE_FAULT mode (R150). -/
def takeScrubStep (s : State) : State :=
  if s.isReady ∧ ¬ s.inFault ∧ s.main.mon.stepPending then
    ((s.setMon { s.main.mon with count := 0, stepPending := false }).taken .scrub).run scrubWork
  else s

/-- SCRUB_STEP (R150). -/
def execScrubStep (s : State) : Answer := .next (takeScrubStep s)

end Sys2Proof.Machine
end

