-- ==== Sys2Proof/Machine/AuditUnit.lean ====
section
/-! DEFINITION. Chapter 9: AUDIT START, AUDIT SUSPEND, AUDIT RESUME, AUDIT READ and the audit step. -/

namespace Sys2Proof.Machine

/-- The context that AUDIT START makes, with the requests that wait before its first step (R154, R155). -/
def auditStarted (low high : Key) (ahead : List Waiting) : Audit :=
  if high < low then
    { state := .aborted, low := low, high := high, cursor := low, visited := 0, qseen := 0,
      digest := crc32Start, stale := false, reason := .range, stepPending := false, ahead := [] }
  else
    { state := .running, low := low, high := high, cursor := low, visited := 0, qseen := 0,
      digest := crc32Start, stale := false, reason := .none, stepPending := true, ahead := ahead }

/-- AUDIT START: LOW 4, HIGH 4 (R154). -/
def auditStartWork (f : Frame) : Take Reply := do
  let s ← get
  let low := keyAt f.args 0
  let high := keyAt f.args 4
  if reservedKey low ∨ reservedKey high then pure (.bare .badKey)
  else if s.main.audit.state = .running ∨ s.main.audit.state = .suspended then pure (.bare .auditBusy)
  else do
    set (s.setAudit (auditStarted low high s.requests))
    pure (.ok [(auditStarted low high s.requests).state.code])

/-- The take of an AUDIT START frame. -/
def takeAuditStart (f : Frame) (s : State) : State :=
  s.takeFrame (.auditStart f) 0x88 f
    (judged { supervisor := true, need := .may, args := 8 } f (auditStartWork f))

/-- AUDIT START (R154). -/
def execAuditStart (f : Frame) (s : State) : Answer := .next (takeAuditStart f s)

/-- The state and the cursor key, as AUDIT SUSPEND and AUDIT RESUME answer them (R160). -/
def auditReply (a : Audit) : Reply := .ok (a.state.code :: keyBytes a.cursor)

/-- AUDIT SUSPEND (R160). -/
def auditSuspendWork : Take Reply := do
  let s ← get
  if s.main.audit.state = .running then do
    set (s.setAudit { s.main.audit with state := .suspended, stepPending := false, ahead := [] })
    pure (auditReply { s.main.audit with state := .suspended })
  else pure (.bare .auditIdle)

/-- The take of an AUDIT SUSPEND frame. -/
def takeAuditSuspend (f : Frame) (s : State) : State :=
  s.takeFrame (.auditSuspend f) 0x89 f (judged { supervisor := true, need := .may } f auditSuspendWork)

/-- AUDIT SUSPEND (R160). -/
def execAuditSuspend (f : Frame) (s : State) : Answer := .next (takeAuditSuspend f s)

/-- AUDIT RESUME (R160). -/
def auditResumeWork : Take Reply := do
  let s ← get
  if s.main.audit.state = .suspended then do
    set (s.setAudit { s.main.audit with state := .running, stepPending := true, ahead := s.requests })
    pure (auditReply { s.main.audit with state := .running })
  else pure (.bare .auditIdle)

/-- The take of an AUDIT RESUME frame. -/
def takeAuditResume (f : Frame) (s : State) : State :=
  s.takeFrame (.auditResume f) 0x8A f (judged { supervisor := true, need := .may } f auditResumeWork)

/-- AUDIT RESUME (R160). -/
def execAuditResume (f : Frame) (s : State) : Answer := .next (takeAuditResume f s)

/-- The AUDIT READ payload (R161, R188). -/
def auditPayload (a : Audit) : List Byte :=
  [a.state.code, a.reason.code] ++ keyBytes a.low ++ keyBytes a.high ++ keyBytes a.cursor ++
    beBytes 2 a.visited ++ beBytes 2 a.qseen ++ beBytes 4 a.digest.toNat ++ [onOff a.stale]

/-- AUDIT READ (R161). -/
def auditReadWork : Take Reply := do
  let s ← get
  pure (.ok (auditPayload s.main.audit))

/-- The take of an AUDIT READ frame. -/
def takeAuditRead (f : Frame) (s : State) : State :=
  s.takeFrame (.auditRead f) 0x8B f (judged { need := .may } f auditReadWork)

/-- AUDIT READ (R161). -/
def execAuditRead (f : Frame) (s : State) : Answer := .next (takeAuditRead f s)

/-! ### The audit step (R155, R156) -/

/-- A record's image folded into the digest (R156, R157). -/
def Audit.fold (a : Audit) (image : List Byte) (quarantined : Bool) : Audit :=
  { a with
    digest := crc32Fold a.digest image,
    visited := min (a.visited + 1) 65535,
    qseen := if quarantined then min (a.qseen + 1) 65535 else a.qseen }

/-- The cursor passes a key (R156). -/
def Audit.pass (a : Audit) (k : Key) : Audit := { a with cursor := k + 1 }

/-- The walk has ended (R156, case 1). -/
def Audit.finish (a : Audit) : Audit :=
  { a with state := .done, digest := crc32Finish a.digest, stepPending := false, ahead := [] }

/-- The lowest key of the index that is in what is left of the range (R156). -/
def State.nextAudited (s : State) : Option (Nat × IndexEntry) :=
  List.find? (fun e => s.main.audit.cursor.toNat ≤ e.1 && e.1 ≤ s.main.audit.high.toNat) s.main.index

/-- The image that a step folds for a key, with whether it is that of a QUARANTINED record; none where nothing
is folded (R156, cases 2 and 3). -/
def auditImageOf (k : Key) (e : IndexEntry) : Take (Option (List Byte × Bool)) := do
  if e.quarantined then pure (some (quarantinedImage k, true))
  else
    match (← touch e.slot none) with
    | .quarantined => do
      let s ← get
      pure (if (s.lookup k).isSome then some (quarantinedImage k, true) else none)
    | .gone => pure none
    | .held b => do
      closeBench b
      pure (some (b.final.auditImage, false))

/-- The next step is made pending as the take ends, behind the requests that wait (R155). -/
def State.nextStep (s : State) : State := s.setAudit { s.main.audit with ahead := s.requests }

/-- The work of an audit step (R156). -/
def auditStepWork : Take Unit := do
  let s ← get
  match s.nextAudited with
  | none => set (s.setAudit s.main.audit.finish)
  | some (k, e) => do
    let image ← auditImageOf (BitVec.ofNat 32 k) e
    modify fun s =>
      (s.setAudit ((match image with
        | some (bytes, q) => s.main.audit.fold bytes q
        | none => s.main.audit).pass (BitVec.ofNat 32 k))).nextStep

/-- The take of an audit step; held in STORE_FAULT mode, and while a request waits that reached the directory before
it (R155). While the context stays RUNNING the next step is pending as the take ends, so the mark stays. -/
def takeAuditStep (s : State) : State :=
  if s.isReady ∧ ¬ s.inFault ∧ s.main.audit.stepPending ∧ s.main.audit.state = .running ∧
      s.main.audit.ahead.all (fun w => !s.stillWaits w) then
    s.run auditStepWork
  else s

/-- AUDIT_STEP (R155, R156). -/
def execAuditStep (s : State) : Answer := .next (takeAuditStep s)

end Sys2Proof.Machine
end

