-- ==== Sys2Proof/Machine/Sessions.lean ====
section
/-! DEFINITION. Chapter 4: OPEN, CLOSE, PING, REATTACH, SESSION STATUS and DISMISS; the heartbeat and grace events
and the lapse requests. -/

namespace Sys2Proof.Machine

/-! ### OPEN (R68) -/

/-- The lowest FREE entry of the Session Table from `c` upward, each entry read in its turn (R68; log 9). -/
def firstFreeSession : List Nat → Take (Option Nat)
  | [] => pure none
  | c :: cs => do
    let e ← readControl (sessionWord c)
    if e.state = .free then pure (some c) else firstFreeSession cs

/-- The entry that OPEN commits (R68). -/
def openEntry (p : PortId) (nonce : Nonce) (hb : Term) (policy : Policy) (attention : Bool) : SessEntry :=
  { state := .opened, action := .none, port := some p, nonce := nonce, hbTerm := hb, policy := policy,
    attention := attention, waitsHeld := false, waitsLost := false }

/-- The new session's volatile state: counts 0, an empty queue, a HEARTBEAT entry (R68). -/
def State.beginSession (s : State) (c : Nat) (hb : Term) : State :=
  ((s.setVol c { s.vol c with waitCount := 0, restarted := false }).setNoticesOf c
    NoticeQueue.empty).placeDeadline .heartbeat c (tickPlus s.now hb.toNat)

/-- Check 3 of R68 and the new session. -/
def openWith (p : PortId) (hb : Term) (policy : Policy) (attention : Bool) : Take Reply := do
  match (← firstFreeSession (List.range Config.sessions)) with
  | none => pure (.bare .noSession)
  | some c => do
    let nonce ← readControl nonceWord
    modify fun s =>
      ((s.commit { session := some (c, openEntry p nonce hb policy attention),
                   nonce := some (nonceNext nonce) }).beginSession c hb).driveLines
    let s ← get
    pure (.ok (BitVec.ofNat 8 c :: (beBytes 2 nonce.toNat ++ tickBytes (tickPlus s.now hb.toNat))))

/-- OPEN's own checks: HB_TERM 3, POLICY 1, ATTN 1 (R68, check 2). -/
def openWork (f : Frame) : Take Reply :=
  if f.args.length ≠ 5 then pure (.bare .badArg)
  else if (termAt f.args 0).toNat < 64 ∨ 1048576 < (termAt f.args 0).toNat then pure (.bare .badArg)
  else
    match policyOf (byteAt f.args 3), onOffOf (byteAt f.args 4) with
    | some policy, some attention => openWith f.port (termAt f.args 0) policy attention
    | _, _ => pure (.bare .badArg)

/-- The take of an OPEN frame; the client field is checked where the session step would stand (R68, R184). -/
def takeOpen (f : Frame) (s : State) : State :=
  s.takeFrame (.openSession f) 0x10 f
    (judgedWith { need := .skip, args := f.args.length } f
      (pure (if f.client = noClient then none else some .badArg)) (openWork f))

/-- OPEN (R68). -/
def execOpen (f : Frame) (s : State) : Answer := .next (takeOpen f s)

/-! ### CLOSE and PING (R78, R70) -/

/-- CLOSE settles the caller's session with action RELEASE (R78). -/
def closeWork (f : Frame) : Take Reply := do
  let e ← readControl (sessionWord f.client.toNat)
  settleRelease f.client.toNat e
  pure (.bare .ok)

/-- The take of a CLOSE frame. -/
def takeClose (f : Frame) (s : State) : State :=
  s.takeFrame (.close f) 0x11 f (judged {} f (closeWork f))

/-- CLOSE (R78). -/
def execClose (f : Frame) (s : State) : Answer := .next (takeClose f s)

/-- PING answers the heartbeat deadline that the check has set (R70). -/
def pingWork (f : Frame) : Take Reply := do
  let s ← get
  pure (.ok (tickBytes ((s.vol f.client.toNat).deadline.getD 0)))

/-- The take of a PING frame. -/
def takePing (f : Frame) (s : State) : State :=
  s.takeFrame (.ping f) 0x12 f (judged {} f (pingWork f))

/-- PING (R70). -/
def execPing (f : Frame) (s : State) : Answer := .next (takePing f s)

/-! ### REATTACH (R80 to R83) -/

/-- The nonce a reattached session takes: the counter's value, once advanced where the session already carries
it (R67). -/
def freshNonce (counter old : Nonce) : Nonce := if counter = old then nonceNext counter else counter

/-- The entry of a reattached session (R81, R82). -/
def SessEntry.reattached (e : SessEntry) (p : PortId) (nonce : Nonce) : SessEntry :=
  { e with state := .opened, action := .none, port := some p, nonce := nonce, waitsLost := false }

/-- The session entry and the nonce counter are committed together; the session becomes OPEN with a HEARTBEAT
entry and its restarted mark clear (R81, R82). Answers the new nonce. -/
def reopen (c : Nat) (e : SessEntry) (p : PortId) : Take Nonce := do
  let counter ← readControl nonceWord
  modify fun s =>
    let s1 := s.commit { session := some (c, e.reattached p (freshNonce counter e.nonce)),
                         nonce := some (nonceNext (freshNonce counter e.nonce)) }
    ((s1.setVol c { s1.vol c with restarted := false }).placeDeadline .heartbeat c
      (tickPlus s1.now e.hbTerm.toNat)).driveLines
  pure (freshNonce counter e.nonce)

/-- REVIVED, one byte; a larger count has no stated value (R83; log 25). -/
def revivedByte (n : Nat) : Byte := if n < 256 then BitVec.ofNat 8 n else Config.revivedOver n

/-- The REATTACH response (R83, R190): the marks are those the session had. -/
def reattachReply (now : Tick) (e : SessEntry) (restarted : Bool) (nonce : Nonce) (revived : Nat) :
    Reply :=
  .ok (beBytes 2 nonce.toNat ++
    [revivedByte revived, flagBit 0 e.waitsLost ||| flagBit 1 restarted] ++
    tickBytes (tickPlus now e.hbTerm.toNat))

/-- REATTACH of a SUSPECT session (R81). -/
def reattachSuspect (c : Nat) (e : SessEntry) (p : PortId) : Take Reply := do
  let s ← get
  let nonce ← reopen c e p
  pure (reattachReply s.now e (s.vol c).restarted nonce 0)

/-- REATTACH by a settle with action REVIVE (R82, R80). -/
def reattachRevive (form : SettleForm) (c : Nat) (e : SessEntry) (p : PortId) : Take Reply := do
  let s ← get
  let r ← settle form c e (reopen c { e with waitsHeld := false } p)
  pure (reattachReply s.now e (s.vol c).restarted r.2 r.1)

/-- Steps 1 to 3 of the check, the state check, and the work of REATTACH (R80). A lapse that is due is carried
out as one settle with action REVIVE where the nonce matches under HOLD, and as in R69 otherwise (and
where the length of the frame is wrong: log 30). -/
def reattachWork (f : Frame) : Take Reply := do
  if Config.sessions ≤ f.client.toNat then pure (.bare .staleSession)
  else do
    let c := f.client.toNat
    let e ← readControl (sessionWord c)
    let s ← get
    if e.state = .free then pure (.bare .staleSession)
    else if s.lapseDue c e ∧ e.policy = .hold ∧ e.nonce = f.nonce ∧ f.args = [] then
      reattachRevive .reviveDue c e f.port
    else do
      let e1 ← (if s.lapseDue c e then lapse c e else pure e)
      if e1.state = .free ∨ e1.nonce ≠ f.nonce then pure (.bare .staleSession)
      else if e1.state = .suspect then
        (if f.args ≠ [] then pure (.bare .badArg) else reattachSuspect c e1 f.port)
      else if e1.state = .lapsed then
        (if f.args ≠ [] then pure (.bare .badArg) else reattachRevive .revive c e1 f.port)
      else pure (.bare .staleSession)

/-- The take of a REATTACH frame. -/
def takeReattach (f : Frame) (s : State) : State :=
  s.takeFrame (.reattach f) 0x13 f
    (judgedWith { need := .skip, args := f.args.length } f (pure none) (reattachWork f))

/-- REATTACH (R80 to R83). -/
def execReattach (f : Frame) (s : State) : Answer := .next (takeReattach f s)

/-! ### SESSION STATUS (R79) -/

/-- The slots of the records that the key index names as holding a grant of a client, in ascending key
order (R79). -/
def State.grantSlots (s : State) (c : Nat) : List Nat :=
  (s.main.index.filter fun e => !e.2.quarantined && e.2.holders.any (fun h => h.1 == c)).map
    fun e => e.2.slot

/-- Each record is touched, and the client's grants that remain are counted (R79). A record that its touch quarantines
counts 0, and the walk goes on to an answer OK (DESIGN CHOICE: log 45). -/
def countGrants (c : Nat) : List Nat → Take Nat
  | [] => pure 0
  | n :: ns => do
    let k ← (do
      match (← touch n none) with
      | .quarantined => pure 0
      | .gone => pure 0
      | .held b => do
        closeBench b
        pure (b.body.grants.filter fun g => g.client == c).length)
    let r ← countGrants c ns
    pure (k + r)

/-- The SESSION STATUS payload (R79, R188, R190). -/
def statusPayload (e : SessEntry) (grants waits : Nat) (q : NoticeQueue) : List Byte :=
  if e.state = .free then List.replicate 10 0
  else
    [e.state.code, portCode e.port, e.policy.code] ++ termBytes e.hbTerm ++
      [BitVec.ofNat 8 (min grants 255), BitVec.ofNat 8 waits, BitVec.ofNat 8 q.queue.length,
       BitVec.ofNat 8 q.lost]

/-- SESSION STATUS's own checks and work: TARGET 1 (R79). -/
def sessionStatusWork (f : Frame) : Take Reply := do
  let c := (byteAt f.args 0).toNat
  if Config.sessions ≤ c then pure (.bare .badArg)
  else do
    let e ← readControl (sessionWord c)
    let s ← get
    if s.lapseDue c e then discard (lapse c e) else pure ()
    let s ← get
    let n ← countGrants c (s.grantSlots c)
    let s ← get
    pure (.ok (statusPayload (s.session c) n (s.vol c).waitCount (s.noticesOf c)))

/-- The take of a SESSION STATUS frame. -/
def takeSessionStatus (f : Frame) (s : State) : State :=
  s.takeFrame (.sessionStatus f) 0x14 f (judged { need := .may, args := 1 } f (sessionStatusWork f))

/-- SESSION STATUS (R79). -/
def execSessionStatus (f : Frame) (s : State) : Answer := .next (takeSessionStatus f s)

/-! ### DISMISS (R84) -/

/-- DISMISS's own checks and work: TARGET 1 (R84). -/
def dismissWork (f : Frame) : Take Reply := do
  let c := (byteAt f.args 0).toNat
  if Config.sessions ≤ c then pure (.bare .badArg)
  else do
    let e ← readControl (sessionWord c)
    if e.state = .free then pure (.bare .notFound)
    else do
      settleRelease c e
      pure (.bare .ok)

/-- The take of a DISMISS frame. -/
def takeDismiss (f : Frame) (s : State) : State :=
  s.takeFrame (.dismiss f) 0x85 f
    (judged { supervisor := true, need := .may, args := 1 } f (dismissWork f))

/-- DISMISS (R84). -/
def execDismiss (f : Frame) (s : State) : Answer := .next (takeDismiss f s)

/-! ### Session events and lapse requests (R72, R73, R87) -/

/-- The Session Table takes its DUE entries one at a time, in schedule order (R97, R101). -/
abbrev State.nextSessionEvent (s : State) : Option Entry := if s.isReady then s.firstDue false else none

/-- A lapse request waits at the Session Table (R72, R87). -/
def State.requestLapse (s : State) (k : SessKind) (c : Nat) (on : Bool) : State :=
  match k with
  | .heartbeat => s.setVol c { s.vol c with lapseHeartbeat := on }
  | .grace => s.setVol c { s.vol c with lapseGrace := on }

/-- The Session Table's check of an event: the session is in the event's state with its deadline (R72,
R87). -/
def sessionEvent (k : SessKind) (st : SessState) (c : Nat) (deadline : Tick) : Take Unit := do
  match (← readSession c) with
  | none => pure ()
  | some e => do
    let s ← get
    if e.state = st ∧ (s.vol c).deadline = some deadline then modify fun s => s.requestLapse k c true
    else pure ()

/-- The taking of a HEARTBEAT event (R72). -/
def takeHeartbeat (c : Nat) (deadline : Tick) (s : State) : State :=
  match s.nextSessionEvent with
  | none => s
  | some e =>
    if e.kind = .heartbeat ∧ e.ref = .session c ∧ e.deadline = deadline then
      (s.schedRemove e.ref).run (sessionEvent .heartbeat .opened c deadline)
    else s

/-- HEARTBEAT_EVENT (R72). -/
def execHeartbeatEvent (c : Nat) (deadline : Tick) (s : State) : Answer :=
  .next (takeHeartbeat c deadline s)

/-- The taking of a GRACE event (R87). -/
def takeGrace (c : Nat) (deadline : Tick) (s : State) : State :=
  match s.nextSessionEvent with
  | none => s
  | some e =>
    if e.kind = .grace ∧ e.ref = .session c ∧ e.deadline = deadline then
      (s.schedRemove e.ref).run (sessionEvent .grace .suspect c deadline)
    else s

/-- GRACE_EVENT (R87). -/
def execGraceEvent (c : Nat) (deadline : Tick) (s : State) : Answer := .next (takeGrace c deadline s)

/-- The state a lapse request of this kind must find (R73, R87). -/
def lapseState : SessKind → SessState
  | .heartbeat => .opened
  | .grace => .suspect

/-- The directory's take of a lapse request (R73, R87). -/
def lapseWork (k : SessKind) (c : Nat) : Take Unit := do
  let e ← readControl (sessionWord c)
  let s ← get
  if e.state = lapseState k ∧ s.lapseDue c e then discard (lapse c e) else pure ()

/-- The take of a lapse request; in STORE_FAULT mode it is held (R72). -/
def takeLapse (k : SessKind) (c : Nat) (s : State) : State :=
  if s.isReady ∧ ¬ s.inFault ∧ s.lapseWaits k c then
    ((s.requestLapse k c false).taken (.lapse k c)).run (lapseWork k c)
  else s

/-- LAPSE_REQUEST (R73, R87). -/
def execLapseRequest (k : SessKind) (c : Nat) (s : State) : Answer := .next (takeLapse k c s)

end Sys2Proof.Machine
end

