-- ==== Sys2Proof/Machine/Sweep.lean ====
section
/-! DEFINITION. The restart sweep (spec 10, R167 to R173), stage by stage. -/

namespace Sys2Proof.Machine

/-! ### Stages 1 to 3 (R168, R169) -/

/-- Stage 1 on a session entry: its loss is judged only after the store flags word has been read (R168). -/
def State.sweepSession (s : State) (c : Nat) : State :=
  let r := (sessionWord c).read s
  match r.2 with
  | some _ => r.1
  | none => r.1.setMon { r.1.main.mon with fault := s.main.mon.fault, lost := s.main.mon.lost }

/-- The session entries lost in both copies, as bits of the set of lost control words. -/
def State.lostSessions (s : State) : BitVec 24 :=
  ((List.range Config.sessions).filter fun c => ((sessionWord c).peek s).isNone).foldl
    (fun acc c => acc ||| lostBit c) 0

/-- The WIPING flag as the store flags word holds it (R169). -/
def State.wiping (s : State) : Bool := ((flagsWord.peek s).map StoreFlags.wiping).getD false

/-- Stage 1: every control word is checked (R168). A session entry lost while the WIPING flag is set does not enter the
mode here, nor later where the replay then clears the flag: it stays lost and counts as FREE (DESIGN CHOICE: log
41). Nor is its bit set where stage 2 then enters the mode with a replay that fails: the entry counts as FREE, and joins
the lost control words when a take next reads it (DESIGN CHOICE: log 41). -/
def State.sweepStage1 (s : State) : State :=
  let s1 := (List.range Config.sessions).foldl State.sweepSession s
  let s2 := (flagsWord.read (nonceWord.read (tokenWord.read (zoneWord.read s1).1).1).1).1
  if s2.lostSessions = 0 ∨ (s2.wiping ∧ ¬ s2.inFault) then s2 else s2.enterFault s2.lostSessions

/-- Stage 3: a WIPE is finished, four slots to a commit as WIPE frees them (DESIGN CHOICE: log 42); passed over in
STORE_FAULT mode (R169, R173). -/
def State.sweepStage3 (s : State) : State :=
  if s.inFault then s
  else
    match flagsWord.peek s with
    | none => s
    | some fl =>
      if fl.wiping then
        s.freeAllSlots.freeAllSessions.commit { flags := some { fl with wiping := false } }
      else s

/-! ### Reading a slot in the sweep -/

/-- The record words of the slot hold a record that is not QUARANTINED. -/
def IdWord.holdsRecord (w : IdWord) : Bool := w.inUse && w.state != .quarantined

/-- The sweep's read of a slot: word 0, and all ten words of a record (R134, R170, R171; log 19). Answers
whether all the words read are readable. -/
def State.sweepRead (s : State) (n : Nat) : State × Bool :=
  if identReadable (s.store.slot n) ∧ (s.store.slot n).val.ident.holdsRecord then
    s.readSlot n Config.slotWords
  else s.readSlot n 1

/-- A commit of a record that the sweep has changed: the generation advances by one, and a TRANSIENT record left
VACANT is retired in the same commit (R170, R171). -/
def State.sweepCommit (s : State) (n : Nat) (r : Rec) : State :=
  if r.persist = .transient ∧ r.state = .vacant then s.commitIdent n IdWord.free
  else s.commit { images := [.slot n true { r with gen := r.gen + 1 }.image] }

/-- The quarantine of a slot that a sweep stage reads with word 0 readable: the grants whose head words read
get their notices (R142, R171). -/
def State.sweepQuarantine (s : State) (n : Nat) : State :=
  (s.handOuts ((readableHolders (s.store.slot n)).map fun h =>
      .notice h.1 (grantNotice s.now .revoked .quarantine
        ((s.store.slot n).val.ident.key.getD 0) h.2))).commitIdent n
    (quarantinedIdent (s.store.slot n))

/-- The EXPIRED notices of grants that ran out (R170, R171). -/
def expiredOuts (now : Tick) (k : Key) (gs : List Grant) : List Out :=
  gs.map fun g => .notice g.client (grantNotice now .expired .none k g.token)

/-! ### Stage 4 (R170) -/

/-- The sessions found in SETTLING, with their settle actions. -/
def State.settling (s : State) : List (Nat × Action) :=
  ((List.range Config.sessions).filter fun c => (s.session c).state == .settling).map
    fun c => (c, (s.session c).action)

/-- The settle action of a grant's client; none where the client is not settling. -/
def actionOf (sett : List (Nat × Action)) (g : Grant) : Action :=
  ((sett.find? fun p => p.1 == g.client).map Prod.snd).getD .none

/-- A grant that stage 4 removes (R170). -/
def stage4Removes (now : Tick) (sett : List (Nat × Action)) (g : Grant) : Bool :=
  match actionOf sett g with
  | .none => false
  | .release => true
  | .orphan => g.due now
  | .revive => false

/-- A grant as stage 4 leaves it (R170). -/
def stage4Grant (now : Tick) (sett : List (Nat × Action)) (g : Grant) : Grant :=
  match actionOf sett g with
  | .none => g
  | .release => g
  | .orphan => { g with gstate := .orphaned }
  | .revive => if g.gstate = .orphaned then g.revived now else g

/-- Stage 4 on a readable record (R170). -/
def State.stage4Record (s : State) (sett : List (Nat × Action)) (n : Nat) (r : Rec) : State :=
  let r1 := r.withGrants
    ((r.grants.filter fun g => !stage4Removes s.now sett g).map (stage4Grant s.now sett))
  if r1 = r then s
  else
    (s.handOuts (expiredOuts s.now r.key (r.grants.filter fun g =>
      actionOf sett g == .orphan && g.due s.now))).sweepCommit n r1

/-- Stage 4 on a slot (R170). A slot with an uncorrectable word among words 1 to 9 is quarantined under its key with its
REVOKED notices, also where a lower slot has the same key; stage 5 then takes its key for unknown (DESIGN CHOICE: log
18). -/
def State.stage4Slot (sett : List (Nat × Action)) (s : State) (n : Nat) : State :=
  let b := s.store.slot n
  let r := s.sweepRead n
  if !identReadable b then r.1.commitIdent n IdWord.lost
  else if !b.val.ident.holdsRecord then r.1
  else if !r.2 then r.1.sweepQuarantine n
  else r.1.stage4Record sett n b.val.record

/-- A settling session's entry as stage 4 commits it (R86, R170). -/
def stage4Entry (e : SessEntry) : SessEntry :=
  match e.action with
  | .none => e
  | .release => SessEntry.free
  | .orphan => { e with state := .lapsed, action := .none, waitsHeld := false,
                        waitsLost := e.waitsLost || e.waitsHeld }
  | .revive => { e with state := .suspect, action := .none }

/-- Stage 4: the settles are finished; passed over in STORE_FAULT mode (R170, R173). The settling entries are committed in
ascending client id order (DESIGN CHOICE: log 46). -/
def State.sweepStage4 (s : State) : State :=
  if s.inFault ∨ s.settling = [] then s
  else
    let s1 := (List.range Config.slots).foldl (State.stage4Slot s.settling) s
    (s.settling.foldl
      (fun s p => s.commit { session := some (p.1, stage4Entry (s.session p.1)) }) s1).driveLines

/-! ### Stage 5 (R171, R173) -/

/-- A slot quarantined without a readable key (R143, R171). -/
def State.stage5Lost (s : State) (n : Nat) : State :=
  (s.commitIdent n IdWord.lost).setQuar (Tab.put s.main.quar n none)

/-- A slot that stays quarantined under its key (R171). -/
def State.stage5Quarantined (s : State) (n : Nat) (k : Key) : State :=
  (s.setQuar (Tab.put s.main.quar n (some k))).setIndex
    (Tab.put s.main.index k.toNat { slot := n, quarantined := true, holders := [] })

/-- The schedule entries of a record's LIVE grants (R171). -/
def grantEntries (n : Nat) (gs : List Grant) : List Out :=
  (gs.filter fun g => g.gstate == .live).map fun g => .insert .grantExpiry (.grant n g.token) g.expiry

/-- Stage 5 on a readable record whose key is not in the index: expiry, retirement, index and schedule (R171). -/
def State.stage5Record (s : State) (n : Nat) (r : Rec) : State :=
  let r1 := r.withGrants (r.grants.filter fun g => !g.due s.now)
  let s1 := s.handOuts (expiredOuts s.now r.key (r.grants.filter (Grant.due s.now)))
  if r1.persist = .transient ∧ r1.state = .vacant then (s1.sweepCommit n r1).markFree n true
  else
    ((if r1 = r then s1 else s1.sweepCommit n r1).indexRecord n r1).handOuts (grantEntries n r1.grants)

/-- Stage 5 on a slot outside STORE_FAULT mode (R171; duplicate keys: log 18). A slot whose key an earlier slot has and
of which a word 1 to 9 cannot be read takes the case of the duplicate key, with the key unknown and no REVOKED notice
(DESIGN CHOICE: log 18). -/
def State.stage5Slot (s : State) (n : Nat) : State :=
  let b := s.store.slot n
  let r := s.sweepRead n
  if !identReadable b then r.1.stage5Lost n
  else if !b.val.ident.inUse then r.1.markFree n true
  else
    match b.val.ident.key with
    | none => if b.val.ident.state = .quarantined then
          r.1.setQuar (Tab.put r.1.main.quar n none) else r.1.stage5Lost n
    | some k =>
      if (r.1.lookup k).isSome then r.1.stage5Lost n
      else if b.val.ident.state = .quarantined then r.1.stage5Quarantined n k
      else if !r.2 then (r.1.sweepQuarantine n).stage5Quarantined n k
      else r.1.stage5Record n b.val.record

/-- The grants of a slot whose two words both read (R173). -/
def readableGrants (b : Block SlotImg) : List Grant :=
  [(2, b.val.g1), (4, b.val.g2), (6, b.val.g3), (8, b.val.g4)].flatMap fun p =>
    if b.ecc.getD p.1 .good = .double ∨ b.ecc.getD (p.1 + 1) .good = .double then [] else p.2.grant

/-- Stage 5 on a slot in STORE_FAULT mode: nothing is written, expired, retired or notified (R173). -/
def State.stage5Fault (s : State) (n : Nat) : State :=
  let b := s.store.slot n
  let s1 := (s.sweepRead n).1
  if !identReadable b then s1
  else if !b.val.ident.inUse then s1.markFree n true
  else
    match b.val.ident.key with
    | none => s1.setQuar (Tab.put s1.main.quar n none)
    | some k =>
      if b.val.ident.state = .quarantined then
        (if (s1.lookup k).isSome then s1.setQuar (Tab.put s1.main.quar n (some k))
          else s1.stage5Quarantined n k)
      else if (s1.lookup k).isSome then s1
      else
        (s1.setIndex (Tab.put s1.main.index k.toNat
          { slot := n, quarantined := false, holders := readableHolders b })).handOuts
          (grantEntries n (readableGrants b))

/-- Stage 5: every slot in ascending order (R171, R173). -/
def State.sweepStage5 (s : State) : State :=
  if s.inFault then (List.range Config.slots).foldl State.stage5Fault s
  else (List.range Config.slots).foldl State.stage5Slot s

/-! ### Stage 6 (R172, R173) -/

/-- A session entry as stage 6 commits it (R172). -/
def stage6Entry (e : SessEntry) : SessEntry :=
  { e with
    state := if e.state = .opened then .suspect else e.state,
    waitsLost := e.waitsLost || e.waitsHeld, waitsHeld := false }

/-- The restarted mark is set, the wait count and the lost count are 0 (R86, R172; log 38). -/
def State.markRestarted (s : State) (c : Nat) : State :=
  (s.setVol c { s.vol c with restarted := true, waitCount := 0 }).setNoticesOf c
    { s.noticesOf c with lost := 0 }

/-- Stage 6 on a session entry outside STORE_FAULT mode (R172). -/
def State.stage6Session (s : State) (c : Nat) : State :=
  let e := s.session c
  if e.state = .free then s
  else
    let s1 := if stage6Entry e = e then s else s.commit { session := some (c, stage6Entry e) }
    let s2 := s1.markRestarted c
    if (stage6Entry e).state = .suspect then
      s2.placeDeadline .grace c (tickPlus s2.now (2 * e.hbTerm.toNat))
    else s2

/-- Stage 6 on a session entry in STORE_FAULT mode: nothing is committed (R173). -/
def State.stage6Fault (s : State) (c : Nat) : State :=
  let e := s.session c
  if e.state = .free then s
  else if e.state = .opened then
    (s.markRestarted c).placeDeadline .heartbeat c (tickPlus s.now e.hbTerm.toNat)
  else if e.state = .suspect then
    (s.markRestarted c).placeDeadline .grace c (tickPlus s.now (2 * e.hbTerm.toNat))
  else s.markRestarted c

/-- Stage 6: every session entry in ascending order (R172, R173). -/
def State.sweepStage6 (s : State) : State :=
  if s.inFault then (List.range Config.sessions).foldl State.stage6Fault s
  else (List.range Config.sessions).foldl State.stage6Session s

/-- The end of the sweep: the first-start mark is cleared and the part is READY (R172; log 32). -/
def State.becomeReady (s : State) : State :=
  ((s.setPower { s.power with firstStart := false, state := .ready }).setStage 0).setSlotCursor 0

/-- The restart sweep: stages 1 to 6, each finished before the next begins (R167). -/
def State.sweep (s : State) : State :=
  s.sweepStage1.replay.sweepStage3.sweepStage4.sweepStage5.sweepStage6.becomeReady

/-- The sweep runs in RESTARTING while RESET# is high (R165, R167). -/
def takeSweep (s : State) : State :=
  if s.power.state = .restarting ∧ s.power.resetN then s.sweep else s

/-- RESTART_SWEEP (R167 to R173). -/
def execRestartSweep (s : State) : Answer := .next (takeSweep s)

end Sys2Proof.Machine
end

