-- ==== Sys2Proof/Machine/PowerControl.lean ====
section
/-! DEFINITION. Chapter 10: retained power-on, the loss of VBAT and of VDD, the main reset, and the work in progress
that they stop (R163 to R166). -/

namespace Sys2Proof.Machine

/-- The supervisor port that a level of SUPSEL[1:0] names (R119). -/
def supervisorOf (level : BitVec 2) : Option PortId :=
  if level = 0 then none else if level = 1 then some .a else if level = 2 then some .b else some .c

/-- The audit context at a main reset (R162). -/
def Audit.atReset (firstStart : Bool) : Audit :=
  if firstStart then Audit.idle else { Audit.idle with state := .aborted, reason := .reset }

/-- The main domain as a main reset begins: stage 1 of the sweep, the supervisor port sampled (R165). -/
def Main.atReset (firstStart : Bool) (supsel : BitVec 2) : Main :=
  { Main.empty with supPort := supervisorOf supsel, stage := 1, audit := Audit.atReset firstStart }

/-- A main reset begins (R165). -/
def State.beginReset (s : State) (supsel : BitVec 2) : State :=
  (s.setMain (Main.atReset s.power.firstStart supsel)).setPower
    { s.power with state := .restarting, supsel := supsel }

/-- A retained POR occurs when VBAT is applied to an unpowered retained domain; with VDD present a main reset
follows (R163, R164). -/
def takePor (supsel : BitVec 2) (s : State) : State :=
  if s.power.vbat then s
  else
    let s1 := (((s.setTb { tick := 0, phase := 0 }).setStore Store.por).setMain Main.empty).setPower
      { s.power with state := .retainedOnly, firstStart := true, vbat := true }
    if s.power.vdd then s1.beginReset supsel else s1

/-- RETAINED_POR (R164). -/
def execRetainedPor (supsel : BitVec 2) (s : State) : Answer := .next (takePor supsel s)

/-- VBAT is lost: the part is OFF and keeps no state; what the fields hold meanwhile is what the next retained
POR gives them (R163; log 3). -/
def takeVbatLoss (s : State) : State :=
  if s.power.vbat then
    (((s.setTb { tick := 0, phase := 0 }).setStore Store.por).setMain Main.empty).setPower
      { s.power with state := .off, firstStart := true, vbat := false }
  else s

/-- VBAT_LOSS (R163). -/
def execVbatLoss (s : State) : Answer := .next (takeVbatLoss s)

/-! ### Work in progress (R166) -/

/-- The take of a frame command. -/
def takeOf (i : Instr) (s : State) : State :=
  match i with
  | .info f => takeInfo f s
  | .time f => takeTime f s
  | .openSession f => takeOpen f s
  | .close f => takeClose f s
  | .ping f => takePing f s
  | .reattach f => takeReattach f s
  | .sessionStatus f => takeSessionStatus f s
  | .create f => takeCreate f s
  | .retire f => takeRetire f s
  | .lookup f => takeLookup f s
  | .enumerate f => takeEnumerate f s
  | .acquire f => takeAcquire f s
  | .acquireSet f => takeAcquireSet f s
  | .renew f => takeRenew f s
  | .release f => takeRelease f s
  | .downgrade f => takeDowngrade f s
  | .cancelWait f => takeCancelWait f s
  | .fetchNotices f => takeFetchNotices f s
  | .attention f => takeAttention f s
  | .zoneSet f => takeZoneSet f s
  | .zoneFreeze f => takeZoneFreeze f s
  | .zoneRead f => takeZoneRead f s
  | .forceRelease f => takeForceRelease f s
  | .dismiss f => takeDismiss f s
  | .wipe f => takeWipe f s
  | .auditStart f => takeAuditStart f s
  | .auditSuspend f => takeAuditSuspend f s
  | .auditResume f => takeAuditResume f s
  | .auditRead f => takeAuditRead f s
  | .storeStatus f => takeStoreStatus f s
  | .storeClear f => takeStoreClear f s
  | .scrubControl f => takeScrubControl f s
  | .reclaim f => takeReclaim f s
  | .quarantineList f => takeQuarantineList f s
  | .unknownCommand cmd f => takeUnknown cmd f s
  | .statusRead _ _ _ _ => s
  | .responseRead _ _ _ => s
  | .firstFrameByte _ _ _ => s
  | .frameEnd _ _ => s
  | .grantExpiryEvent _ _ _ => s
  | .waitDeadlineEvent _ _ => s
  | .heartbeatEvent _ _ => s
  | .graceEvent _ _ => s
  | .lapseRequest _ _ => s
  | .entryFallsDue _ => s
  | .timebaseAdvance _ => s
  | .scrubStepPending => s
  | .scrubStep => s
  | .auditStep => s
  | .retainedPor _ => s
  | .vbatLoss => s
  | .vddLoss _ _ => s
  | .mainReset _ _ _ _ => s
  | .restartSweep => s

/-- The take of the frame at the head of the arbiter's list (R183). -/
def State.workFrame (s : State) : State :=
  match s.main.arbiter with
  | [] => s
  | p :: _ =>
    match decodeFrame p (s.port p).cmdBuf with
    | none => s
    | some i => takeOf i s

/-- The take of the directory's next DUE entry (R97). -/
def State.workDirectoryEvent (s : State) : State :=
  match s.nextDirectoryEvent with
  | none => s
  | some e =>
    match e.ref with
    | .grant n t => takeGrantExpiry n t e.deadline s
    | .waiter id => takeWaitDeadline id e.deadline s
    | .session _ => s

/-- The taking of the Session Table's next DUE entry (R97). -/
def State.workSessionEvent (s : State) : State :=
  match s.nextSessionEvent with
  | none => s
  | some e =>
    match e.ref, e.kind with
    | .session c, .heartbeat => takeHeartbeat c e.deadline s
    | .session c, .grace => takeGrace c e.deadline s
    | _, _ => s

/-- The work in progress (R166; log 20). -/
def State.work (s : State) : Work → State
  | .idle => s
  | .frame => s.workFrame
  | .directoryEvent => s.workDirectoryEvent
  | .sessionEvent => s.workSessionEvent
  | .lapse k c => takeLapse k c s
  | .scrubStep => takeScrubStep s
  | .auditStep => takeAuditStep s
  | .sweep => takeSweep s

/-- The retained effect of work that a main reset stops after a number of word writes: a word write that has
begun completes, and no further word is written (R166). -/
def State.stopped (s : State) (w : Work) (writes : Nat) : State :=
  s.setStore ((s.setCut (some writes)).work w).store

/-- VDD is lost: the work in progress stops and the main domain ends (R163, R166). -/
def takeVddLoss (w : Work) (writes : Nat) (s : State) : State :=
  if s.power.vdd then
    let s1 := if s.isActive then s.stopped w writes else s
    (s1.setMain Main.empty).setPower
      { s.power with vdd := false, state := if s.power.vbat then .retainedOnly else .off }
  else s

/-- VDD_LOSS (R163, R166). -/
def execVddLoss (w : Work) (writes : Nat) (s : State) : Answer := .next (takeVddLoss w writes s)

/-- RESET# is driven low: in ACTIVE a main reset begins, the work in progress stopped (R163, R165, R166). -/
def takeResetLow (supsel : BitVec 2) (w : Work) (writes : Nat) (s : State) : State :=
  if s.power.resetN then
    let s1 := if s.isActive then (s.stopped w writes).beginReset supsel else s
    s1.setPower { s1.power with resetN := false }
  else s

/-- RESET# returns high: the sweep may start (R165). -/
def takeResetHigh (s : State) : State := s.setPower { s.power with resetN := true }

/-- VDD returns: with VBAT present a main reset begins (R163, R165). -/
def takeVddReturn (supsel : BitVec 2) (s : State) : State :=
  if s.power.vdd then s
  else
    let s1 := s.setPower { s.power with vdd := true }
    if s.power.vbat then s1.beginReset supsel else s1

/-- The edges of a main reset (R165; log 21). -/
def takeReset (edge : ResetEdge) (supsel : BitVec 2) (w : Work) (writes : Nat) (s : State) : State :=
  match edge with
  | .vddReturn => takeVddReturn supsel s
  | .resetLow => takeResetLow supsel w writes s
  | .resetHigh => takeResetHigh s

/-- MAIN_RESET (R165, R166). -/
def execMainReset (edge : ResetEdge) (supsel : BitVec 2) (w : Work) (writes : Nat) (s : State) : Answer :=
  .next (takeReset edge supsel w writes s)

end Sys2Proof.Machine
end

