-- ==== Sys2Proof/Machine/Dispatch.lean ====
section
/-! DEFINITION. The dispatch: one arm for each command, each one call of its meaning. -/

namespace Sys2Proof.Machine

/-- The effect of a command on everything but the queue. -/
def exec (i : Instr) (s : State) : Host.Outcome State Fault Refusal :=
  match i with
  | .info f => Sys2Proof.Machine.execInfo f s
  | .time f => Sys2Proof.Machine.execTime f s
  | .openSession f => Sys2Proof.Machine.execOpen f s
  | .close f => Sys2Proof.Machine.execClose f s
  | .ping f => Sys2Proof.Machine.execPing f s
  | .reattach f => Sys2Proof.Machine.execReattach f s
  | .sessionStatus f => Sys2Proof.Machine.execSessionStatus f s
  | .create f => Sys2Proof.Machine.execCreate f s
  | .retire f => Sys2Proof.Machine.execRetire f s
  | .lookup f => Sys2Proof.Machine.execLookup f s
  | .enumerate f => Sys2Proof.Machine.execEnumerate f s
  | .acquire f => Sys2Proof.Machine.execAcquire f s
  | .acquireSet f => Sys2Proof.Machine.execAcquireSet f s
  | .renew f => Sys2Proof.Machine.execRenew f s
  | .release f => Sys2Proof.Machine.execRelease f s
  | .downgrade f => Sys2Proof.Machine.execDowngrade f s
  | .cancelWait f => Sys2Proof.Machine.execCancelWait f s
  | .fetchNotices f => Sys2Proof.Machine.execFetchNotices f s
  | .attention f => Sys2Proof.Machine.execAttention f s
  | .zoneSet f => Sys2Proof.Machine.execZoneSet f s
  | .zoneFreeze f => Sys2Proof.Machine.execZoneFreeze f s
  | .zoneRead f => Sys2Proof.Machine.execZoneRead f s
  | .forceRelease f => Sys2Proof.Machine.execForceRelease f s
  | .dismiss f => Sys2Proof.Machine.execDismiss f s
  | .wipe f => Sys2Proof.Machine.execWipe f s
  | .auditStart f => Sys2Proof.Machine.execAuditStart f s
  | .auditSuspend f => Sys2Proof.Machine.execAuditSuspend f s
  | .auditResume f => Sys2Proof.Machine.execAuditResume f s
  | .auditRead f => Sys2Proof.Machine.execAuditRead f s
  | .storeStatus f => Sys2Proof.Machine.execStoreStatus f s
  | .storeClear f => Sys2Proof.Machine.execStoreClear f s
  | .scrubControl f => Sys2Proof.Machine.execScrubControl f s
  | .reclaim f => Sys2Proof.Machine.execReclaim f s
  | .quarantineList f => Sys2Proof.Machine.execQuarantineList f s
  | .unknownCommand cmd f => Sys2Proof.Machine.execUnknownCommand cmd f s
  | .statusRead p address leading count => Sys2Proof.Machine.execStatusRead p address leading count s
  | .responseRead p address count => Sys2Proof.Machine.execResponseRead p address count s
  | .firstFrameByte p address b => Sys2Proof.Machine.execFirstFrameByte p address b s
  | .frameEnd p more => Sys2Proof.Machine.execFrameEnd p more s
  | .grantExpiryEvent slot token deadline => Sys2Proof.Machine.execGrantExpiryEvent slot token deadline s
  | .waitDeadlineEvent id deadline => Sys2Proof.Machine.execWaitDeadlineEvent id deadline s
  | .heartbeatEvent c deadline => Sys2Proof.Machine.execHeartbeatEvent c deadline s
  | .graceEvent c deadline => Sys2Proof.Machine.execGraceEvent c deadline s
  | .lapseRequest k c => Sys2Proof.Machine.execLapseRequest k c s
  | .entryFallsDue r => Sys2Proof.Machine.execEntryFallsDue r s
  | .timebaseAdvance cycles => Sys2Proof.Machine.execTimebaseAdvance cycles s
  | .scrubStepPending => Sys2Proof.Machine.execScrubStepPending s
  | .scrubStep => Sys2Proof.Machine.execScrubStep s
  | .auditStep => Sys2Proof.Machine.execAuditStep s
  | .retainedPor supsel => Sys2Proof.Machine.execRetainedPor supsel s
  | .vbatLoss => Sys2Proof.Machine.execVbatLoss s
  | .vddLoss w writes => Sys2Proof.Machine.execVddLoss w writes s
  | .mainReset edge supsel w writes => Sys2Proof.Machine.execMainReset edge supsel w writes s
  | .restartSweep => Sys2Proof.Machine.execRestartSweep s

end Sys2Proof.Machine
end

