-- ==== Sys2Proof/Safety.lean ====
section
/-! DEFINITION. The terms in which statements about the part are made: the table of R188, what it takes for a frame
to be taken and to pass the common checks, a record at rest, and the laws that hold of every state. -/

namespace Sys2Proof.Machine

/-! ### The table of commands (R188) -/

/-- Marks S and F, the session column and the length of the arguments of each frame command, as R188 lists
them. ACQUIRE SET's length is that of its own count field. None for a command that is no frame command of
R188. -/
def marksOf : Instr → Option Marks
  | .info _ => some { inFault := true, need := .may }
  | .time _ => some { inFault := true, need := .may }
  | .openSession _ => some { need := .skip, args := 5 }
  | .close _ => some {}
  | .ping _ => some {}
  | .reattach _ => some { need := .skip }
  | .sessionStatus _ => some { need := .may, args := 1 }
  | .create _ => some { need := .orSupervisor, args := 11 }
  | .retire _ => some { need := .orSupervisor, args := 4 }
  | .lookup _ => some { inFault := true, need := .may, args := 4 }
  | .enumerate _ => some { inFault := true, need := .may, args := 5 }
  | .acquire _ => some { args := 11 }
  | .acquireSet f => some { args := 4 + 5 * (byteAt f.args 0).toNat }
  | .renew _ => some { args := 13 }
  | .release _ => some { args := 10 }
  | .downgrade _ => some { args := 10 }
  | .cancelWait _ => some { args := 5 }
  | .fetchNotices _ => some { args := 1 }
  | .attention _ => some { args := 1 }
  | .zoneSet _ => some { supervisor := true, need := .may, args := 55 }
  | .zoneFreeze _ => some { supervisor := true, need := .may }
  | .zoneRead _ => some { need := .may }
  | .forceRelease _ => some { supervisor := true, need := .may, args := 10 }
  | .dismiss _ => some { supervisor := true, need := .may, args := 1 }
  | .wipe _ => some { supervisor := true, inFault := true, need := .may }
  | .auditStart _ => some { supervisor := true, need := .may, args := 8 }
  | .auditSuspend _ => some { supervisor := true, need := .may }
  | .auditResume _ => some { supervisor := true, need := .may }
  | .auditRead _ => some { need := .may }
  | .storeStatus _ => some { inFault := true, need := .may }
  | .storeClear _ => some { supervisor := true, need := .may }
  | .scrubControl _ => some { supervisor := true, need := .may, args := 1 }
  | .reclaim _ => some { supervisor := true, need := .may, args := 2 }
  | .quarantineList _ => some { inFault := true, need := .may, args := 2 }
  | .unknownCommand _ _ => none
  | .statusRead _ _ _ _ => none
  | .responseRead _ _ _ => none
  | .firstFrameByte _ _ _ => none
  | .frameEnd _ _ => none
  | .grantExpiryEvent _ _ _ => none
  | .waitDeadlineEvent _ _ => none
  | .heartbeatEvent _ _ => none
  | .graceEvent _ _ => none
  | .lapseRequest _ _ => none
  | .entryFallsDue _ => none
  | .timebaseAdvance _ => none
  | .scrubStepPending => none
  | .scrubStep => none
  | .auditStep => none
  | .retainedPor _ => none
  | .vbatLoss => none
  | .vddLoss _ _ => none
  | .mainReset _ _ _ _ => none
  | .restartSweep => none

/-! ### Control words and sessions -/

/-- Both copies of a control word hold this value with no bit in error. -/
abbrev Control.holds {α : Type} (c : Control α) (s : State) (v : α) : Prop :=
  c.get s.store = { c1 := { val := v, ecc := List.replicate c.words .good },
                    c2 := { val := v, ecc := List.replicate c.words .good } }

/-- The frame's session passes the session check: the five steps of R69, with no lapse due, and the entry not among
the lost control words (R136). -/
abbrev State.passes (s : State) (f : Frame) (e : SessEntry) : Prop :=
  f.client.toNat < Config.sessions ∧ (sessionWord f.client.toNat).holds s e ∧
    s.entryLost f.client.toNat = false ∧ e.state = .opened ∧ e.nonce = f.nonce ∧ e.port = some f.port ∧
    s.lapseDue f.client.toNat e = false

/-- `s1` is the state after a session step that a frame passes from `s`: refreshed where the frame names a
session (R70), unchanged where it may go without one (R184, step 5). -/
def State.checkedTo (need : Need) (f : Frame) (s s1 : State) : Prop :=
  match need with
  | .skip => s1 = s
  | .needs => ∃ e, s.passes f e ∧ s1 = s.refresh f.client.toNat e
  | .may => (f.client = noClient ∧ s1 = s) ∨
      ∃ e, s.passes f e ∧ s1 = s.refresh f.client.toNat e
  | .orSupervisor => (f.client = noClient ∧ s.main.supPort = some f.port ∧ s1 = s) ∨
      ∃ e, s.passes f e ∧ s1 = s.refresh f.client.toNat e

/-- The frame at the head of the arbiter's list carries command `i`, and passes steps 1 to 6 of the order of checks
(R184). `s1` is the state its own work begins in. -/
def State.takenTo (s : State) (i : Instr) (f : Frame) (s1 : State) : Prop :=
  ∃ m cmd, frameOf i = some (cmd, f) ∧ marksOf i = some m ∧ s.offers i f.port ∧
    (m.supervisor = true → s.main.supPort = some f.port) ∧ (s.inFault → m.inFault = true) ∧
    (s.accept f.port).checkedTo m.need f s1 ∧ f.args.length = m.args

/-- A control word holds a value in both copies with no bit in error, or neither copy of it can be read. -/
def Control.holdsOrLost {α : Type} (c : Control α) (s : State) : Option α → Prop
  | some v => c.holds s v
  | none => readable (c.get s.store).c1.ecc = false ∧ readable (c.get s.store).c2.ecc = false

/-! ### Records -/

/-- The record of key `k` rests in slot `n`: the key index names the slot, every word of it reads without error,
its queue is in the pool, and no grant or waiter of it is due and nothing is to be retired, so that a
touch changes nothing. -/
structure State.atRest (s : State) (k : Key) (n : Nat) : Prop where
  indexed : ∃ h, s.lookup k = some { slot := n, quarantined := false, holders := h }
  good    : (s.store.slot n).ecc = tenGood
  queued  : (s.waitersOf n).map Prod.fst = s.queueOf n
  quiet   : (s.bench n none).lazyExpiry s.now = s.bench n none
  kept    : (s.bench n none).toRetire = false

/-- A grant as it is issued (R30, R52). -/
def Grant.fresh (now : Tick) (client : Nat) (m : Mode) (term : Term) (token : Token) : Grant :=
  { client := client, mode := m, gstate := .live, token := token,
    expiry := tickPlus now term.toNat, term := term }

/-- A record whose last place in the grant list a new grant has taken, as one commit leaves it (R4, R30). -/
def Rec.granted (r : Rec) (g : Grant) : Rec :=
  { r with grants := r.grants ++ [g], gen := r.gen + 1,
           state := if g.mode = .exclusive then .heldExclusive else .heldShared }

/-- A record without the grant of a token, as one commit leaves it (R2, R4, R37). -/
def Rec.without (r : Rec) (token : Token) : Rec :=
  { r with grants := r.grants.filter fun g => g.token != token, gen := r.gen + 1,
           state := summaryOf (r.grants.filter fun g => g.token != token) }

/-- A record with a grant changed in its place, as one commit leaves it (R4, R36). -/
def Rec.changed (r : Rec) (token : Token) (f : Grant → Grant) : Rec :=
  { r with grants := r.grants.map fun g => if g.token = token then f g else g, gen := r.gen + 1,
           state := summaryOf (r.grants.map fun g => if g.token = token then f g else g) }

/-- No handoff would follow: the queue is empty or its head is not admissible (R49, R51). -/
def Rec.noHandoff (r : Rec) (queue : List (Nat × Waiter)) : Prop :=
  ∀ p, queue.head? = some p → r.admits p.2.client p.2.mode = false

/-- The record of a slot (R134). -/
abbrev State.recordOf (s : State) (n : Nat) : Rec := (s.store.slot n).val.record

/-- The volatile effects that follow the commit of a record that stays in use (R5, R9). -/
def State.recordKept (n : Nat) (r : Rec) (x : State) : State :=
  ((x.indexRecord n r).markFree n false).told r.key

/-- The volatile effects that follow the commit of a record's removal (R5, R9). -/
def State.recordGone (n : Nat) (k : Key) (x : State) : State := ((x.unindex k).markFree n true).told k

/-- One key of an ACQUIRE SET with the mode asked for and the slot of its record (R32). -/
structure SetKey where
  key  : Key
  mode : Mode
  slot : Nat
  deriving DecidableEq, Repr

/-- A request of a client is admissible on a record, by the table of R23. -/
def Rec.admissible (r : Rec) (client : Nat) (m : Mode) : Prop :=
  (m = .exclusive ∧ r.state = .vacant) ∨
  (m = .shared ∧ (r.state = .vacant ∨ (r.state = .heldShared ∧ r.grants.length < r.share)) ∧
    ∀ g ∈ r.grants, g.client ≠ client)

/-- The term that a request resolves to on a record (R29). -/
def Rec.termFor (r : Rec) (t : Term) : Term := if t = 0 then r.defTerm else t

/-- The list of an ACQUIRE SET frame is `l`, and it is valid: 1 to 4 keys, none reserved and none twice, each with a
mode value of R190 (R32, R188). -/
structure ListsKeys (f : Frame) (l : List SetKey) : Prop where
  least  : 1 ≤ l.length
  most   : l.length ≤ 4
  count  : (byteAt f.args 0).toNat = l.length
  items  : ∀ p ∈ l.zipIdx, keyAt f.args (4 + 5 * p.2) = p.1.key ∧
    modeOf (byteAt f.args (8 + 5 * p.2)) = some p.1.mode
  keys   : (l.map SetKey.key).Nodup ∧ ∀ x ∈ l, ¬ reservedKey x.key

/-- The zone's attributes for a key (R117, R118). -/
abbrev ZoneMap.forKey (map : ZoneMap) (k : Key) : ZoneAttr := map.attr (map.classify k)

/-- The term that a request resolves to on a record prepared by auto-create (R13, R29). -/
def ZoneAttr.termFor (a : ZoneAttr) (t : Term) : Term := if t = 0 then a.defTerm else t

/-- The client holds no grant on the record of a slot and has no waiter in its queue (R29, R33). -/
def State.unnamed (s : State) (client n : Nat) : Prop :=
  (s.recordOf n).grantOf client = none ∧ ∀ p ∈ s.waitersOf n, p.2.client ≠ client

/-- A key of an ACQUIRE SET passes the four checks of R33: it is absent and its zone prepares a record for it, or its
record is at rest, names the client nowhere and grants the request at once. -/
def State.setKeyPasses (s : State) (f : Frame) (map : ZoneMap) (x : SetKey) : Prop :=
  (s.lookup x.key = none ∧ (map.forKey x.key).autoCreate = true ∧
    (map.forKey x.key).termFor (termAt f.args 1) ≤ (map.forKey x.key).maxTerm) ∨
  (s.atRest x.key x.slot ∧ s.unnamed f.client.toNat x.slot ∧
    (s.recordOf x.slot).termFor (termAt f.args 1) ≤ (s.recordOf x.slot).maxTerm ∧
    (s.recordOf x.slot).admissible f.client.toNat x.mode ∧ s.queueOf x.slot = [])

/-- A key of an ACQUIRE SET fails the first of the four checks of R33 that it fails, with that check's answer; `left`
says that a FREE slot is left for a record to be prepared in. -/
def State.setKeyFails (s : State) (f : Frame) (map : ZoneMap) (left : Prop) (x : SetKey) (st : Status) : Prop :=
  (∃ e, s.lookup x.key = some e ∧ e.quarantined = true ∧ st = .quarantined) ∨
  (s.lookup x.key = none ∧
    (((map.forKey x.key).autoCreate = false ∧ st = .notFound) ∨
     ((map.forKey x.key).autoCreate = true ∧ ¬ left ∧ st = .noSpace) ∨
     ((map.forKey x.key).autoCreate = true ∧ left ∧
       (map.forKey x.key).maxTerm < (map.forKey x.key).termFor (termAt f.args 1) ∧ st = .badArg))) ∨
  (s.atRest x.key x.slot ∧
    ((¬ s.unnamed f.client.toNat x.slot ∧ st = .exists_) ∨
     (s.unnamed f.client.toNat x.slot ∧
       (s.recordOf x.slot).maxTerm < (s.recordOf x.slot).termFor (termAt f.args 1) ∧ st = .badArg) ∨
     (s.unnamed f.client.toNat x.slot ∧
       (s.recordOf x.slot).termFor (termAt f.args 1) ≤ (s.recordOf x.slot).maxTerm ∧
       (¬ (s.recordOf x.slot).admissible f.client.toNat x.mode ∨ s.queueOf x.slot ≠ []) ∧ st = .busy)))

/-- The keys of a list that are in no record (R13). -/
def State.absent (s : State) (l : List SetKey) : List SetKey := l.filter fun x => (s.lookup x.key).isNone

/-- The FREE slots, in ascending order (R11, R13). -/
def State.freeSlots (s : State) : List Nat := (List.range Config.slots).filter s.isFree

/-! ### The image of the zone map (R121) -/

/-- The 55 bytes of a zone map image are well formed, condition by condition as R121 lists them: boundary `i` of 0 to 2
has its enable byte at 5i and its key behind it, the attribute set of zone `z` begins at 15 + 10z. -/
structure ZoneImageOk (args : List Byte) : Prop where
  enables : ∀ i, i < 3 → byteAt args (5 * i) = 0 ∨ byteAt args (5 * i) = 1
  options : ∀ z, z < 4 → ∀ j, j < 3 → byteAt args (15 + 10 * z + j) = 0 ∨ byteAt args (15 + 10 * z + j) = 1
  keys    : ∀ i, i < 3 → byteAt args (5 * i) = 1 → ¬ reservedKey (keyAt args (5 * i + 1))
  rising  : ∀ i, i < 2 → byteAt args (5 * (i + 1)) = 1 →
    byteAt args (5 * i) = 1 ∧ keyAt args (5 * i + 1) < keyAt args (5 * (i + 1) + 1)
  limits  : ∀ z, z < 4 → 1 ≤ (byteAt args (15 + 10 * z + 3)).toNat ∧
    (byteAt args (15 + 10 * z + 3)).toNat ≤ 4 ∧ termAt args (15 + 10 * z + 7) ≠ 0 ∧
    termAt args (15 + 10 * z + 4) ≠ 0 ∧ termAt args (15 + 10 * z + 4) ≤ termAt args (15 + 10 * z + 7)

/-- A boundary of a zone map image; the key of a disabled one is held as 0 (R121). -/
def imageBoundary (args : List Byte) (i : Nat) : Boundary :=
  { on := byteAt args (5 * i) == 1,
    key := if byteAt args (5 * i) = 1 then keyAt args (5 * i + 1) else 0 }

/-- An attribute set of a zone map image (R121). -/
def imageAttr (args : List Byte) (z : Nat) : ZoneAttr :=
  { supOnly := byteAt args (15 + 10 * z) == 1, autoCreate := byteAt args (15 + 10 * z + 1) == 1,
    waits := byteAt args (15 + 10 * z + 2) == 1, share := (byteAt args (15 + 10 * z + 3)).toNat,
    defTerm := termAt args (15 + 10 * z + 4), maxTerm := termAt args (15 + 10 * z + 7) }

/-- The map that a zone map image carries, unfrozen (R121). -/
def imageMap (args : List Byte) : ZoneMap :=
  { b1 := imageBoundary args 0, b2 := imageBoundary args 1, b3 := imageBoundary args 2,
    z0 := imageAttr args 0, z1 := imageAttr args 1, z2 := imageAttr args 2, z3 := imageAttr args 3,
    frozen := false }

/-- A TRANSIENT record that has lost its last grant and has no waiter is to be retired (R15). -/
def Rec.retires (r : Rec) (queue : List Nat) : Prop :=
  r.persist = .transient ∧ r.grants = [] ∧ queue = []

/-- The holding rules of a record: no EXCLUSIVE grant together with another grant, never more SHARED grants than
the share limit, no two grants of one client, and the record state the summary of the grant list (R2,
R23). -/
structure Rec.holding (r : Rec) : Prop where
  alone   : ∀ g ∈ r.grants, g.mode = .exclusive → r.grants = [g]
  room    : r.grants ≠ [] → r.grants.length ≤ r.share
  clients : (r.grants.map Grant.client).Nodup
  summary : r.state = summaryOf r.grants
  limit   : 1 ≤ r.share

/-! ### The restart sweep (R167 to R173) -/

/-- The sweep is about to run: the part is RESTARTING with RESET# high, and its main domain is as the reset left it but
for the ports and the frames they hold (R165, R174). -/
structure State.sweeps (s : State) : Prop where
  restarting : s.power.state = .restarting
  released   : s.power.resetN = true
  main       : ∃ firstStart supsel, s.main =
    { Main.atReset firstStart supsel with ports := s.main.ports, arbiter := s.main.arbiter }

/-- The settle action that a session found SETTLING has for a grant (R170). -/
def settlesGrant (se : Nat → SessEntry) (g : Grant) : Action :=
  if g.client < Config.sessions ∧ (se g.client).state = .settling then (se g.client).action else .none

/-- A grant as stage 4 leaves it, or none where it is removed (R170). -/
def settledGrant (now : Tick) (a : Action) (g : Grant) : Option Grant :=
  match a with
  | .none => some g
  | .release => none
  | .orphan =>
    if g.gstate = .live ∧ g.expiry ≤ now then none else some { g with gstate := .orphaned }
  | .revive =>
    if g.gstate = .orphaned then some { g with gstate := .live, expiry := tickPlus now g.term.toNat }
    else some g

/-- A record with another grant list, as one commit leaves it; unchanged where the list is the same (R2, R4). -/
def Rec.sweptTo (r : Rec) (gs : List Grant) : Rec :=
  if gs = r.grants then r else { r with grants := gs, state := summaryOf gs, gen := r.gen + 1 }

/-- A session entry that was SETTLING, as the sweep leaves it (R86, R170, R172). -/
def SessEntry.settled (e : SessEntry) : SessEntry :=
  match e.action with
  | .none => e
  | .release => SessEntry.free
  | .orphan => { e with state := .lapsed, action := .none, waitsHeld := false,
                        waitsLost := e.waitsLost || e.waitsHeld }
  | .revive => { e with state := .suspect, action := .none, waitsHeld := false,
                        waitsLost := e.waitsLost || e.waitsHeld }

/-! ### What commits leave (R138) -/

/-- An image at its target. -/
def Store.putImage (st : Store) : Image → Store
  | .slot n true img => st.setSlot n { val := img, ecc := tenGood }
  | .slot n false img =>
    st.setSlot n { val := { (st.slot n).val with ident := img.ident }, ecc := (st.slot n).ecc.set 0 .good }
  | .zone m => { st with zone := { c1 := { val := m, ecc := sevenGood }, c2 := { val := m, ecc := sevenGood } } }

/-- A session entry at its target. -/
def Store.putEntry (st : Store) (p : Nat × SessEntry) : Store := st.setSession p.1 (Copies.two p.2)

/-- The token counter at its target. -/
def Store.putToken (st : Store) (t : Token) : Store := { st with token := Copies.two t }

/-- The nonce counter at its target. -/
def Store.putNonce (st : Store) (n : Nonce) : Store := { st with nonce := Copies.two n }

/-- The store flags at their target. -/
def Store.putFlags (st : Store) (f : StoreFlags) : Store := { st with flags := Copies.two f }

/-- The store with everything that a commit carries at its target. -/
def Store.putCommit (st : Store) (c : Commit) : Store :=
  let st1 := c.images.foldl Store.putImage st
  let st2 := c.session.elim st1 st1.putEntry
  let st3 := c.token.elim st2 st2.putToken
  let st4 := c.nonce.elim st3 st3.putNonce
  c.flags.elim st4 st4.putFlags

/-- Two stores with the same record area and control area. -/
def Store.coreEq (a b : Store) : Prop :=
  a.slots = b.slots ∧ a.sess = b.sess ∧ a.zone = b.zone ∧ a.token = b.token ∧ a.nonce = b.nonce ∧
    a.flags = b.flags

/-- What `s` has become, `t`, after commits that lead to the store `st`, all made, and then the volatile effects `F`:
the record area and the control area are those of `st` and the VALID marker is clear. Of the intent
area's places nothing is said. -/
def State.becomes (s : State) (st : Store) (F : State → State) (t : State) : Prop :=
  t = F (s.setStore t.store) ∧ t.store.coreEq st ∧ t.store.intent.marker = Copies.two false

/-! ### Sound records (R5, R23, R25) -/

/-- The records of a store: each meets the holding rules, every token is below the token counter, which is not 0, and
every zone of the map has a share limit of at least 1. -/
structure Store.recordsSound (st : Store) : Prop where
  rules   : ∀ n, n < Config.slots → (st.slot n).val.ident.holdsRecord = true →
    (st.slot n).val.record.holding
  tokens  : ∀ n v, n < Config.slots → (st.slot n).val.ident.holdsRecord = true →
    st.token.value = some v → ∀ g ∈ (st.slot n).val.record.grants, g.token.toNat < v.toNat
  counter : ∀ v, st.token.value = some v → v ≠ 0
  zones   : ∀ m z, st.zone.value = some m → 1 ≤ (ZoneMap.attr m z).share

/-- The record of a slot is in use and not QUARANTINED, as the sets of the main domain have it (R5, R148). -/
def State.inHand (s : State) (n : Nat) : Prop :=
  n < Config.slots ∧ s.isFree n = false ∧ Tab.find? s.main.quar n = none

/-- The main domain agrees with sound records: every slot is in the set of FREE slots, in the quarantine set or holds a
record; the key index names each record and each quarantined slot of a known key by its key, and nothing else; the
queues and the Waiter Pool agree; and the schedule and the scrub cursor refer to slots of the record area (R5, R45,
R46, R92, R148, R150). -/
structure State.sound (s : State) : Prop where
  records : s.store.recordsSound
  free    : ∀ n, s.isFree n = true → (s.store.slot n).val.ident.inUse = false
  quar    : ∀ n key, Tab.find? s.main.quar n = some key → n < Config.slots ∧ s.isFree n = false ∧
    (s.store.slot n).val.ident.holdsRecord = false ∧
    ∀ k, key = some k → ∃ h, s.lookup k = some { slot := n, quarantined := true, holders := h }
  held    : ∀ n, s.inHand n → (s.store.slot n).val.ident.holdsRecord = true ∧
    ∃ k h, (s.store.slot n).val.ident.key = some k ∧
      s.lookup k = some { slot := n, quarantined := false, holders := h }
  index   : ∀ e ∈ s.main.index, e.1 < 2 ^ 32 ∧
    (e.2.quarantined = true → Tab.find? s.main.quar e.2.slot = some (some (BitVec.ofNat 32 e.1))) ∧
    (e.2.quarantined = false → s.inHand e.2.slot ∧
      (s.store.slot e.2.slot).val.ident.key = some (BitVec.ofNat 32 e.1))
  queues  : ∀ n, (s.queueOf n).Nodup ∧ ∀ id ∈ s.queueOf n, ∃ w, s.waiter id = some w ∧ w.slot = n
  pool    : ∀ id w, s.waiter id = some w → id < Config.waiters ∧ id ∈ s.queueOf w.slot ∧ s.inHand w.slot
  sched   : ∀ e ∈ s.main.sched, ∀ n tok, e.ref = .grant n tok → n < Config.slots
  cursor  : s.main.mon.cursor < Config.slots

/-! ### Laws of every state -/

/-- The tables of the store are in their canonical form, and every stored block has as many check-bit conditions
as words (R133 to R135). -/
def Store.canonical (st : Store) : Bool :=
  Tab.wf Block.blankSlot st.slots && Tab.wf Copies.freeSess st.sess &&
    (st.slots.all fun e => e.2.ecc.length == Config.slotWords) &&
    (st.sess.all fun e => e.2.c1.ecc.length == 1 && e.2.c2.ecc.length == 1) &&
    (st.zone.c1.ecc.length == Config.zoneWords && st.zone.c2.ecc.length == Config.zoneWords) &&
    (st.token.c1.ecc.length == 1 && st.token.c2.ecc.length == 1) &&
    (st.nonce.c1.ecc.length == 1 && st.nonce.c2.ecc.length == 1) &&
    (st.flags.c1.ecc.length == 1 && st.flags.c2.ecc.length == 1)

/-- The Retained Store is in its canonical form. -/
abbrev State.canonical (s : State) : Prop := s.store.canonical = true

/-- The tables of the main domain are in their canonical form. -/
def Main.canonical (m : Main) : Bool :=
  Tab.rising m.index && Tab.rising m.quar && Tab.rising m.pool && Tab.wf [] m.queues &&
    Tab.wf SessVol.none m.sessV && Tab.wf NoticeQueue.empty m.notices

/-- A state between steps: the Retained Store and the tables of the main domain are in their canonical form, and no
loss of power is under way. -/
structure State.between (s : State) : Prop where
  canonical : s.canonical
  tables    : s.main.canonical = true
  uncut     : s.cut = none

/-- No notice queue holds more than 16 notices, and no lost count exceeds 255 (R107). -/
def State.noticesBounded (s : State) : Prop :=
  ∀ e ∈ s.main.notices, e.2.queue.length ≤ 16 ∧ e.2.lost ≤ 255

/-- The counts of the Store Monitor are in their ranges (R145). -/
def State.countsBounded (s : State) : Prop :=
  s.main.mon.corrected ≤ 65535 ∧ s.main.mon.uncorrected ≤ 255

/-- The arbiter's list names each port whose frame is held, once, and no other port (R183). -/
def State.arbiterAgrees (s : State) : Prop :=
  s.main.arbiter.Nodup ∧ ∀ p, p ∈ s.main.arbiter ↔ (s.port p).state = .frameHeld

/-- The schedule is in ascending deadline order with at most one entry per reference, an entry is DUE exactly when
the count has reached its deadline, and a part that is not ACTIVE has no entry (R92, R93, R96, R101). -/
def State.scheduleOk (s : State) : Prop :=
  s.main.sched.Pairwise (fun a b => a.deadline ≤ b.deadline) ∧ (s.main.sched.map Entry.ref).Nodup ∧
    (∀ e ∈ s.main.sched, e.due = decide (e.deadline ≤ s.now)) ∧ (¬ s.isActive → s.main.sched = [])

end Sys2Proof.Machine
end

