-- ==== Sys2Proof/Certificates/Slice0/Obligations.lean ====
section
/-! DEFINITION. The statements for the provers. OBLIGATIONS.json lists them with the rules they rest on. -/

open Sys2Proof Sys2Proof.Machine

/-! ### The queue of commands and the laws of every state -/

/-- The command at the front of the queue is the one that a step takes, with the rest of the queue behind it; on an
empty queue the block idles (the model's choice: log 1). -/
def Obligations.StepTakesTheFront : Prop :=
  (∀ (c : Instr) (rest : List Instr) (s : State), s.pending = c :: rest →
    step s = exec c (s.setPending rest)) ∧
  ∀ s : State, s.pending = [] → step s = .next s

/-- Every command answers a next state, and none of them changes the queue or leaves a loss of power under way (the
block has no exception entry: its errors are effects on the state; log 1). The tick count never decreases
(R90), but at a retained POR and in the model's OFF state (log 3). THE MODEL'S CHOICE (log 1): a frame command that is
not carried by the frame at the head of the arbiter's list of a READY part changes nothing. -/
def Obligations.EveryCommandAnswersAState : Prop :=
  ∀ (i : Instr) (s : State), ∃ t, exec i s = .next t ∧ t.pending = s.pending ∧
    (s.cut = none → t.cut = none) ∧
    ((∀ x, i ≠ .retainedPor x) → i ≠ .vbatLoss → s.now ≤ t.now) ∧
    ∀ (cmd : Byte) (f : Frame), frameOf i = some (cmd, f) → ¬ s.offers i f.port → t = s

/-- Every step keeps the Retained Store and every table of the main domain in canonical form, and leaves no loss of
power under way (log 36). -/
def Obligations.CanonicalFormKept : Prop :=
  ∀ s t : State, s.between → step s = .next t → t.between

/-- Every step keeps the counts in their ranges: no notice queue above 16 notices, no lost count above 255 (R107),
no corrected count above 65535 and no uncorrectable count above 255 (R145). -/
def Obligations.CountsStayInRange : Prop :=
  ∀ s t : State, s.noticesBounded → s.countsBounded → step s = .next t →
    t.noticesBounded ∧ t.countsBounded

/-- Every step keeps the arbiter's list in agreement with the ports: it names each port whose sound frame is held,
once, and no other port (R183). -/
def Obligations.ArbiterNamesHeldFrames : Prop :=
  ∀ s t : State, s.arbiterAgrees → step s = .next t → t.arbiterAgrees

/-- Every step keeps the schedule in ascending deadline order with at most one entry per reference, each entry DUE
exactly when the count has reached its deadline (R92, R93, R96), and empty while the part is not ACTIVE: that clause is
the model's choice of what a main domain without VDD holds (log 3). -/
def Obligations.ScheduleStaysOrdered : Prop :=
  ∀ s t : State, s.scheduleOk → step s = .next t → t.scheduleOk

/-- The state after a retained POR meets the laws that every step keeps, and its records are sound. -/
def Obligations.ResetMeetsTheLaws : Prop :=
  State.reset.between ∧ State.reset.noticesBounded ∧ State.reset.countsBounded ∧
    State.reset.arbiterAgrees ∧ State.reset.scheduleOk ∧ State.reset.store.recordsSound

/-- Every step of a READY part in NORMAL mode that leaves it so keeps its records sound: the record of every IN_USE slot
that is not QUARANTINED meets the holding rules (R23), and every token held is below the token counter (R25), short
of the counter's end (log 6). -/
def Obligations.RecordsKeepTheHoldingRules : Prop :=
  ∀ (s t : State), s.between → s.isReady → ¬ s.inFault → s.sound →
    (∀ v, s.store.token.value = some v → v.toNat + 256 < 2 ^ 48) → step s = .next t → t.isReady →
    ¬ t.inFault → t.sound

/-- The two ways in which a part comes to sound records: the restart sweep over a store whose records keep the rules,
with no commit to replay, leaves it READY and, in NORMAL mode, sound (R171); and WIPE, in either store mode, leaves
it sound in NORMAL mode (R129, R130; short of the counter's end: log 6). -/
def Obligations.SweepAndWipeMakeTheRecordsSound : Prop :=
  (∀ (s : State), s.between → s.sweeps → s.store.recordsSound →
    markerValid s.store.intent.marker = false →
    ∃ t, exec .restartSweep s = .next t ∧ t.isReady ∧ (¬ t.inFault → t.sound)) ∧
  ∀ (s s1 : State) (f : Frame), s.between → s.takenTo (.wipe f) f s1 → s.store.recordsSound →
    s.main.mon.cursor < 1024 → (∀ v, s.store.token.value = some v → v.toNat + 256 < 2 ^ 48) →
    ∃ t, exec (.wipe f) s = .next t ∧ ¬ t.inFault ∧ t.sound

/-! ### Command frames (R180, R187, R188) -/

/-- Every well-formed frame command is read back from the bytes of its frame. -/
def Obligations.FrameRoundTrip : Prop :=
  ∀ (i : Instr) (cmd : Byte) (f : Frame), i.wf = true → frameOf i = some (cmd, f) →
    encodeFrame i = some (frameBytes cmd f) ∧ decodeFrame f.port (frameBytes cmd f) = some i

/-- Every sound frame is the frame of a well-formed command of its port, and is read as that command. -/
def Obligations.SoundFramesAreCommands : Prop :=
  ∀ (p : PortId) (buf : List Byte), frameSound buf buf.length = true →
    ∃ i cmd f, decodeFrame p buf = some i ∧ i.wf = true ∧ frameOf i = some (cmd, f) ∧ f.port = p ∧
      encodeFrame i = some buf

/-! ### Port transactions (R176 to R183) -/

/-- A well-formed frame written to an IDLE port is held there and joins the tail of the arbiter's list, whole and
readable as its command; the host meanwhile sees the status byte and zeros (R177, R179, R180, R183). -/
def Obligations.FrameReachesTheArbiter : Prop :=
  ∀ (s : State) (i : Instr) (cmd b : Byte) (f : Frame) (address : BitVec 7) (more : List Byte),
    i.wf = true → frameOf i = some (cmd, f) → frameBytes cmd f = b :: more →
    s.answers f.port address = true → (s.port f.port).state = .idle →
    ∃ s1 t, exec (.firstFrameByte f.port address b) s = .next s1 ∧
      exec (.frameEnd f.port more) s1 = .next t ∧
      t = (s.setPort f.port { s.port f.port with
            state := .frameHeld, cmdBuf := b :: more, received := 1 + more.length,
            lead := s.leadByte f.port, sent := zerosOn f.port 1 ++ zerosOn f.port more.length }).setArbiter
          (s.main.arbiter ++ [f.port]) ∧
      decodeFrame f.port (t.port f.port).cmdBuf = some i

/-- The first frame byte by the port's state, and the end of a frame (R179, R180). A port that does not answer is
left as it is (log 22). Further bytes are stored up to the 64th and all are counted; a sound frame is held and joins
the arbiter's list; any other gets a FRAME_ERROR response of 9 bytes that echoes byte 1 when two bytes were
received. -/
def Obligations.FrameReceptionByPortState : Prop :=
  (∀ (s : State) (p : PortId) (address : BitVec 7) (b : Byte),
    (s.answers p address = false → exec (.firstFrameByte p address b) s = .next s) ∧
    (s.answers p address = true →
      ((s.port p).state = .idle →
        exec (.firstFrameByte p address b) s = .next (s.setPort p { s.port p with
          state := .receiving, cmdBuf := [b], received := 1, lead := s.leadByte p,
          sent := zerosOn p 1 })) ∧
      ((s.port p).state = .responseReady →
        exec (.firstFrameByte p address b) s = .next (s.setPort p { s.port p with
          state := .receiving, cmdBuf := [b], received := 1, respBuf := [], readPos := 0,
          discarded := true, lead := s.leadByte p, sent := zerosOn p 1 })) ∧
      ((s.port p).state = .frameHeld ∨ (s.port p).state = .executing →
        exec (.firstFrameByte p address b) s = .next (s.setPort p { s.port p with
          collided := true, lead := s.leadByte p, sent := zerosOn p 1 })))) ∧
  ∀ (s : State) (p : PortId) (more : List Byte) (x : Port), s.isActive → s.power.resetN = true →
    (s.port p).state = .receiving →
    x = { s.port p with
      cmdBuf := ((s.port p).cmdBuf ++ more).take 64, received := (s.port p).received + more.length,
      sent := (s.port p).sent ++ zerosOn p more.length } →
    (frameSound x.cmdBuf x.received = true →
      exec (.frameEnd p more) s =
        .next ((s.setPort p { x with state := .frameHeld }).setArbiter (s.main.arbiter ++ [p]))) ∧
    (frameSound x.cmdBuf x.received = false →
      exec (.frameEnd p more) s = .next (s.setPort p { x with
        state := .responseReady, readPos := 0, frameErr := true,
        respBuf := responseBytes (if 2 ≤ x.received then byteAt x.cmdBuf 1 else 0) s.now
          (.bare .frameError) }) ∧
      (responseBytes (if 2 ≤ x.received then byteAt x.cmdBuf 1 else 0) s.now
        (.bare .frameError)).length = 9)

/-- What the hosts read (R177, R178, R181, R182): a status read sends the status byte throughout and, where it had a
leading byte, clears the three flags; a response read sends the response from byte 0 and then zeros, and
the port becomes IDLE when the last byte of the response has been sent. That every byte of one status read is the same
byte is the model's choice (log 35): R177 gives each byte the state and RESTARTING as that byte begins. That a read
which stops early leaves the number of bytes clocked in the read position is the model's choice (log 22): R181 says only
that each response read begins again at byte 0. -/
def Obligations.HostReads : Prop :=
  ∀ (s : State) (p : PortId) (address : BitVec 7) (count : Nat), s.answers p address = true →
    (∀ leading : Bool, (p = .c → leading = true) →
      exec (.statusRead p address leading count) s = .next (s.setPort p { s.port p with
        collided := false, discarded := false, frameErr := false, lead := s.leadByte p,
        sent := List.replicate count (s.statusByte p) })) ∧
    (p = .c → exec (.statusRead p address false count) s = .next (s.setPort p { s.port p with
      lead := none, sent := List.replicate count (s.statusByte p) })) ∧
    ((s.port p).state ≠ .responseReady →
      exec (.responseRead p address count) s = .next (s.setPort p { s.port p with
        lead := s.leadByte p, sent := List.replicate count 0 })) ∧
    ((s.port p).state = .responseReady → count < (s.port p).respBuf.length →
      exec (.responseRead p address count) s = .next (s.setPort p { s.port p with
        readPos := count, lead := s.leadByte p, sent := (s.port p).respBuf.take count })) ∧
    ((s.port p).state = .responseReady → (s.port p).respBuf.length ≤ count →
      exec (.responseRead p address count) s = .next (s.setPort p { s.port p with
        state := .idle, respBuf := [], readPos := 0, lead := s.leadByte p,
        sent := (s.port p).respBuf ++ List.replicate (count - (s.port p).respBuf.length) 0 }))

/-! ### The order of checks (R184) -/

/-- Steps 2 to 4 of the order of checks (R120, R144, R184): a CMD byte that is no code of R188 answers
UNKNOWN_COMMAND with that byte, whatever else the frame holds; a supervisor command on another port answers
NOT_PRIVILEGED, whatever the store mode; a command that STORE_FAULT mode does not take answers STORE_FAULT behind
that check. None of them has any other effect. -/
def Obligations.RefusedBeforeTheSession : Prop :=
  (∀ (s : State) (cmd : Byte) (f : Frame), s.offers (.unknownCommand cmd f) f.port →
    exec (.unknownCommand cmd f) s =
      .next ((s.accept f.port).respond f.port cmd (.bare .unknownCommand))) ∧
  ∀ (s : State) (i : Instr) (cmd : Byte) (f : Frame) (m : Marks), frameOf i = some (cmd, f) →
    marksOf i = some m → s.offers i f.port →
    (m.supervisor = true → s.main.supPort ≠ some f.port →
      exec i s = .next ((s.accept f.port).respond f.port cmd (.bare .notPrivileged))) ∧
    ((m.supervisor = true → s.main.supPort = some f.port) → s.inFault → m.inFault = false →
      exec i s = .next ((s.accept f.port).respond f.port cmd (.bare .storeFault)))

/-- The answers of the session step (R69, R136, R184), in the order of its steps, where no lapse is due: the frame is
refused and nothing else changes; in STORE_FAULT mode an entry among the lost control words answers STALE_SESSION
whatever it holds. A frame that passes steps 1 to 5 with another length than its arguments have answers
BAD_ARG, with index 0xFF for ACQUIRE SET; nothing changes beyond the refresh (step 6). Of the length of REATTACH,
which is judged for its session among its own checks, nothing is said here. -/
def Obligations.RefusedAtTheSessionOrForLength : Prop :=
  (∀ (s : State) (i : Instr) (cmd : Byte) (f : Frame) (m : Marks) (st : Status),
    frameOf i = some (cmd, f) → marksOf i = some m → s.offers i f.port →
    (m.supervisor = true → s.main.supPort = some f.port) → (s.inFault → m.inFault = true) →
    m.need ≠ .skip →
    ((f.client = noClient ∧ m.need = .needs ∧ st = .staleSession) ∨
     (f.client = noClient ∧ m.need = .orSupervisor ∧ s.main.supPort ≠ some f.port ∧
        st = .staleSession) ∨
     (f.client ≠ noClient ∧ Config.sessions ≤ f.client.toNat ∧ st = .staleSession) ∨
     (f.client.toNat < Config.sessions ∧ s.entryLost f.client.toNat = true ∧
        (∃ e, (sessionWord f.client.toNat).holds s e) ∧ st = .staleSession) ∨
     (f.client.toNat < Config.sessions ∧ s.entryLost f.client.toNat = false ∧
        ∃ e, (sessionWord f.client.toNat).holds s e ∧ s.lapseDue f.client.toNat e = false ∧
        ((e.state = .free ∧ st = .staleSession) ∨
         (e.state ≠ .free ∧ e.nonce ≠ f.nonce ∧ st = .staleSession) ∨
         (e.state ≠ .free ∧ e.nonce = f.nonce ∧ e.port ≠ some f.port ∧ st = .wrongPort) ∨
         (e.state ≠ .free ∧ e.nonce = f.nonce ∧ e.port = some f.port ∧ e.state ≠ .opened ∧
            st = .staleSession)))) →
    exec i s = .next ((s.accept f.port).respond f.port cmd (.bare st))) ∧
  ∀ (s s1 : State) (i : Instr) (cmd : Byte) (f : Frame) (m : Marks), frameOf i = some (cmd, f) →
    marksOf i = some m → (∀ g, i ≠ .reattach g) → s.offers i f.port →
    (m.supervisor = true → s.main.supPort = some f.port) → (s.inFault → m.inFault = true) →
    (s.accept f.port).checkedTo m.need f s1 → f.args.length ≠ m.args →
    exec i s = .next (s1.respond f.port cmd
      { status := .badArg, payload := if i = .acquireSet f then [0xFF] else [] })

/-! ### INFO, TIME and sessions (chapter 4) -/

/-- INFO answers the part code, the capacities, the supervisor port as sampled and the store mode, in every store
mode and on any port, with a session, which it refreshes, or without one, and changes nothing else (R185). TIME
answers the tick count and the divider phase in the same way (R91). PING needs a session; passing the check sets the
heartbeat deadline to now + heartbeat term and moves the HEARTBEAT entry there, and PING answers the new deadline
and does nothing more (R70). -/
def Obligations.InfoTimeAndPingAnswer : Prop :=
  (∀ (s s1 : State) (f : Frame), s.takenTo (.info f) f s1 →
    exec (.info f) s = .next (s1.respond f.port 0x01 (.ok
      [0x41, 0x20, 0x04, 0x00, 16, 128, 8, 4, 16, 4, portCode s.main.supPort,
       if s.inFault then 1 else 0]))) ∧
  (∀ (s s1 : State) (f : Frame), s.takenTo (.time f) f s1 →
    exec (.time f) s = .next (s1.respond f.port 0x02 (.ok
      (tickBytes s.tb.tick ++ [s.tb.phase.setWidth 8])))) ∧
  ∀ (s : State) (f : Frame) (e : SessEntry) (d : Tick), s.offers (.ping f) f.port → ¬ s.inFault →
    (s.accept f.port).passes f e → f.args = [] → d = tickPlus s.now e.hbTerm.toNat →
    exec (.ping f) s = .next
      ((((s.accept f.port).setVol f.client.toNat { s.vol f.client.toNat with deadline := some d }).setSched
        (Machine.schedMove s.now .heartbeat (.session f.client.toNat) d s.main.sched)).respond
        f.port 0x12 (.ok (tickBytes d)))

/-- OPEN takes the lowest FREE session entry, binds it to the frame's port with the nonce counter's value, and
commits it and the advanced counter; the heartbeat runs from now, the queue is empty, and the response
carries the client id, the nonce and the deadline (R67, R68). -/
def Obligations.OpenBeginsASession : Prop :=
  ∀ (s s1 : State) (f : Frame) (c : Nat) (pol : Policy) (attn : Bool) (nonce : Nonce) (d : Tick),
    s.between → s.offers (.openSession f) f.port → ¬ s.inFault → f.client = noClient →
    s1 = s.accept f.port → f.args.length = 5 →
    64 ≤ (termAt f.args 0).toNat → (termAt f.args 0).toNat ≤ 1048576 →
    policyOf (byteAt f.args 3) = some pol → onOffOf (byteAt f.args 4) = some attn →
    c < 16 → (∀ b, b < c → ∃ e, (sessionWord b).holds s e ∧ e.state ≠ .free) →
    (∃ e, (sessionWord c).holds s e ∧ e.state = .free) → nonceWord.holds s nonce →
    d = tickPlus s.now (termAt f.args 0).toNat →
    ∃ t, exec (.openSession f) s = .next t ∧
      s1.becomes
        (s.store.putCommit
          { session := some (c,
              { state := .opened, action := .none, port := some f.port, nonce := nonce,
                hbTerm := termAt f.args 0, policy := pol, attention := attn, waitsHeld := false,
                waitsLost := false }),
            nonce := some (if nonce = 0xFFFF then 1 else nonce + 1) })
        (fun x => ((((x.setVol c { s.vol c with waitCount := 0, restarted := false,
                                                deadline := some d }).setNoticesOf c
            NoticeQueue.empty).schedInsert .heartbeat (.session c) d).driveLines).respond f.port 0x10
          (.ok (BitVec.ofNat 8 c :: (beBytes 2 nonce.toNat ++ tickBytes d)))) t

/-- CLOSE of the caller's session, and DISMISS of a session in any state but FREE, where it holds no grant and no
waiter: the entry is FREE, its deadline, counts and queue are gone, and the attention lines follow (R75, R78, R84).
DISMISS takes the target whatever its nonce and its port. -/
def Obligations.CloseAndDismissFreeTheSession : Prop :=
  ∀ (s s1 : State) (f : Frame) (c : Nat) (e : SessEntry) (i : Instr) (cmd : Byte), s.between →
    s.takenTo i f s1 → c < 16 → (sessionWord c).holds s1 e → s1.settleSlots c = [] →
    ((i = .close f ∧ cmd = 0x11 ∧ c = f.client.toNat) ∨
     (i = .dismiss f ∧ cmd = 0x85 ∧ c = (byteAt f.args 0).toNat ∧ e.state ≠ .free)) →
    ∃ t, exec i s = .next t ∧
      s1.becomes (s1.store.putCommit { session := some (c, SessEntry.free) })
        (fun x => ((((x.setVol c { s1.vol c with deadline := none, waitCount := 0,
                                                 restarted := false }).setNoticesOf c
            NoticeQueue.empty).schedRemove (.session c)).driveLines).respond f.port cmd (.bare .ok)) t

/-- REATTACH of a SUSPECT session, and of a LAPSED session with no record to revive: the session is OPEN on the frame's
port with a nonce that differs from the one it had, and the counter is advanced; its heartbeat runs from now, and the
response reports the marks as they were (R67, R81, R82, R83). Of a session with one record to revive, in which it
holds a grant and has no waiter: a LAPSED session's ORPHANED grant becomes LIVE from now and is scheduled anew (R82);
a session whose lapse is due under HOLD is reattached in one settle, its LIVE grant running on from now with its
entry moved (R80); REVIVED is 1. -/
def Obligations.ReattachOpensTheSession : Prop :=
  (∀ (s s1 : State) (f : Frame) (c : Nat) (e : SessEntry) (counter nonce : Nonce) (d : Tick),
    s.between → s.offers (.reattach f) f.port → ¬ s.inFault → s1 = s.accept f.port → f.args = [] →
    c = f.client.toNat → c < 16 → (sessionWord c).holds s e → e.nonce = f.nonce →
    (e.state = .suspect ∨ (e.state = .lapsed ∧ s.settleSlots c = [])) → s.lapseDue c e = false →
    nonceWord.holds s counter →
    nonce = (if counter = e.nonce then nonceNext counter else counter) →
    d = tickPlus s.now e.hbTerm.toNat →
    ∃ t, exec (.reattach f) s = .next t ∧
      s1.becomes
        (s.store.putCommit
          { session := some (c, { e with
              state := .opened, action := .none, port := some f.port, nonce := nonce,
              waitsLost := false, waitsHeld := e.waitsHeld && e.state == .suspect }),
            nonce := some (nonceNext nonce) })
        (fun x => (((x.setVol c { s.vol c with restarted := false, deadline := some d }).schedInsert
            .heartbeat (.session c) d).driveLines).respond f.port 0x13
          (.ok (beBytes 2 nonce.toNat ++
            [0, (if e.waitsLost then 1 else 0) ||| (if (s.vol c).restarted then 2 else 0)] ++
            tickBytes d))) t) ∧
  ∀ (s s1 : State) (f : Frame) (k : Key) (n c : Nat) (e : SessEntry) (counter nonce : Nonce) (d : Tick)
    (r r' : Rec) (g g' : Grant), s.between → s.offers (.reattach f) f.port → ¬ s.inFault →
    s1 = s.accept f.port → f.args = [] → c = f.client.toNat → c < 16 → (sessionWord c).holds s e →
    e.nonce = f.nonce → s.settleSlots c = [n] → s1.atRest k n → r = s.recordOf n →
    r.grantOf c = some g → (r.grants.map Grant.token).Nodup → (∀ p ∈ s.waitersOf n, p.2.client ≠ c) →
    e.waitsHeld = false → nonceWord.holds s counter →
    nonce = (if counter = e.nonce then nonceNext counter else counter) →
    d = tickPlus s.now e.hbTerm.toNat →
    g' = { g with gstate := .live, expiry := tickPlus s.now g.term.toNat } →
    r' = (r.changed g.token fun _ => g') →
    ((e.state = .lapsed ∧ g.gstate = .orphaned) ∨
     ((e.state = .opened ∨ e.state = .suspect) ∧ e.policy = .hold ∧ s.lapseDue c e = true ∧
        g.gstate = .live)) →
    ∃ t, exec (.reattach f) s = .next t ∧
      s1.becomes
        (s.store.putCommit
          { images := [.slot n true r'.image],
            session := some (c, { e with
              state := .opened, action := .none, port := some f.port, nonce := nonce,
              waitsLost := false }),
            nonce := some (nonceNext nonce) })
        (fun x => ((((if e.state = .lapsed
              then (x.recordKept n r').schedInsert .grantExpiry (.grant n g.token) g'.expiry
              else (x.recordKept n r').schedMove .grantExpiry (.grant n g.token) g'.expiry).setVol c
                { s.vol c with restarted := false, deadline := some d }).schedInsert
            .heartbeat (.session c) d).driveLines).respond f.port 0x13
          (.ok (beBytes 2 nonce.toNat ++
            [1, (if e.waitsLost then 1 else 0) ||| (if (s.vol c).restarted then 2 else 0)] ++
            tickBytes d))) t

/-- SESSION STATUS of a FREE session answers zeros; of a session with no lapse due and no grant it answers the
state, the port, the policy, the heartbeat term and the counts; it changes nothing (R79). A target above 15 answers
BAD_ARG. -/
def Obligations.SessionStatusReports : Prop :=
  ∀ (s s1 : State) (f : Frame) (c : Nat) (e : SessEntry), s.takenTo (.sessionStatus f) f s1 →
    c = (byteAt f.args 0).toNat →
    (16 ≤ c → exec (.sessionStatus f) s = .next (s1.respond f.port 0x14 (.bare .badArg))) ∧
    (c < 16 → (sessionWord c).holds s1 e → s1.lapseDue c e = false → s1.grantSlots c = [] →
      (e.state = .free → exec (.sessionStatus f) s =
        .next (s1.respond f.port 0x14 (.ok [0, 0, 0, 0, 0, 0, 0, 0, 0, 0]))) ∧
      (e.state ≠ .free → exec (.sessionStatus f) s =
        .next (s1.respond f.port 0x14 (.ok
          ([e.state.code, portCode e.port, e.policy.code] ++ termBytes e.hbTerm ++
            [0, BitVec.ofNat 8 (s1.vol c).waitCount, BitVec.ofNat 8 (s1.noticesOf c).queue.length,
             BitVec.ofNat 8 (s1.noticesOf c).lost])))))

/-! ### The directory (chapter 1) -/

/-- CREATE commits a VACANT, PINNED record of generation 0 into the lowest FREE slot, in the zone that the map gives the
key; the key enters the index and the slot leaves the set of FREE slots (R4, R10, R11). -/
def Obligations.CreateCommitsARecord : Prop :=
  ∀ (s s1 : State) (f : Frame) (map : ZoneMap) (n : Nat) (k : Key) (r : Rec), s.between →
    s.takenTo (.create f) f s1 → zoneWord.holds s1 map → k = keyAt f.args 0 → ¬ reservedKey k →
    ((map.attr (map.classify k)).supOnly = false ∨ s.main.supPort = some f.port) →
    s1.lookup k = none → n < 1024 → s1.isFree n = true → (∀ m, m < n → s1.isFree m = false) →
    (s1.store.slot n).ecc.head? = some .good → s1.queueOf n = [] →
    r = { key := k, zone := map.classify k, state := .vacant, persist := .pinned,
          share := (byteAt f.args 4).toNat, defTerm := termAt f.args 5, maxTerm := termAt f.args 8,
          gen := 0, grants := [] } →
    1 ≤ r.share → r.share ≤ 4 → r.maxTerm ≠ 0 → r.defTerm ≠ 0 → r.defTerm ≤ r.maxTerm →
    ∃ t, exec (.create f) s = .next t ∧
      s1.becomes (s1.store.putCommit { images := [.slot n true r.image] })
        (fun x => (x.recordKept n r).respond f.port 0x20 (.ok (r.summary 0))) t

/-- RETIRE of a VACANT record with an empty queue commits word 0 of its slot FREE; the key leaves the index and the slot
joins the set of FREE slots (R12). A held record, or one with a waiter, answers BUSY and is unchanged. -/
def Obligations.RetireFreesTheSlot : Prop :=
  ∀ (s s1 : State) (f : Frame) (map : ZoneMap) (n : Nat) (k : Key), s.between →
    s.takenTo (.retire f) f s1 → zoneWord.holds s1 map → k = keyAt f.args 0 → ¬ reservedKey k →
    ((map.attr (map.classify k)).supOnly = false ∨ s.main.supPort = some f.port) →
    s1.atRest k n → (s1.recordOf n).key = k →
    ((s1.recordOf n).state = .vacant → s1.queueOf n = [] →
      ∃ t, exec (.retire f) s = .next t ∧
        s1.becomes (s1.store.putCommit
            { images := [.slot n false { (s1.recordOf n).image with ident := IdWord.free }] })
          (fun x => (x.recordGone n k).respond f.port 0x21 (.bare .ok)) t) ∧
    ((s1.recordOf n).state ≠ .vacant ∨ s1.queueOf n ≠ [] →
      exec (.retire f) s = .next (s1.respond f.port 0x21 (.bare .busy)))

/-- LOOKUP (R16, R19): a reserved key answers BAD_KEY, a key not in the index NOT_FOUND, a QUARANTINED record its
quarantined image with the zone that the map gives its key (that zone is the model's choice: log 13), and a record its summary image with its
number of waiters: at rest as the touch leaves it, in STORE_FAULT mode as it stands, due grants
included. Nothing is changed. -/
def Obligations.LookupReports : Prop :=
  ∀ (s s1 : State) (f : Frame) (k : Key), s.takenTo (.lookup f) f s1 → k = keyAt f.args 0 →
    (reservedKey k → exec (.lookup f) s = .next (s1.respond f.port 0x22 (.bare .badKey))) ∧
    (¬ reservedKey k →
      (s1.lookup k = none → exec (.lookup f) s = .next (s1.respond f.port 0x22 (.bare .notFound))) ∧
      (∀ e map, s1.lookup k = some e → e.quarantined = true → zoneWord.holds s1 map →
        exec (.lookup f) s = .next (s1.respond f.port 0x22
          { status := .quarantined,
            payload := keyBytes k ++ [3, (map.classify k).setWidth 8] ++ List.replicate 14 0 })) ∧
      (∀ n, ¬ s1.inFault → s1.atRest k n →
        exec (.lookup f) s = .next (s1.respond f.port 0x22
          (.ok ((s1.recordOf n).summary (s1.queueOf n).length)))) ∧
      (∀ e, s1.inFault → s1.lookup k = some e → e.quarantined = false →
        (s1.store.slot e.slot).ecc = tenGood →
        exec (.lookup f) s = .next (s1.respond f.port 0x22
          (.ok ((s1.recordOf e.slot).summary (s1.queueOf e.slot).length)))))

/-- ENUMERATE lists, in ascending key order from the start key, up to the count asked for of the records in the index,
each at rest or QUARANTINED, then the next key, or 0 at the end of the index, and the number listed; it
changes nothing (R17, R18). -/
def Obligations.EnumerateListsAPage : Prop :=
  ∀ (s s1 : State) (f : Frame) (n : Nat) (es : List (Nat × IndexEntry)),
    s.takenTo (.enumerate f) f s1 → ¬ s.inFault → keyAt f.args 0 ≠ 0xFFFFFFFF →
    n = (byteAt f.args 4).toNat → 1 ≤ n → n ≤ 8 →
    es = s1.main.index.filter (fun e => (keyAt f.args 0).toNat ≤ e.1) →
    (∀ e ∈ es, e.2.quarantined = true ∨ s1.atRest (BitVec.ofNat 32 e.1) e.2.slot) →
    exec (.enumerate f) s = .next (s1.respond f.port 0x23 (.ok
      (((es.take n).flatMap fun e =>
          if e.2.quarantined then keyBytes (BitVec.ofNat 32 e.1) ++ [3, 0, 0, 0, 0, 0, 0]
          else (s1.recordOf e.2.slot).entry (s1.queueOf e.2.slot).length) ++
        keyBytes (((es.drop n).head?.map fun e => BitVec.ofNat 32 e.1).getD 0) ++
        [BitVec.ofNat 8 (es.take n).length])))

/-! ### Grants (chapter 2) -/

/-- ACQUIRE checks its arguments behind the session check: a reserved key answers BAD_KEY, a mode byte that is neither
EXCLUSIVE nor SHARED answers BAD_ARG, whatever the term and wait fields carry; nothing else is changed
(R27). -/
def Obligations.AcquireRefusesBadArguments : Prop :=
  ∀ (s s1 : State) (f : Frame), s.takenTo (.acquire f) f s1 →
    (keyAt f.args 0 = 0x00000000 ∨ keyAt f.args 0 = 0xFFFFFFFF →
      exec (.acquire f) s = .next (s1.respond f.port 0x30 (.bare .badKey))) ∧
    (keyAt f.args 0 ≠ 0x00000000 ∧ keyAt f.args 0 ≠ 0xFFFFFFFF → byteAt f.args 4 ≠ 0 →
      byteAt f.args 4 ≠ 1 →
      exec (.acquire f) s = .next (s1.respond f.port 0x30 (.bare .badArg)))

/-- ACQUIRE of a record that admits the request and has an empty queue issues the grant: it takes the counter's
token and joins the end of the grant list; the record and the advanced counter are committed, the generation
advances by one, and a GRANT_EXPIRY entry is inserted (R25, R30, R43). -/
def Obligations.AcquireGrantsAtOnce : Prop :=
  ∀ (s s1 : State) (f : Frame) (k : Key) (n : Nat) (m : Mode) (r : Rec) (tok : Token) (term : Term)
    (g : Grant), s.between → s.takenTo (.acquire f) f s1 → k = keyAt f.args 0 → ¬ reservedKey k →
    modeOf (byteAt f.args 4) = some m → s1.atRest k n → r = s1.recordOf n → r.holding →
    r.grantOf f.client.toNat = none → r.admissible f.client.toNat m → s1.queueOf n = [] →
    term = r.termFor (termAt f.args 5) → term ≤ r.maxTerm → tokenWord.holds s1 tok →
    g = Grant.fresh s.now f.client.toNat m term tok →
    ∃ t, exec (.acquire f) s = .next t ∧
      s1.becomes (s1.store.putCommit
          { images := [.slot n true (r.granted g).image], token := some (tokenNext tok) })
        (fun x => ((x.recordKept n (r.granted g)).schedInsert .grantExpiry (.grant n tok)
            g.expiry).respond f.port 0x30
          (.ok (tokenBytes tok ++ tickBytes g.expiry ++ termBytes term))) t

/-- ACQUIRE of an absent key in a zone with auto-create: a TRANSIENT record by the zone's auto policy goes into the
lowest FREE slot with its first grant already in it, with generation 0, and the advanced counter is committed (R13,
R14, R30). -/
def Obligations.AcquireMakesTheRecord : Prop :=
  ∀ (s s1 : State) (f : Frame) (k : Key) (n : Nat) (m : Mode) (map : ZoneMap) (a : ZoneAttr) (r : Rec)
    (tok : Token) (term : Term) (g : Grant), s.between → s.takenTo (.acquire f) f s1 →
    k = keyAt f.args 0 → ¬ reservedKey k → modeOf (byteAt f.args 4) = some m → s1.lookup k = none →
    zoneWord.holds s1 map → a = map.attr (map.classify k) → a.autoCreate = true →
    n < 1024 → s1.isFree n = true → (∀ j, j < n → s1.isFree j = false) →
    (s1.store.slot n).ecc.head? = some .good → s1.queueOf n = [] →
    r = { key := k, zone := map.classify k, state := .vacant, persist := .transient, share := a.share,
          defTerm := a.defTerm, maxTerm := a.maxTerm, gen := 0, grants := [] } →
    term = r.termFor (termAt f.args 5) → term ≤ r.maxTerm → tokenWord.holds s1 tok →
    g = Grant.fresh s.now f.client.toNat m term tok →
    ∃ t, exec (.acquire f) s = .next t ∧
      s1.becomes (s1.store.putCommit
          { images := [.slot n true { r.granted g with gen := 0 }.image],
            token := some (tokenNext tok) })
        (fun x => ((x.recordKept n (r.granted g)).schedInsert .grantExpiry (.grant n tok)
            g.expiry).respond f.port 0x30
          (.ok (tokenBytes tok ++ tickBytes g.expiry ++ termBytes term))) t

/-- ACQUIRE of a record that is held or has waiters answers BUSY with wait 0; with a wait, where the zone allows it
and the pool and the session have room, it takes the lowest FREE pool entry, joins the tail of the queue and is
scheduled; the session's first waiter sets its waits-held mark in a commit of the session entry, and no record is
committed (R31, R45, R47, R48). -/
def Obligations.AcquireWaitsOrAnswersBusy : Prop :=
  ∀ (s s1 : State) (f : Frame) (k : Key) (n c : Nat) (m : Mode) (r : Rec) (term : Term), s.between →
    s.takenTo (.acquire f) f s1 → k = keyAt f.args 0 → ¬ reservedKey k → c = f.client.toNat →
    modeOf (byteAt f.args 4) = some m → s1.atRest k n → r = s1.recordOf n →
    r.grantOf c = none → (∀ p ∈ s1.waitersOf n, p.2.client ≠ c) →
    (¬ r.admissible c m ∨ s1.queueOf n ≠ []) → term = r.termFor (termAt f.args 5) →
    term ≤ r.maxTerm →
    (termAt f.args 8 = 0 → exec (.acquire f) s = .next (s1.respond f.port 0x30 (.bare .busy))) ∧
    (∀ (map : ZoneMap) (e : SessEntry) (id : Nat) (w : Waiter) (F : State → State), termAt f.args 8 ≠ 0 →
      zoneWord.holds s1 map → (map.attr r.zone).waits = true → id < 128 → s1.waiter id = none →
      (∀ j, j < id → s1.waiter j ≠ none) → (s1.vol c).waitCount < 8 →
      (sessionWord c).holds s1 e →
      w = { client := c, slot := n, mode := m, term := term,
            deadline := tickPlus s.now (termAt f.args 8).toNat } →
      F = (fun x => ((((x.setPool (Tab.put s1.main.pool id w)).setQueueOf n
            (s1.queueOf n ++ [id])).setVol c
            { s1.vol c with waitCount := (s1.vol c).waitCount + 1 }).schedInsert .waitDeadline
            (.waiter id) w.deadline).respond f.port 0x30
          { status := .queued, payload := BitVec.ofNat 8 id :: tickBytes w.deadline }) →
      ((s1.vol c).waitCount ≠ 0 → exec (.acquire f) s = .next (F s1)) ∧
      ((s1.vol c).waitCount = 0 → ∃ t, exec (.acquire f) s = .next t ∧
        s1.becomes (s1.store.putCommit { session := some (c, { e with waitsHeld := true }) }) F t))

/-- ACQUIRE SET of 1 to 4 records, each at rest, admitting its request and with an empty queue: every record takes its
grant, the tokens are consecutive in listed order (short of the counter's end: log 6), and all the records and
the advanced counter are committed (R32, R33, R34). A refused ACQUIRE SET answers the failure index and grants no key:
nothing changes beyond the refresh of the session check, the token counter included. By R32 a count of 0 or above 4 answers BAD_ARG with 0xFF, and the
first key that is reserved, or has another mode value or an earlier key, answers BAD_KEY or BAD_ARG with its index. By
R33 the first key that fails a check answers that check's status with its index, behind keys that pass, their records at
rest or to be prepared by auto-create in FREE slots whose word 0 is sound, and a prepared record is not kept (R14, R186). -/
def Obligations.AcquireSetGrantsAllOrNone : Prop :=
  (∀ (s s1 : State) (f : Frame) (l : List SetKey) (tok : Token) (grant : SetKey × Nat → Grant)
    (after : SetKey × Nat → Rec), s.between → s.takenTo (.acquireSet f) f s1 →
    1 ≤ l.length → l.length ≤ 4 → (byteAt f.args 0).toNat = l.length →
    (∀ p ∈ l.zipIdx, keyAt f.args (4 + 5 * p.2) = p.1.key ∧
      modeOf (byteAt f.args (8 + 5 * p.2)) = some p.1.mode) →
    (l.map SetKey.key).Nodup →
    (∀ x ∈ l, ¬ reservedKey x.key ∧ s1.atRest x.key x.slot ∧ (s1.recordOf x.slot).holding ∧
      (s1.recordOf x.slot).grantOf f.client.toNat = none ∧
      (s1.recordOf x.slot).admissible f.client.toNat x.mode ∧ s1.queueOf x.slot = [] ∧
      (s1.recordOf x.slot).termFor (termAt f.args 1) ≤ (s1.recordOf x.slot).maxTerm) →
    tokenWord.holds s1 tok → tok.toNat + 4 < 2 ^ 48 →
    (∀ p, grant p = Grant.fresh s.now f.client.toNat p.1.mode
      ((s1.recordOf p.1.slot).termFor (termAt f.args 1)) (tok + BitVec.ofNat 48 p.2)) →
    (∀ p, after p = (s1.recordOf p.1.slot).granted (grant p)) →
    ∃ t, exec (.acquireSet f) s = .next t ∧
      s1.becomes (s1.store.putCommit
          { images := l.zipIdx.map fun p => .slot p.1.slot true (after p).image,
            token := some (tok + BitVec.ofNat 48 l.length) })
        (fun x => (l.zipIdx.foldl (fun x p => x.schedInsert .grantExpiry
              (.grant p.1.slot (grant p).token) (grant p).expiry)
            (l.zipIdx.foldl (fun x p => x.recordKept p.1.slot (after p)) x)).respond f.port 0x31
          (.ok (l.zipIdx.flatMap fun p =>
            tokenBytes (grant p).token ++ tickBytes (grant p).expiry))) t) ∧
  (∀ (s s1 : State) (f : Frame) (n : Nat) (key : Nat → Key) (mode : Nat → Byte),
    s.takenTo (.acquireSet f) f s1 → n = (byteAt f.args 0).toNat →
    (∀ i, key i = keyAt f.args (4 + 5 * i)) → (∀ i, mode i = byteAt f.args (8 + 5 * i)) →
    (n = 0 ∨ 4 < n → exec (.acquireSet f) s =
      .next (s1.respond f.port 0x31 { status := .badArg, payload := [0xFF] })) ∧
    (1 ≤ n → n ≤ 4 → ∀ i, i < n →
      (∀ j, j < i → ¬ reservedKey (key j) ∧ (mode j = 0 ∨ mode j = 1) ∧ ∀ h, h < j → key h ≠ key j) →
      (reservedKey (key i) → exec (.acquireSet f) s =
        .next (s1.respond f.port 0x31 { status := .badKey, payload := [BitVec.ofNat 8 i] })) ∧
      (¬ reservedKey (key i) → ((mode i ≠ 0 ∧ mode i ≠ 1) ∨ ∃ h, h < i ∧ key h = key i) →
        exec (.acquireSet f) s =
          .next (s1.respond f.port 0x31 { status := .badArg, payload := [BitVec.ofNat 8 i] })))) ∧
  ∀ (s s1 : State) (f : Frame) (before after : List SetKey) (x : SetKey) (map : ZoneMap) (st : Status),
    s.between → s.takenTo (.acquireSet f) f s1 → ListsKeys f (before ++ x :: after) → zoneWord.holds s1 map →
    (∀ n ∈ s1.freeSlots, (s1.store.slot n).ecc.head? = some .good) →
    (∀ y ∈ before, s1.setKeyPasses f map y) → (s1.absent before).length ≤ s1.freeSlots.length →
    s1.setKeyFails f map ((s1.absent before).length < s1.freeSlots.length) x st →
    exec (.acquireSet f) s = .next (s1.respond f.port 0x31
      { status := st, payload := [BitVec.ofNat 8 before.length] })

/-- RENEW on the caller's LIVE grant sets its term and its expiry from now, keeps its token, mode and place, and
moves its entry, with a commit of the record; a resolved term above the record's max term answers BAD_ARG and
changes nothing (R35, R36). DOWNGRADE of the caller's EXCLUSIVE grant makes it SHARED with the same token, expiry,
term and schedule entry, where the head of the queue is not admissible beside it; of a SHARED grant
it answers BAD_ARG and changes nothing (R35, R38). -/
def Obligations.RenewAndDowngradeChangeTheGrant : Prop :=
  (∀ (s s1 : State) (f : Frame) (k : Key) (n : Nat) (r : Rec) (tok : Token) (g : Grant) (term : Term)
    (e : Tick), s.between → s.takenTo (.renew f) f s1 → k = keyAt f.args 0 → ¬ reservedKey k →
    tok = tokenAt f.args 4 → tok ≠ 0 → s1.atRest k n → r = s1.recordOf n →
    r.liveGrant f.client.toNat tok = some g → term = r.termFor (termAt f.args 10) →
    e = tickPlus s.now term.toNat →
    (r.maxTerm < term → exec (.renew f) s = .next (s1.respond f.port 0x32 (.bare .badArg))) ∧
    (term ≤ r.maxTerm → ∃ t, exec (.renew f) s = .next t ∧
      s1.becomes (s1.store.putCommit { images := [.slot n true
            (r.changed tok fun x => { x with term := term, expiry := e }).image] })
        (fun x => ((x.recordKept n (r.changed tok fun x => { x with term := term, expiry := e })).schedMove
            .grantExpiry (.grant n tok) e).respond f.port 0x32
          (.ok (tokenBytes tok ++ tickBytes e ++ termBytes term))) t)) ∧
  ∀ (s s1 : State) (f : Frame) (k : Key) (n : Nat) (r r' : Rec) (tok : Token) (g : Grant), s.between →
    s.takenTo (.downgrade f) f s1 → k = keyAt f.args 0 → ¬ reservedKey k → tok = tokenAt f.args 4 →
    tok ≠ 0 → s1.atRest k n → r = s1.recordOf n → r.liveGrant f.client.toNat tok = some g →
    r' = (r.changed tok fun x => { x with mode := .shared }) → r'.noHandoff (s1.waitersOf n) →
    (g.mode = .shared → exec (.downgrade f) s = .next (s1.respond f.port 0x34 (.bare .badArg))) ∧
    (g.mode = .exclusive → ∃ t, exec (.downgrade f) s = .next t ∧
      s1.becomes (s1.store.putCommit { images := [.slot n true r'.image] })
        (fun x => (x.recordKept n r').respond f.port 0x34
          (.ok (tokenBytes tok ++ tickBytes g.expiry ++ termBytes g.term))) t)

/-- RELEASE of the caller's grant, where no waiter can be granted: the grant leaves the list and its entry the
schedule, the record kept with its generation advanced; a TRANSIENT record left VACANT with an empty
queue is retired (R15, R35, R37). -/
def Obligations.ReleaseRemovesTheGrant : Prop :=
  ∀ (s s1 : State) (f : Frame) (k : Key) (n : Nat) (r r' : Rec) (tok : Token) (g : Grant), s.between →
    s.takenTo (.release f) f s1 → k = keyAt f.args 0 → ¬ reservedKey k → tok = tokenAt f.args 4 →
    tok ≠ 0 → s1.atRest k n → r = s1.recordOf n → r.liveGrant f.client.toNat tok = some g →
    r' = r.without tok → r'.noHandoff (s1.waitersOf n) →
    ∃ t, exec (.release f) s = .next t ∧
      (¬ r'.retires (s1.queueOf n) →
        s1.becomes (s1.store.putCommit { images := [.slot n true r'.image] })
          (fun x => ((x.recordKept n r').schedRemove (.grant n tok)).respond f.port 0x33 (.bare .ok)) t) ∧
      (r'.retires (s1.queueOf n) →
        s1.becomes (s1.store.putCommit
            { images := [.slot n false { r'.image with ident := IdWord.free }] })
          (fun x => ((x.recordGone n r.key).schedRemove (.grant n tok)).respond f.port 0x33
            (.bare .ok)) t)

/-- RELEASE of a record's only grant hands the record to an EXCLUSIVE waiter at the head: it is granted with the
counter's token from now, leaves the queue and the pool, and is told by a GRANTED notice; the record, the counter and
the session entry are committed, and the waits-held mark of a session whose last waiter it was is cleared (R37, R47, R51,
R52, R53). -/
def Obligations.ReleaseHandsOff : Prop :=
  ∀ (s s1 : State) (f : Frame) (k : Key) (n : Nat) (r r' : Rec) (tok new : Token) (g g' : Grant)
    (id : Nat) (w : Waiter) (q : List (Nat × Waiter)) (e : SessEntry), s.between →
    s.takenTo (.release f) f s1 → k = keyAt f.args 0 → ¬ reservedKey k → tok = tokenAt f.args 4 →
    tok ≠ 0 → s1.atRest k n → r = s1.recordOf n → r.liveGrant f.client.toNat tok = some g →
    r.grants = [g] → s1.waitersOf n = (id, w) :: q → w.mode = .exclusive →
    tokenWord.holds s1 new → (sessionWord w.client).holds s1 e → e.state = .opened →
    g' = Grant.fresh s.now w.client .exclusive w.term new →
    r' = { r with grants := [g'], state := .heldExclusive, gen := r.gen + 1 } →
    ∃ t, exec (.release f) s = .next t ∧
      s1.becomes (s1.store.putCommit
          { images := [.slot n true r'.image], token := some (tokenNext new),
            session := if (s1.vol w.client).waitCount ≤ 1 ∧ e.waitsHeld = true then
                some (w.client, { e with waitsHeld := false }) else none })
        (fun x => ((((((x.setQueueOf n (q.map Prod.fst)).recordKept n r').schedRemove
              (.grant n tok)).freeWaiter id w.client).schedRemove (.waiter id)).schedInsert .grantExpiry
              (.grant n new) g'.expiry |>.offer w.client
                { kind := .granted, key := r.key, token := new, waiter := none, cause := .none,
                  tick := s.now }).respond f.port 0x33 (.bare .ok)) t

/-! ### Waiters (chapter 3) -/

/-- Two ways in which a waiter leaves a held record on which the head left behind is not admissible. CANCEL WAIT of
the caller's own waiter: it leaves the queue, the pool and the schedule without notice and without a record commit
(R57, R58). A WAIT_DEADLINE event that names the one waiter due on its record: it leaves them with a
WAIT_EXPIRED notice to its session, and no record is committed (R54, R55); an event whose pool entry is FREE or
carries another deadline leaves the schedule and does nothing else. The waits-held mark is cleared when it was
the session's last waiter (R47). -/
def Obligations.CancelledAndTimedOutWaitersLeave : Prop :=
  (∀ (s s1 : State) (f : Frame) (k : Key) (n c id : Nat) (r : Rec) (w : Waiter) (e : SessEntry)
    (F : State → State), s.between → s.takenTo (.cancelWait f) f s1 → k = keyAt f.args 1 →
    ¬ reservedKey k → id = (byteAt f.args 0).toNat → id < 128 → c = f.client.toNat → s1.atRest k n →
    r = s1.recordOf n → r.state ≠ .vacant → (id, w) ∈ s1.waitersOf n → w.client = c →
    r.noHandoff ((s1.waitersOf n).filter fun p => p.1 != id) → (sessionWord c).holds s1 e →
    e.state = .opened →
    F = (fun x => (((x.setQueueOf n ((s1.queueOf n).filter fun j => j != id)).freeWaiter id c).schedRemove
        (.waiter id)).respond f.port 0x38 (.bare .ok)) →
    ((s1.vol c).waitCount ≤ 1 ∧ e.waitsHeld = true → ∃ t, exec (.cancelWait f) s = .next t ∧
      s1.becomes (s1.store.putCommit { session := some (c, { e with waitsHeld := false }) }) F t) ∧
    (¬ ((s1.vol c).waitCount ≤ 1 ∧ e.waitsHeld = true) → exec (.cancelWait f) s = .next (F s1))) ∧
  ∀ (s s0 : State) (id : Nat) (d : Tick) (due : Bool), s.between → s.nextDirectoryEvent =
      some { kind := .waitDeadline, ref := .waiter id, deadline := d, due := due } →
    s0 = s.schedRemove (.waiter id) →
    ((s.waiter id = none ∨ ∃ w, s.waiter id = some w ∧ w.deadline ≠ d) →
      exec (.waitDeadlineEvent id d) s = .next s0) ∧
    ∀ (w : Waiter) (r : Rec) (e : SessEntry) (F : State → State), s.waiter id = some w → w.deadline = d →
      (s.store.slot w.slot).ecc = tenGood → (s.waitersOf w.slot).map Prod.fst = s.queueOf w.slot →
      r = s.recordOf w.slot → r.state ≠ .vacant → r.grants.filter (Grant.due s.now) = [] →
      (s.waitersOf w.slot).filter (fun p => p.2.due s.now) = [(id, w)] →
      r.noHandoff ((s.waitersOf w.slot).filter fun p => p.1 != id) →
      (s.waitersOf w.slot).countP (fun p => p.1 == id) = 1 →
      (sessionWord w.client).holds s e → e.state = .opened →
      F = (fun x => (((x.setQueueOf w.slot ((s.queueOf w.slot).filter fun j => j != id)).freeWaiter id
          w.client).schedRemove (.waiter id)).offer w.client
        { kind := .waitExpired, key := r.key, token := 0, waiter := some id, cause := .none,
          tick := s.now }) →
      ((s.vol w.client).waitCount ≤ 1 ∧ e.waitsHeld = true →
        ∃ t, exec (.waitDeadlineEvent id d) s = .next t ∧
          s0.becomes (s.store.putCommit { session := some (w.client, { e with waitsHeld := false }) }) F t) ∧
      (¬ ((s.vol w.client).waitCount ≤ 1 ∧ e.waitsHeld = true) →
        exec (.waitDeadlineEvent id d) s = .next (F s0))

/-! ### Notices (chapter 6) -/

/-- FETCH NOTICES takes up to the number asked for from the head of the caller's queue and clears the lost count; the
response carries the notices, the lost count as it was and the number left; it makes no commit, and the
attention lines follow (R110). -/
def Obligations.FetchNoticesEmptiesTheHead : Prop :=
  ∀ (s s1 : State) (f : Frame) (n c : Nat) (q : List Notice) (lost : Nat),
    s.takenTo (.fetchNotices f) f s1 → c = f.client.toNat → n = (byteAt f.args 0).toNat → 1 ≤ n →
    n ≤ 4 → s1.noticesOf c = { queue := q, lost := lost } →
    exec (.fetchNotices f) s = .next
      (((s1.setNoticesOf c { queue := q.drop n, lost := 0 }).driveLines).respond f.port 0x40
        (.ok ((q.take n).flatMap Notice.bytes ++
          [BitVec.ofNat 8 lost, BitVec.ofNat 8 (q.length - n)])))

/-- ATTENTION commits the session entry where the enable changes and makes no commit where it does not; the lines are
evaluated anew in both cases; an argument other than on or off answers BAD_ARG (R111). What an evaluation of the lines
gives, here and in every statement that names `driveLines`: a port's line is low exactly where some session is not FREE
and bound to the port, has its attention enable on, and has a notice queued or a lost count that is not 0 (R112, R113);
in STORE_FAULT mode every line holds its level (R114). Nothing else changes in it. -/
def Obligations.AttentionSetsEnableAndLines : Prop :=
  (∀ (s : State) (se : Nat → SessEntry), ¬ s.inFault → (∀ c, c < 16 → (sessionWord c).holds s (se c)) →
    s.driveLines = s.setAttn s.driveLines.main.attn ∧
    ∀ p, s.driveLines.main.attn.get p = true ↔ ∃ c, c < 16 ∧ (se c).state ≠ .free ∧
      (se c).port = some p ∧ (se c).attention = true ∧
      ((s.noticesOf c).queue ≠ [] ∨ (s.noticesOf c).lost ≠ 0)) ∧
  (∀ s : State, s.inFault → s.driveLines = s) ∧
  ∀ (s s1 : State) (f : Frame) (c : Nat) (e : SessEntry), s.between → s.takenTo (.attention f) f s1 →
    c = f.client.toNat → (sessionWord c).holds s1 e →
    (byteAt f.args 0 ≠ 0 ∧ byteAt f.args 0 ≠ 1 →
      exec (.attention f) s = .next (s1.respond f.port 0x41 (.bare .badArg))) ∧
    (∀ on, onOffOf (byteAt f.args 0) = some on → e.attention = on →
      exec (.attention f) s = .next (s1.driveLines.respond f.port 0x41 (.bare .ok))) ∧
    (∀ on, onOffOf (byteAt f.args 0) = some on → e.attention ≠ on →
      ∃ t, exec (.attention f) s = .next t ∧
        s1.becomes (s1.store.putCommit { session := some (c, { e with attention := on }) })
          (fun x => x.driveLines.respond f.port 0x41 (.bare .ok)) t)

/-! ### Zones and supervisor control (chapter 7) -/

/-- ZONE SET with an image that meets every condition of R121, which `ZoneImageOk` lists: a frozen map answers
ZONE_FROZEN, a map under which a key of the index would change its zone ZONE_OCCUPIED, and otherwise the map that the
image carries is committed to both copies, unfrozen as it was; an image that breaks a condition answers BAD_ARG (R121,
R122, R123). Of boundaries that are enabled from the first upward with rising keys, a value below boundary 1 is in zone
0, one from boundary i up to the next enabled one in zone i, and one from the highest enabled boundary up in its zone
(R117). ZONE FREEZE commits the frozen flag of an unfrozen map and makes no commit for a frozen one (R124). -/
def Obligations.ZoneSetAndFreezeCommitTheMap : Prop :=
  (∀ (s s1 : State) (f : Frame) (old : ZoneMap), s.between → s.takenTo (.zoneSet f) f s1 →
    zoneWord.holds s1 old →
    (¬ ZoneImageOk f.args →
      exec (.zoneSet f) s = .next (s1.respond f.port 0x80 (.bare .badArg))) ∧
    (∀ new, ZoneImageOk f.args → new = imageMap f.args →
      (old.frozen = true → exec (.zoneSet f) s = .next (s1.respond f.port 0x80 (.bare .zoneFrozen))) ∧
      (old.frozen = false → (∃ e ∈ s1.main.index, new.classify (BitVec.ofNat 32 e.1) ≠
          old.classify (BitVec.ofNat 32 e.1)) →
        exec (.zoneSet f) s = .next (s1.respond f.port 0x80 (.bare .zoneOccupied))) ∧
      (old.frozen = false → (∀ e ∈ s1.main.index, new.classify (BitVec.ofNat 32 e.1) =
          old.classify (BitVec.ofNat 32 e.1)) →
        ∃ t, exec (.zoneSet f) s = .next t ∧
          s1.becomes { s1.store with zone := { c1 := { val := new, ecc := sevenGood },
                                               c2 := { val := new, ecc := sevenGood } } }
            (fun x => x.respond f.port 0x80 (.bare .ok)) t))) ∧
  (∀ (m : ZoneMap) (k : Key), (m.b2.on = true → m.b1.on = true ∧ m.b1.key < m.b2.key) →
    (m.b3.on = true → m.b2.on = true ∧ m.b2.key < m.b3.key) →
    (m.classify k = 0 ↔ m.b1.on = false ∨ k < m.b1.key) ∧
    (m.classify k = 1 ↔ m.b1.on = true ∧ m.b1.key ≤ k ∧ (m.b2.on = false ∨ k < m.b2.key)) ∧
    (m.classify k = 2 ↔ m.b2.on = true ∧ m.b2.key ≤ k ∧ (m.b3.on = false ∨ k < m.b3.key)) ∧
    (m.classify k = 3 ↔ m.b3.on = true ∧ m.b3.key ≤ k)) ∧
  ∀ (s s1 : State) (f : Frame) (map : ZoneMap), s.between → s.takenTo (.zoneFreeze f) f s1 →
    zoneWord.holds s1 map →
    (map.frozen = true → exec (.zoneFreeze f) s = .next (s1.respond f.port 0x81 (.bare .ok))) ∧
    (map.frozen = false → ∃ t, exec (.zoneFreeze f) s = .next t ∧
      s1.becomes { s1.store with
          zone := { c1 := { val := { map with frozen := true }, ecc := sevenGood },
                    c2 := { val := { map with frozen := true }, ecc := sevenGood } } }
        (fun x => x.respond f.port 0x81 (.bare .ok)) t)

/-- ZONE READ, on any port, with a session, which it refreshes, or without one, answers OK with the 55 bytes of the
map, each disabled boundary's key as 0, and the frozen flag, 56 bytes, and makes no commit; in STORE_FAULT mode it
answers STORE_FAULT (R125). -/
def Obligations.ZoneReadAnswersTheMap : Prop :=
  (∀ (s s1 : State) (f : Frame) (m : ZoneMap), s.takenTo (.zoneRead f) f s1 → zoneWord.holds s1 m →
    exec (.zoneRead f) s = .next (s1.respond f.port 0x82 (.ok
      ([m.b1, m.b2, m.b3].flatMap (fun b => onOff b.on :: keyBytes (if b.on then b.key else 0)) ++
        [m.z0, m.z1, m.z2, m.z3].flatMap (fun z =>
          [onOff z.supOnly, onOff z.autoCreate, onOff z.waits, BitVec.ofNat 8 z.share] ++
            termBytes z.defTerm ++ termBytes z.maxTerm) ++ [onOff m.frozen]))) ∧
    (m.bytes ++ [onOff m.frozen]).length = 56) ∧
  ∀ (s : State) (f : Frame), s.offers (.zoneRead f) f.port → s.inFault →
    exec (.zoneRead f) s = .next ((s.accept f.port).respond f.port 0x82 (.bare .storeFault))

/-- FORCE RELEASE removes the grant with the token named, whoever holds it and in whichever state it is, offers its
holder a REVOKED notice, and answers the client, the mode and the state the grant had; where no waiter can be
granted, the record is kept with its generation advanced, or, TRANSIENT and left VACANT with an empty queue, retired
(R126, R127). -/
def Obligations.ForceReleaseRevokesTheGrant : Prop :=
  ∀ (s s1 : State) (f : Frame) (k : Key) (n : Nat) (r r' : Rec) (tok : Token) (g : Grant)
    (F : State → State), s.between → s.takenTo (.forceRelease f) f s1 → k = keyAt f.args 0 →
    ¬ reservedKey k → tok = tokenAt f.args 4 → tok ≠ 0 → s1.atRest k n → r = s1.recordOf n →
    r.grantWith tok = some g → r' = r.without tok → r'.noHandoff (s1.waitersOf n) →
    F = (fun x => ((if g.gstate = .live then x.schedRemove (.grant n tok) else x).offer g.client
        { kind := .revoked, key := r.key, token := tok, waiter := none, cause := .force,
          tick := s.now }).respond f.port 0x84
      (.ok [BitVec.ofNat 8 g.client, g.mode.code, g.gstate.code])) →
    ∃ t, exec (.forceRelease f) s = .next t ∧
      (¬ r'.retires (s1.queueOf n) →
        s1.becomes (s1.store.putCommit { images := [.slot n true r'.image] })
          (fun x => F (x.recordKept n r')) t) ∧
      (r'.retires (s1.queueOf n) →
        s1.becomes (s1.store.putCommit
            { images := [.slot n false { r'.image with ident := IdWord.free }] })
          (fun x => F (x.recordGone n r.key)) t)

/-- WIPE in NORMAL mode makes every record slot and every session entry FREE and leaves the WIPING flag clear; the zone
map, the token counter and the nonce counter keep their values; the volatile state is discarded, the audit
is ABORTED with reason WIPE, and the attention lines are released (R129). WIPE in STORE_FAULT mode does the same
behind a first commit that gives every control word that cannot be read its retained-POR value and keeps the others,
but for a token counter that follows a failed replay, which goes 16 beyond (R130, R140; short of the counter's end:
log 6). That it goes 16 beyond whenever the replay failed, also where another loss had entered the mode, and that every
control word is kept that reads at that moment, one that the replay wrote good again included, is the model's reading
(log 14, DEDUCED, and DESIGN CHOICE for such a word); the fresh-start flag is set where the flags word could not be read or the token counter starts again (R147);
the mode ends, with no control word lost. -/
def Obligations.WipeFreesEverything : Prop :=
  (∀ (s s1 : State) (f : Frame) (fl : StoreFlags), s.between → s.takenTo (.wipe f) f s1 → ¬ s.inFault →
    flagsWord.holds s1 fl →
    ∃ t, exec (.wipe f) s = .next t ∧
      (∀ n, n < 1024 → t.store.slot n =
        { val := { (s1.store.slot n).val with ident := IdWord.free },
          ecc := (s1.store.slot n).ecc.set 0 .good }) ∧
      (∀ c, c < 16 → t.store.session c = Copies.two SessEntry.free) ∧
      t.store.zone = s.store.zone ∧ t.store.token = s.store.token ∧ t.store.nonce = s.store.nonce ∧
      t.store.flags = Copies.two { fl with wiping := false } ∧
      t.store.intent.marker = Copies.two false ∧
      t = ((s1.setStore t.store).setMain { s1.main with
          pool := [], queues := [], sched := [], notices := [], sessV := [], index := [],
          free := BitVec.allOnes 1024, quar := [], attn := AttnLines.released,
          audit := { s1.main.audit with
            state := .aborted, reason := .wipe, stepPending := false, ahead := [] },
          mon := { s1.main.mon with fault := false, lost := 0, replayFailed := false } }).respond
        f.port 0x86 (.bare .ok)) ∧
  ∀ (s s1 : State) (f : Frame) (map : Option ZoneMap) (tok : Option Token) (nonce : Option Nonce)
    (fl : Option StoreFlags) (tok' : Token), s.between → s.takenTo (.wipe f) f s1 → s.inFault →
    zoneWord.holdsOrLost s1 map → tokenWord.holdsOrLost s1 tok → nonceWord.holdsOrLost s1 nonce →
    flagsWord.holdsOrLost s1 fl → (∀ v, tok = some v → v.toNat + 16 < 2 ^ 48) →
    tok' = (match tok with
      | none => 1
      | some v => if s.main.mon.replayFailed then v + 16 else v) →
    ∃ t, exec (.wipe f) s = .next t ∧
      (∀ n, n < 1024 → t.store.slot n =
        { val := { (s1.store.slot n).val with ident := IdWord.free },
          ecc := (s1.store.slot n).ecc.set 0 .good }) ∧
      (∀ c, c < 16 → t.store.session c = Copies.two SessEntry.free) ∧
      t.store.zone = { c1 := { val := map.getD ZoneMap.por, ecc := sevenGood },
                       c2 := { val := map.getD ZoneMap.por, ecc := sevenGood } } ∧
      t.store.token = Copies.two tok' ∧ t.store.nonce = Copies.two (nonce.getD 1) ∧
      t.store.flags = Copies.two
        { fresh := (match fl with | none => true | some x => x.fresh) || decide (tok' = 1),
          wiping := false } ∧
      t.store.intent.marker = Copies.two false ∧
      t.main.mon = { s1.main.mon with
        fault := false, lost := 0, replayFailed := false, corrected := t.main.mon.corrected,
        uncorrected := t.main.mon.uncorrected, trap := t.main.mon.trap } ∧
      t = ((s1.setStore t.store).setMain { s1.main with
          pool := [], queues := [], sched := [], notices := [], sessV := [], index := [],
          free := BitVec.allOnes 1024, quar := [], attn := AttnLines.released,
          audit := { s1.main.audit with
            state := .aborted, reason := .wipe, stepPending := false, ahead := [] },
          mon := t.main.mon }).respond f.port 0x86 (.bare .ok)

/-! ### The audit (chapter 9) -/

/-- AUDIT START (R154): behind the privilege, STORE_FAULT and session checks, a reserved key answers BAD_KEY and a
RUNNING or SUSPENDED context AUDIT_BUSY, with nothing changed; a high key below the low key leaves the context
ABORTED with reason RANGE and no step pending; otherwise the context is RUNNING from the low key with a first step
pending (R154), behind the requests that wait for the directory at that moment (R155), which the model lists: that list
is the model's choice (log 1). No commit is made. -/
def Obligations.AuditStartBeginsTheWalk : Prop :=
  ∀ (s : State) (f : Frame) (low high : Key) (a : Audit), s.offers (.auditStart f) f.port →
    low = keyAt f.args 0 → high = keyAt f.args 4 →
    a = { state := .running, low := low, high := high, cursor := low, visited := 0, qseen := 0,
          digest := 0xFFFFFFFF#32, stale := false, reason := .none, stepPending := true, ahead := [] } →
    (s.main.supPort ≠ some f.port → exec (.auditStart f) s =
      .next ((s.accept f.port).respond f.port 0x88 (.bare .notPrivileged))) ∧
    (s.main.supPort = some f.port → s.inFault → exec (.auditStart f) s =
      .next ((s.accept f.port).respond f.port 0x88 (.bare .storeFault))) ∧
    ∀ s1, s.takenTo (.auditStart f) f s1 →
      (reservedKey low ∨ reservedKey high →
        exec (.auditStart f) s = .next (s1.respond f.port 0x88 (.bare .badKey))) ∧
      (¬ (reservedKey low ∨ reservedKey high) →
        (s.main.audit.state = .running ∨ s.main.audit.state = .suspended →
          exec (.auditStart f) s = .next (s1.respond f.port 0x88 (.bare .auditBusy))) ∧
        (s.main.audit.state ≠ .running → s.main.audit.state ≠ .suspended →
          (high < low → exec (.auditStart f) s =
            .next ((s1.setAudit { a with state := .aborted, reason := .range, stepPending := false }).respond
              f.port 0x88 (.ok [4]))) ∧
          (low ≤ high → exec (.auditStart f) s =
            .next ((s1.setAudit { a with ahead := s1.requests }).respond f.port 0x88 (.ok [1])))))

/-- AUDIT SUSPEND takes a RUNNING context to SUSPENDED and withdraws the step, AUDIT RESUME a SUSPENDED one to
RUNNING with a step pending behind the requests that wait (R155), which the model lists: that list is the model's
choice (log 1); in any other state they answer AUDIT_IDLE with no change (R160). AUDIT READ answers the context, the
digest as the register stands, and changes nothing (R161). -/
def Obligations.AuditSuspendResumeRead : Prop :=
  ∀ (s s1 : State) (f : Frame) (a : Audit), a = s1.main.audit →
    (s.takenTo (.auditSuspend f) f s1 →
      (a.state = .running → exec (.auditSuspend f) s =
        .next ((s1.setAudit { a with state := .suspended, stepPending := false, ahead := [] }).respond f.port 0x89
          (.ok (2 :: keyBytes a.cursor)))) ∧
      (a.state ≠ .running → exec (.auditSuspend f) s =
        .next (s1.respond f.port 0x89 (.bare .auditIdle)))) ∧
    (s.takenTo (.auditResume f) f s1 →
      (a.state = .suspended → exec (.auditResume f) s =
        .next ((s1.setAudit { a with
            state := .running, stepPending := true, ahead := s1.requests }).respond f.port 0x8A (.ok (1 :: keyBytes a.cursor)))) ∧
      (a.state ≠ .suspended → exec (.auditResume f) s =
        .next (s1.respond f.port 0x8A (.bare .auditIdle)))) ∧
    (s.takenTo (.auditRead f) f s1 → exec (.auditRead f) s =
      .next (s1.respond f.port 0x8B (.ok
        ([a.state.code, a.reason.code] ++ keyBytes a.low ++ keyBytes a.high ++ keyBytes a.cursor ++
          beBytes 2 a.visited ++ beBytes 2 a.qseen ++ beBytes 4 a.digest.toNat ++ [onOff a.stale]))))

/-! ### The store's commands (chapter 8) -/

/-- STORE STATUS answers the store mode, the lost control words, the fresh-start flag (set in STORE_FAULT mode with
the flags word among the lost ones, whatever it holds), the counts, the number of
quarantined slots, the trap, and the scrub's interval and cursor; of an empty trap only its valid byte is stated
(log 15) (R146). QUARANTINE LIST answers up to 8 slots of the quarantine set from the start slot upward, the next
one or 0xFFFF, and the number listed; a start slot above 1023 answers BAD_ARG (R148). Neither changes anything. -/
def Obligations.StoreReports : Prop :=
  (∀ (s s1 : State) (f : Frame) (fl : StoreFlags) (m : Monitor), s.takenTo (.storeStatus f) f s1 →
    flagsWord.holds s1 fl → m = s1.main.mon →
    ∃ trap : List Byte, trap.length = 7 ∧ (m.trap = none → trap.head? = some 0) ∧
      (∀ x, m.trap = some x → trap = [1, x.area.code] ++ beBytes 2 x.index ++
        [BitVec.ofNat 8 x.word, BitVec.ofNat 8 x.copy, trapKindCode x.kind]) ∧
      exec (.storeStatus f) s = .next (s1.respond f.port 0x8C (.ok
        ([onOff m.fault] ++ beBytes 3 m.lost.toNat ++
          [onOff (fl.fresh || (m.fault && m.lost.getLsbD 19))] ++ beBytes 2 m.corrected ++
          [BitVec.ofNat 8 m.uncorrected] ++ beBytes 2 s1.main.quar.length ++ trap ++ [m.interval] ++
          beBytes 2 m.cursor)))) ∧
  ∀ (s s1 : State) (f : Frame) (start : Nat) (l : List (Nat × Option Key)),
    s.takenTo (.quarantineList f) f s1 → start = field f.args 0 2 →
    l = s1.main.quar.filter (fun e => start ≤ e.1) →
    (1024 ≤ start → exec (.quarantineList f) s =
      .next (s1.respond f.port 0x90 (.bare .badArg))) ∧
    (start < 1024 → exec (.quarantineList f) s = .next (s1.respond f.port 0x90 (.ok
      ((l.take 8).flatMap (fun e => beBytes 2 e.1 ++
          (match e.2 with | some k => 1 :: keyBytes k | none => [0, 0, 0, 0, 0])) ++
        beBytes 2 (match l.drop 8 with | [] => 0xFFFF | e :: _ => e.1) ++
        [BitVec.ofNat 8 (l.take 8).length]))))

/-- STORE CLEAR sets both counts to 0, empties the trap and commits the fresh-start flag clear where it is set (R147).
SCRUB CONTROL sets the interval, restarts the count, discards a pending step, keeps the cursor, and answers
interval and cursor (R151). -/
def Obligations.StoreClearAndScrubControl : Prop :=
  (∀ (s s1 : State) (f : Frame) (fl : StoreFlags) (F : State → State), s.between →
    s.takenTo (.storeClear f) f s1 → flagsWord.holds s1 fl →
    F = (fun x => (x.setMon { s1.main.mon with corrected := 0, uncorrected := 0, trap := none }).respond
      f.port 0x8D (.bare .ok)) →
    (fl.fresh = false → exec (.storeClear f) s = .next (F s1)) ∧
    (fl.fresh = true → ∃ t, exec (.storeClear f) s = .next t ∧
      s1.becomes (s1.store.putCommit { flags := some { fl with fresh := false } }) F t)) ∧
  ∀ (s s1 : State) (f : Frame), s.takenTo (.scrubControl f) f s1 →
    exec (.scrubControl f) s = .next (((s1.setMon { s1.main.mon with
        interval := byteAt f.args 0, count := 0, stepPending := false }).taken .scrub).respond f.port 0x8E
      (.ok (byteAt f.args 0 :: beBytes 2 s1.main.mon.cursor)))

/-- RECLAIM (R149): on another port NOT_PRIVILEGED, in STORE_FAULT mode STORE_FAULT; a slot above 1023 answers
BAD_ARG, a slot that is not in the quarantine set NOT_FOUND. Otherwise word 0 of the slot alone is committed FREE,
the slot is not read, it leaves the quarantine set and joins the set of FREE slots, and a known key leaves the index
and is told to the Audit Unit; the response carries whether the key was known, and the key. The lowest FREE slot is
then this one where it is below every other. -/
def Obligations.ReclaimFreesTheSlot : Prop :=
  ∀ (s : State) (f : Frame) (n : Nat), s.between → s.offers (.reclaim f) f.port → n = field f.args 0 2 →
    (s.main.supPort ≠ some f.port → exec (.reclaim f) s =
      .next ((s.accept f.port).respond f.port 0x8F (.bare .notPrivileged))) ∧
    (s.main.supPort = some f.port → s.inFault → exec (.reclaim f) s =
      .next ((s.accept f.port).respond f.port 0x8F (.bare .storeFault))) ∧
    ∀ s1, s.takenTo (.reclaim f) f s1 →
      (1024 ≤ n → exec (.reclaim f) s = .next (s1.respond f.port 0x8F (.bare .badArg))) ∧
      (n < 1024 → Tab.find? s1.main.quar n = none →
        exec (.reclaim f) s = .next (s1.respond f.port 0x8F (.bare .notFound))) ∧
      (∀ key, n < 1024 → Tab.find? s1.main.quar n = some key →
        ∃ t, exec (.reclaim f) s = .next t ∧
          s1.becomes (s1.store.setSlot n
              { val := { (s1.store.slot n).val with ident := IdWord.free },
                ecc := (s1.store.slot n).ecc.set 0 .good })
            (fun x =>
              let y := (x.setQuar (Tab.del s1.main.quar n)).setFree
                (s1.main.free ||| (1 : BitVec 1024) <<< n)
              (match key with
                | some k => (y.setIndex (Tab.del s1.main.index k.toNat)).setAudit (s1.main.audit.told k)
                | none => y).respond f.port 0x8F
              (.ok (match key with | some k => 1 :: keyBytes k | none => [0, 0, 0, 0, 0]))) t ∧
          ((∀ j, j < n → s1.isFree j = false) → t.lowestFree [] = some n))

/-! ### Events (chapters 2 to 5) -/

/-- A GRANT_EXPIRY event that names the one grant due on its record, which has no waiter: the grant is removed with
an EXPIRED notice to its holder, the record kept or, TRANSIENT and left VACANT, retired (R39, R40).
An event whose slot is FREE or QUARANTINED, or whose record has no LIVE grant with its token and its deadline,
leaves the schedule and does nothing else (R40, R98). -/
def Obligations.GrantExpiryEventExpires : Prop :=
  ∀ (s s0 : State) (n : Nat) (tok : Token) (d : Tick) (due : Bool) (r r' : Rec),
    s.between → s.nextDirectoryEvent =
      some { kind := .grantExpiry, ref := .grant n tok, deadline := d, due := due } →
    s0 = s.schedRemove (.grant n tok) → r = s.recordOf n → r' = r.without tok →
    (s.isFree n = true ∨ Tab.find? s.main.quar n ≠ none →
      exec (.grantExpiryEvent n tok d) s = .next s0) ∧
    (s.isFree n = false → Tab.find? s.main.quar n = none → (s.store.slot n).ecc = tenGood →
      (r.grantWith tok = none ∨ (∃ g, r.grantWith tok = some g ∧ (g.gstate ≠ .live ∨ g.expiry ≠ d)) →
        exec (.grantExpiryEvent n tok d) s = .next s0) ∧
      (∀ (g : Grant) (F : State → State), r.grants.filter (Grant.due s.now) = [g] → g.token = tok →
        g.expiry = d → r.grantWith tok = some g → (∀ x ∈ r.grants, x.token = tok → x = g) →
        s.queueOf n = [] →
        F = (fun x => (x.offer g.client
          { kind := .expired, key := r.key, token := tok, waiter := none, cause := .none,
            tick := s.now }).schedRemove (.grant n tok)) →
        ∃ t, exec (.grantExpiryEvent n tok d) s = .next t ∧
          (¬ r'.retires [] → s0.becomes (s.store.putCommit { images := [.slot n true r'.image] })
            (fun x => F (x.recordKept n r')) t) ∧
          (r'.retires [] → s0.becomes (s.store.putCommit
              { images := [.slot n false { r'.image with ident := IdWord.free }] })
            (fun x => F (x.recordGone n r.key)) t)))

/-- The Session Table takes a HEARTBEAT event of an OPEN session, and a GRACE event of a SUSPECT session, that carry the
session's deadline: the entry leaves the schedule and a lapse request waits for the directory; any other
event of these kinds, and in STORE_FAULT mode one of a session among the lost control words, leaves the schedule and
does nothing else (R72, R87, R97, R98, R136). -/
def Obligations.SessionEventsRaiseLapses : Prop :=
  ∀ (s s0 : State) (c : Nat) (d : Tick) (due : Bool) (e : SessEntry), (sessionWord c).holds s e →
    s0 = s.schedRemove (.session c) →
    (s.nextSessionEvent = some { kind := .heartbeat, ref := .session c, deadline := d, due := due } →
      (s.entryLost c = true → exec (.heartbeatEvent c d) s = .next s0) ∧
      (s.entryLost c = false ∧ e.state = .opened ∧ (s.vol c).deadline = some d → exec (.heartbeatEvent c d) s =
        .next (s0.setVol c { s.vol c with lapseHeartbeat := true })) ∧
      (¬ (s.entryLost c = false ∧ e.state = .opened ∧ (s.vol c).deadline = some d) →
        exec (.heartbeatEvent c d) s = .next s0)) ∧
    (s.nextSessionEvent = some { kind := .grace, ref := .session c, deadline := d, due := due } →
      (s.entryLost c = true → exec (.graceEvent c d) s = .next s0) ∧
      (s.entryLost c = false ∧ e.state = .suspect ∧ (s.vol c).deadline = some d → exec (.graceEvent c d) s =
        .next (s0.setVol c { s.vol c with lapseGrace := true })) ∧
      (¬ (s.entryLost c = false ∧ e.state = .suspect ∧ (s.vol c).deadline = some d) →
        exec (.graceEvent c d) s = .next s0))

/-- The directory takes a waiting lapse request of a session that holds no grant and no waiter and whose deadline is
reached: under HOLD the session is committed LAPSED with its deadline gone, under RELEASE it becomes FREE with its
queue discarded; a session in another state, or with its deadline ahead, is left as it is, and the request is gone
(R73, R75, R76, R87). -/
def Obligations.LapseRequestSettles : Prop :=
  ∀ (s : State) (k : SessKind) (c : Nat) (e : SessEntry) (v : SessVol), s.between → s.isReady →
    ¬ s.inFault → s.lapseWaits k c = true → (sessionWord c).holds s e →
    v = (match k with
      | .heartbeat => { s.vol c with lapseHeartbeat := false }
      | .grace => { s.vol c with lapseGrace := false }) →
    (¬ (e.state = lapseState k ∧ s.lapseDue c e = true) →
      exec (.lapseRequest k c) s = .next ((s.setVol c v).taken (.lapse k c))) ∧
    (e.state = lapseState k → s.lapseDue c e = true → s.settleSlots c = [] →
      ∃ t, exec (.lapseRequest k c) s = .next t ∧
        (e.policy = .hold → s.becomes
            (s.store.putCommit { session := some (c,
              { e with state := .lapsed, action := .none, waitsHeld := false }) })
          (fun x => ((x.setVol c { v with deadline := none, waitCount := 0 }).schedRemove (.session c)).taken
            (.lapse k c)) t) ∧
        (e.policy = .release → s.becomes
            (s.store.putCommit { session := some (c, SessEntry.free) })
          (fun x => (((x.setVol c
              { v with deadline := none, waitCount := 0, restarted := false }).setNoticesOf c
            NoticeQueue.empty).schedRemove (.session c)).driveLines.taken (.lapse k c)) t))

/-! ### The clock and the internal requests (chapters 5, 8, 9) -/

/-- The passing of crystal cycles while VBAT is present: the count advances by one for every 128th cycle and holds
at its greatest value; in the ACTIVE part every entry whose deadline it reaches becomes DUE in its place, and in the
READY part the scrub counts the ticks (R89, R96, R150); at the greatest value the phase runs on and the scrub counts
no tick, as the model infers (log 26). ENTRY_FALLS_DUE makes DUE the entry it names where the count
has reached it, SCRUB_STEP_PENDING makes a step pending where the count has reached the interval, and neither
changes anything else (log 27). -/
def Obligations.ClockDrivesTheSchedule : Prop :=
  (∀ (s : State) (cycles n : Nat) (tick : Tick), s.power.vbat = true →
    n = min ((s.tb.phase.toNat + cycles) / 128) (2 ^ 40 - 1 - s.tb.tick.toNat) →
    tick.toNat = s.tb.tick.toNat + n →
    ∃ t, exec (.timebaseAdvance cycles) s = .next t ∧ t.tb.tick = tick ∧
      t.tb.phase.toNat = (s.tb.phase.toNat + cycles) % 128 ∧
      (¬ s.isActive → t = s.setTb t.tb) ∧
      (s.power.state = .restarting → t = (s.setTb t.tb).setSched (s.main.sched.map fun e =>
        if e.deadline ≤ tick then { e with due := true } else e)) ∧
      (s.isReady → t = ((s.setTb t.tb).setSched (s.main.sched.map fun e =>
          if e.deadline ≤ tick then { e with due := true } else e)).setMon { s.main.mon with
            count := s.main.mon.count + n,
            stepPending := s.main.mon.stepPending || (decide (s.main.mon.interval ≠ 0) &&
              (decide (0 < n) && decide (s.main.mon.interval.toNat ≤ s.main.mon.count + n))) })) ∧
  (∀ (s : State) (r : Ref), s.isActive → exec (.entryFallsDue r) s =
    .next (s.setSched (s.main.sched.map fun e =>
      if e.ref = r ∧ e.deadline ≤ s.now then { e with due := true } else e))) ∧
  ∀ (s : State), s.isReady →
    (s.main.mon.interval ≠ 0 → s.main.mon.interval.toNat ≤ s.main.mon.count →
      exec .scrubStepPending s = .next (s.setMon { s.main.mon with stepPending := true })) ∧
    (s.main.mon.interval = 0 ∨ s.main.mon.count < s.main.mon.interval.toNat →
      exec .scrubStepPending s = .next s)

/-- A scrub step on a FREE slot whose word 0 reads, on a QUARANTINED slot, and on a record at rest advances the
cursor and restarts the count, and changes nothing else (R150). An audit step is held while a request waits that
reached the directory before it (R155; that the model lists those requests when the step is made pending: log 1), and
passes one key: with no key left in
the range the walk is DONE and the digest finished; a QUARANTINED record's image, or the image of a record at rest,
is folded into the digest and counted, the cursor moves past the key, and the next step is pending behind the requests
that wait then (R155, R156). -/
def Obligations.BackgroundStepsPassOneSlotOrKey : Prop :=
  (∀ (s : State) (n : Nat), s.isReady → ¬ s.inFault → s.main.mon.stepPending = true →
    n = s.main.mon.cursor →
    ((s.isFree n = true ∧ (s.store.slot n).ecc.head? = some .good) ∨
     (s.isFree n = false ∧ Tab.find? s.main.quar n ≠ none) ∨
     (s.isFree n = false ∧ Tab.find? s.main.quar n = none ∧ ∃ k, s.atRest k n)) →
    exec .scrubStep s = .next ((s.setMon { s.main.mon with
      cursor := (n + 1) % 1024, count := 0, stepPending := false }).taken .scrub)) ∧
  (∀ (s : State) (w : Waiting), w ∈ s.main.audit.ahead → s.stillWaits w = true →
    exec .auditStep s = .next s) ∧
  ∀ (s : State) (a : Audit), s.isReady → ¬ s.inFault → a = s.main.audit → a.stepPending = true →
    a.state = .running → (∀ w ∈ a.ahead, s.stillWaits w = false) →
    ((∀ e ∈ s.main.index, ¬ (a.cursor.toNat ≤ e.1 ∧ e.1 ≤ a.high.toNat)) →
      exec .auditStep s = .next (s.setAudit { a with
        state := .done, digest := a.digest ^^^ 0xFFFFFFFF#32, stepPending := false, ahead := [] })) ∧
    (∀ (pre post : List (Nat × IndexEntry)) (k : Key) (e : IndexEntry),
      s.main.index = pre ++ (k.toNat, e) :: post →
      (∀ x ∈ pre, ¬ (a.cursor.toNat ≤ x.1 ∧ x.1 ≤ a.high.toNat)) → a.cursor ≤ k → k ≤ a.high →
      (e.quarantined = true → exec .auditStep s = .next (s.setAudit { a with
        digest := crc32Fold a.digest (keyBytes k ++ [3]), visited := min (a.visited + 1) 65535,
        qseen := min (a.qseen + 1) 65535, cursor := k + 1, ahead := s.requests })) ∧
      (e.quarantined = false → s.atRest k e.slot → exec .auditStep s = .next (s.setAudit { a with
        digest := crc32Fold a.digest (s.recordOf e.slot).auditImage,
        visited := min (a.visited + 1) 65535, cursor := k + 1, ahead := s.requests })))

/-! ### Power (chapter 10) -/

/-- The power state follows the supplies and RESET# (R119, R163, R164, R165): a retained POR gives the retained
state its values and, with VDD present, begins a main reset; the loss of VBAT leaves the part OFF (its fields as the
model keeps them there: log 3); the loss of VDD ends the main domain and keeps the retained one; the return of VDD
with VBAT present, and the fall of RESET# in ACTIVE, begin a main reset that samples SUPSEL; the rise of RESET#
changes nothing but its level. That the fall of RESET# begins the one main reset and its rise none is the model's
choice (log 21). What a take or a sweep under way leaves in the store is said by CommitIsAtomicUnderPowerLoss. -/
def Obligations.PowerStateFollowsTheSupplies : Prop :=
  ∀ (s : State) (supsel : BitVec 2) (sup : Option PortId) (fresh begun : Main),
    (supsel = 0 → sup = none) → (supsel = 1 → sup = some .a) → (supsel = 2 → sup = some .b) →
    (supsel = 3 → sup = some .c) →
    fresh = { Main.empty with supPort := sup, stage := 1 } →
    begun = { Main.empty with supPort := sup, stage := 1, audit :=
      if s.power.firstStart then Audit.idle else { Audit.idle with state := .aborted, reason := .reset } } →
    (s.power.vbat = false → s.power.vdd = false → exec (.retainedPor supsel) s =
      .next { s with tb := { tick := 0, phase := 0 }, store := Store.por, main := Main.empty, power :=
        { s.power with state := .retainedOnly, firstStart := true, vbat := true } }) ∧
    (s.power.vbat = false → s.power.vdd = true → exec (.retainedPor supsel) s =
      .next { s with tb := { tick := 0, phase := 0 }, store := Store.por, main := fresh, power :=
        { s.power with state := .restarting, firstStart := true, vbat := true, supsel := supsel } }) ∧
    (s.power.vbat = true → exec .vbatLoss s =
      .next { s with tb := { tick := 0, phase := 0 }, store := Store.por, main := Main.empty, power :=
        { s.power with state := .off, firstStart := true, vbat := false } }) ∧
    (∀ w k, s.power.vdd = true → s.power.vbat = true → ∃ t, exec (.vddLoss w k) s = .next t ∧
      t = { s with store := t.store, main := Main.empty, power :=
        { s.power with state := .retainedOnly, vdd := false } } ∧
      (w = .idle ∨ ¬ s.isActive → t.store = s.store)) ∧
    (∀ w k, s.power.vdd = false → s.power.vbat = true → exec (.mainReset .vddReturn supsel w k) s =
      .next { s with main := begun, power :=
        { s.power with state := .restarting, vdd := true, supsel := supsel } }) ∧
    (∀ w k, s.power.resetN = true → s.isActive → ∃ t,
      exec (.mainReset .resetLow supsel w k) s = .next t ∧
      t = { s with store := t.store, main := begun, power :=
        { s.power with state := .restarting, resetN := false, supsel := supsel } } ∧
      (w = .idle → t.store = s.store)) ∧
    (∀ w k, exec (.mainReset .resetHigh supsel w k) s =
      .next { s with power := { s.power with resetN := true } })

/-- The restart sweep of a part whose control words are sound, with no commit to replay, no WIPE and no settle to
finish, and with every record slot FREE: the part becomes READY with every slot in the set of FREE slots and the
first-start mark clear; every OPEN session is committed SUSPECT, a held waits mark becomes a lost one, every session
that is not FREE is marked restarted, and a SUSPECT session has twice its heartbeat term from now to come back (R86,
R167 to R172). The ports and the frames that they hold stay as they are (R174). That the whole sweep has one now and
leaves the Timebase as it is, is the model's choice (log 2), and so is the stage number 0 behind it (log 32). -/
def Obligations.SweepSuspendsTheSessions : Prop :=
  ∀ (s : State) (firstStart : Bool) (supsel : BitVec 2) (se : Nat → SessEntry) (map : ZoneMap)
    (tok : Token) (nonce : Nonce) (fl : StoreFlags), s.between → s.power.state = .restarting →
    s.power.resetN = true → s.main =
      { Main.atReset firstStart supsel with ports := s.main.ports, arbiter := s.main.arbiter } →
    (∀ c, c < 16 → (sessionWord c).holds s (se c) ∧ (se c).state ≠ .settling) →
    zoneWord.holds s map → tokenWord.holds s tok → nonceWord.holds s nonce → flagsWord.holds s fl →
    fl.wiping = false → s.store.intent.marker = Copies.two false →
    (∀ n, n < 1024 → (s.store.slot n).val.ident.inUse = false ∧
      (s.store.slot n).ecc.head? = some .good) →
    ∃ t, exec .restartSweep s = .next t ∧
      t.power = { s.power with state := .ready, firstStart := false } ∧ t.tb = s.tb ∧
      t.store.slots = s.store.slots ∧ t.store.zone = s.store.zone ∧ t.store.token = s.store.token ∧
      t.store.nonce = s.store.nonce ∧ t.store.flags = s.store.flags ∧
      t.main.free = BitVec.allOnes 1024 ∧ t.main.index = [] ∧ t.main.quar = [] ∧ t.main.stage = 0 ∧
      t.main.ports = s.main.ports ∧ t.main.arbiter = s.main.arbiter ∧
      ∀ c, c < 16 →
        ((se c).state = .free → t.store.session c = s.store.session c ∧ t.vol c = s.vol c) ∧
        ((se c).state ≠ .free →
          (sessionWord c).holds t { se c with
            state := if (se c).state = .opened then .suspect else (se c).state,
            waitsLost := (se c).waitsLost || (se c).waitsHeld, waitsHeld := false } ∧
          (t.vol c).restarted = true ∧ (t.vol c).waitCount = 0) ∧
        ((se c).state = .opened ∨ (se c).state = .suspect →
          (t.vol c).deadline = some (tickPlus s.now (2 * (se c).hbTerm.toNat)) ∧
          ∃ e ∈ t.main.sched, e.kind = .grace ∧ e.ref = .session c ∧
            e.deadline = tickPlus s.now (2 * (se c).hbTerm.toNat))

/-- The restart sweep in NORMAL mode over records and over settles, and over a WIPE that was cut short (R169 to R172;
one now: log 2). Where every record reads without error and no key stands twice, each record loses the grants that a
settle found SETTLING releases, has those that it orphans or revives changed in place, and then loses the grants that
are due; a record changed is committed with its generation advanced once for each stage that changed it, a TRANSIENT
record left VACANT is retired, and any other is in the index with an entry for each LIVE grant; the sessions found
SETTLING are FREE, LAPSED or SUSPECT by their actions, and the others as a restart leaves them. With the WIPING flag
set every slot and every session entry is FREE, whatever they held, a session entry that cannot be read included,
and the flag is clear. Of the notices nothing is said. -/
def Obligations.SweepRestoresTheRecords : Prop :=
  (∀ (s : State) (se : Nat → SessEntry) (key : Nat → Key) (map : ZoneMap) (tok : Token) (nonce : Nonce)
    (fl : StoreFlags), s.between → s.sweeps →
    (∀ c, c < 16 → (sessionWord c).holds s (se c) ∧
      ((se c).state = .settling → (se c).action ≠ .none)) →
    zoneWord.holds s map → tokenWord.holds s tok → nonceWord.holds s nonce → flagsWord.holds s fl →
    fl.wiping = false → s.store.intent.marker = Copies.two false →
    (∀ n, n < 1024 →
      ((s.store.slot n).val.ident.inUse = false ∧ (s.store.slot n).ecc.head? = some .good) ∨
      ((s.store.slot n).val.ident.holdsRecord = true ∧ (s.store.slot n).ecc = tenGood ∧
        (s.store.slot n).val.ident.key = some (key n) ∧
        (s.recordOf n).state = summaryOf (s.recordOf n).grants ∧
        ((s.recordOf n).grants.map Grant.token).Nodup)) →
    (∀ a b, a < 1024 → b < 1024 → (s.store.slot a).val.ident.inUse = true →
      (s.store.slot b).val.ident.inUse = true → key a = key b → a = b) →
    ∃ t, exec .restartSweep s = .next t ∧ t.isReady ∧ ¬ t.inFault ∧ t.power.firstStart = false ∧
      t.main.quar = [] ∧
      (∀ n, n < 1024 → (s.store.slot n).val.ident.inUse = false →
        t.store.slot n = s.store.slot n ∧ t.isFree n = true) ∧
      (∀ (n : Nat) (r4 r5 : Rec), n < 1024 → (s.store.slot n).val.ident.inUse = true →
        r4 = (s.recordOf n).sweptTo
          ((s.recordOf n).grants.filterMap fun g => settledGrant s.now (settlesGrant se g) g) →
        r5 = r4.sweptTo (r4.grants.filter fun g => !(g.gstate == .live && decide (g.expiry ≤ s.now))) →
        (r5.retires [] → (t.store.slot n).val.ident = IdWord.free ∧ t.isFree n = true ∧
          t.lookup (key n) = none) ∧
        (¬ r5.retires [] →
          t.store.slot n = (if r5 = s.recordOf n then s.store.slot n
            else { val := r5.image, ecc := tenGood }) ∧
          t.isFree n = false ∧
          t.lookup (key n) = some
            { slot := n, quarantined := false, holders := r5.grants.map fun g => (g.client, g.token) } ∧
          ∀ g ∈ r5.grants, g.gstate = .live → ∃ e ∈ t.main.sched,
            e.kind = .grantExpiry ∧ e.ref = .grant n g.token ∧ e.deadline = g.expiry)) ∧
      ∀ (c : Nat) (e : SessEntry), c < 16 →
        e = (if (se c).state = .settling then (se c).settled else
          if (se c).state = .free then se c else { se c with
            state := if (se c).state = .opened then .suspect else (se c).state,
            waitsLost := (se c).waitsLost || (se c).waitsHeld, waitsHeld := false }) →
        (sessionWord c).holds t e ∧ (e.state ≠ .free → (t.vol c).restarted = true) ∧
        (e.state = .suspect → (t.vol c).deadline = some (tickPlus s.now (2 * e.hbTerm.toNat)) ∧
          ∃ x ∈ t.main.sched, x.kind = .grace ∧ x.ref = .session c ∧
            x.deadline = tickPlus s.now (2 * e.hbTerm.toNat))) ∧
  ∀ (s : State) (se : Nat → Option SessEntry) (map : ZoneMap) (tok : Token) (nonce : Nonce)
    (fl : StoreFlags), s.between → s.sweeps →
    (∀ c, c < 16 → (sessionWord c).holdsOrLost s (se c)) →
    zoneWord.holds s map → tokenWord.holds s tok → nonceWord.holds s nonce → flagsWord.holds s fl →
    fl.wiping = true → s.store.intent.marker = Copies.two false →
    ∃ t, exec .restartSweep s = .next t ∧ t.isReady ∧ ¬ t.inFault ∧ t.power.firstStart = false ∧
      (∀ n, n < 1024 → t.store.slot n =
        { val := { (s.store.slot n).val with ident := IdWord.free },
          ecc := (s.store.slot n).ecc.set 0 .good }) ∧
      (∀ c, c < 16 → t.store.session c = Copies.two SessEntry.free) ∧
      t.store.zone = s.store.zone ∧ t.store.token = s.store.token ∧ t.store.nonce = s.store.nonce ∧
      t.store.flags = Copies.two { fl with wiping := false } ∧
      t.main.free = BitVec.allOnes 1024 ∧ t.main.index = [] ∧ t.main.quar = [] ∧ t.main.sched = []

/-- The restart sweep in STORE_FAULT mode (R136, R168, R173; one now: log 2): a control word lost in both copies enters
the mode, a session entry only where the WIPING flag is not set; the set of lost control words is every word lost, where
a session entry lost with the WIPING flag set counts too once another control word has been lost: the model's reading of
R131, R168 and R173 (log 18, DEDUCED); the store is not written; the index, the set of FREE
slots and the quarantine set follow what can be read, with a schedule entry for each LIVE grant that can be
read; no notice is made; an OPEN session stays OPEN with a full heartbeat term from now, a SUSPECT one has twice that,
and a lost entry is passed over. -/
def Obligations.SweepInStoreFaultMode : Prop :=
  ∀ (s : State) (se : Nat → Option SessEntry) (key : Nat → Option Key) (map : Option ZoneMap)
    (tok : Option Token) (nonce : Option Nonce) (fl : Option StoreFlags), s.between → s.sweeps →
    (∀ c, c < 16 → (sessionWord c).holdsOrLost s (se c)) → zoneWord.holdsOrLost s map →
    tokenWord.holdsOrLost s tok → nonceWord.holdsOrLost s nonce → flagsWord.holdsOrLost s fl →
    (map = none ∨ tok = none ∨ nonce = none ∨ fl = none ∨
      ((∃ c, c < 16 ∧ se c = none) ∧ ∀ x, fl = some x → x.wiping = false)) →
    s.store.intent.marker = Copies.two false →
    (∀ n, key n = (s.store.slot n).val.ident.key) →
    (∀ a b k, a < 1024 → b < 1024 → (s.store.slot a).val.ident.inUse = true →
      (s.store.slot b).val.ident.inUse = true → (s.store.slot a).ecc.head? ≠ some .double →
      (s.store.slot b).ecc.head? ≠ some .double → key a = some k → key b = some k → a = b) →
    ∃ t, exec .restartSweep s = .next t ∧ t.isReady ∧ t.inFault ∧ t.power.firstStart = false ∧
      t.store = s.store ∧
      (∀ b, t.main.mon.lost.getLsbD b = decide ((b < 16 ∧ se b = none) ∨ (b = 16 ∧ map = none) ∨
        (b = 17 ∧ tok = none) ∨ (b = 18 ∧ nonce = none) ∨ (b = 19 ∧ fl = none))) ∧
      (∀ n, n < 1024 → (s.store.slot n).ecc.head? = some .double →
        t.isFree n = false ∧ Tab.find? t.main.quar n = none ∧ ∀ e ∈ t.main.index, e.2.slot ≠ n) ∧
      (∀ n, n < 1024 → (s.store.slot n).ecc.head? ≠ some .double →
        ((s.store.slot n).val.ident.inUse = false →
          t.isFree n = true ∧ Tab.find? t.main.quar n = none) ∧
        ((s.store.slot n).val.ident.inUse = true → t.isFree n = false ∧
          (key n = none → Tab.find? t.main.quar n = some none) ∧
          ∀ k, key n = some k →
            ((s.store.slot n).val.ident.state = .quarantined →
              Tab.find? t.main.quar n = some (some k) ∧
              t.lookup k = some { slot := n, quarantined := true, holders := [] }) ∧
            ((s.store.slot n).val.ident.state ≠ .quarantined →
              Tab.find? t.main.quar n = none ∧
              t.lookup k = some
                { slot := n, quarantined := false, holders := readableHolders (s.store.slot n) } ∧
              ∀ g ∈ readableGrants (s.store.slot n), g.gstate = .live → ∃ e ∈ t.main.sched,
                e.kind = .grantExpiry ∧ e.ref = .grant n g.token ∧ e.deadline = g.expiry))) ∧
      (∀ c, (t.noticesOf c).queue = []) ∧
      ∀ c, c < 16 →
        (se c = none ∨ (∃ e, se c = some e ∧ e.state = .free) → t.vol c = s.vol c) ∧
        ∀ e, se c = some e → e.state ≠ .free → (t.vol c).restarted = true ∧
          (e.state = .opened → (t.vol c).deadline = some (tickPlus s.now e.hbTerm.toNat) ∧
            ∃ x ∈ t.main.sched, x.kind = .heartbeat ∧ x.ref = .session c ∧
              x.deadline = tickPlus s.now e.hbTerm.toNat) ∧
          (e.state = .suspect → (t.vol c).deadline = some (tickPlus s.now (2 * e.hbTerm.toNat)) ∧
            ∃ x ∈ t.main.sched, x.kind = .grace ∧ x.ref = .session c ∧
              x.deadline = tickPlus s.now (2 * e.hbTerm.toNat))

/-! ### The commit, the holding rules, handoff and the schedule -/

/-- A loss of power at any point of a commit leaves, after the replay at restart, the record area and the control area
either as they were or as the whole commit makes them (R138, R139, R140, R166). That the loss of power is an operand,
the number of word writes made before it, is the model's choice of form (log 20). Work that a loss of VDD or a fall of
RESET# stops before its first word write leaves the store as it was, and an ACQUIRE that grants at once, stopped
behind any number of word writes, leaves what that many word writes of one commit of record and counter leave
(R30, R166). -/
def Obligations.CommitIsAtomicUnderPowerLoss : Prop :=
  (∀ (s : State) (c : Commit) (n : Nat) (t : State), s.canonical → s.cut = some n →
    s.store.intent.marker = Copies.two false → c.images.length ≤ 4 →
    t = (((s.commit c).setCut none).setMain (Main.atReset false 0)).replay →
    (t.store.coreEq s.store ∨ t.store.coreEq (s.store.putCommit c)) ∧ ¬ t.inFault ∧
      t.store.intent.marker = Copies.two false) ∧
  (∀ (s t : State) (w : Work) (supsel : BitVec 2), exec (.vddLoss w 0) s = .next t ∨
    exec (.mainReset .resetLow supsel w 0) s = .next t → t.store = s.store) ∧
  ∀ (s s1 t : State) (f : Frame) (k : Key) (n j : Nat) (m : Mode) (r : Rec) (tok : Token) (term : Term)
    (g : Grant), s.between → s.takenTo (.acquire f) f s1 → k = keyAt f.args 0 → ¬ reservedKey k →
    modeOf (byteAt f.args 4) = some m → s1.atRest k n → r = s1.recordOf n → r.holding →
    r.grantOf f.client.toNat = none → r.admissible f.client.toNat m → s1.queueOf n = [] →
    term = r.termFor (termAt f.args 5) → term ≤ r.maxTerm → tokenWord.holds s1 tok →
    g = Grant.fresh s.now f.client.toNat m term tok → s.power.vdd = true →
    exec (.vddLoss .frame j) s = .next t →
    t.store = ((s1.setCut (some j)).commit
      { images := [.slot n true (r.granted g).image], token := some (tokenNext tok) }).store

/-- The holding rules of R23 are kept by lazy expiry, by the issue of an admissible request, by handoff, by the
removal of a grant, by the changes that DOWNGRADE (to SHARED) and RENEW (of term and expiry) make, and by every form
of settle work on a record. -/
def Obligations.HoldingRulesKept : Prop :=
  ∀ (b : Bench) (now : Tick), b.body.holding →
    (b.lazyExpiry now).body.holding ∧ (b.handoff now).body.holding ∧
    (∀ c m term, b.body.admissible c m → (b.issue now c m term).body.holding) ∧
    (∀ g, (b.removeGrant g).body.holding) ∧
    (∀ tok : Token, (b.changeGrant tok fun x => { x with mode := .shared }).body.holding) ∧
    (∀ (tok : Token) (term : Term) (e : Tick),
      (b.changeGrant tok fun x => { x with term := term, expiry := e }).body.holding) ∧
    (∀ form c, (b.settleWork form now c).body.holding)

/-- When handoff ends, no waiter stands at the head of the queue whose request the record admits (R49, R51), and the
tokens that it issued are the consecutive values of the counter from where it stood, short of the counter's end
(R25, R53). -/
def Obligations.HandoffEndsAtAnInadmissibleHead : Prop :=
  ∀ (b b' : Bench) (now : Tick), b' = b.handoff now → b.body.holding →
    (∀ p, b'.queue.head? = some p → ¬ b'.body.admissible p.2.client p.2.mode) ∧
    (∃ gone, b.queue = gone ++ b'.queue) ∧
    (b.token.toNat + b.queue.length < 2 ^ 48 →
      ∃ new, b'.body.grants = b.body.grants ++ new ∧ b'.issued = b.issued + new.length ∧
        b'.token = b.token + BitVec.ofNat 48 new.length ∧
        ∀ p ∈ new.zipIdx, p.1.token = b.token + BitVec.ofNat 48 p.2 ∧ p.1.gstate = .live ∧
          p.1.expiry = tickPlus now p.1.term.toNat)

/-- A settle's work on a record whose tokens, waiters and waiting clients are distinct (R60, R75, R76, R82): RELEASE
leaves the client neither grant nor waiter there; ORPHAN leaves its grants in place, none of them LIVE, and no
waiter; REVIVE makes its ORPHANED grant LIVE from now with its token, mode and term as they were. Grants of other
clients stay. -/
def Obligations.SettleWorkByAction : Prop :=
  ∀ (b : Bench) (now : Tick) (c : Nat), b.body.holding → (b.body.grants.map Grant.token).Nodup →
    (b.queue.map fun p => p.2.client).Nodup → (b.queue.map Prod.fst).Nodup →
    ((∀ g ∈ (b.settleWork .release now c).body.grants, g.client ≠ c) ∧
      (∀ p ∈ (b.settleWork .release now c).queue, p.2.client ≠ c)) ∧
    ((∀ g ∈ (b.settleWork .orphan now c).body.grants, g.client = c → g.gstate = .orphaned) ∧
      (∀ p ∈ (b.settleWork .orphan now c).queue, p.2.client ≠ c) ∧
      (∀ g ∈ b.body.grants, g.client = c →
        { g with gstate := .orphaned } ∈ (b.settleWork .orphan now c).body.grants)) ∧
    (∀ g ∈ b.body.grants, g.client = c → g.gstate = .orphaned →
      { g with gstate := .live, expiry := tickPlus now g.term.toNat } ∈
        (b.settleWork .revive now c).body.grants) ∧
    ∀ form, ∀ g ∈ b.body.grants, g.client ≠ c → g ∈ (b.settleWork form now c).body.grants

/-- Uncorrectable words (R135, R136, R142). A LOOKUP that finds one in words 1 to 9 of its record quarantines the
slot: word 0 is committed QUARANTINED, the index names no holder of it any more, the schedule entries of the holders
it named are gone, each with room in its queue is told REVOKED, and the answer is QUARANTINED (a record without
waiters is stated; that its zone byte is the one that word 0 holds is the model's choice: log 13). A ZONE READ that finds both copies of the map uncorrectable enters STORE_FAULT mode with control
word 16 lost, and answers STORE_FAULT with nothing committed. -/
def Obligations.UncorrectableWordsAreWithdrawn : Prop :=
  (∀ (s s1 : State) (f : Frame) (k : Key) (h : List (Nat × Token)) (n j : Nat) (b : Block SlotImg),
    s.between → s.takenTo (.lookup f) f s1 → ¬ s.inFault → k = keyAt f.args 0 → ¬ reservedKey k →
    s1.lookup k = some { slot := n, quarantined := false, holders := h } →
    (∀ e ∈ s1.main.index, e.2.slot = n → e = (k.toNat, { slot := n, quarantined := false, holders := h })) →
    b = s1.store.slot n → 1 ≤ j → j < 10 → b.ecc = tenGood.set j .double →
    b.val.ident.key = some k → s1.queueOf n = [] →
    ∃ t, exec (.lookup f) s = .next t ∧
      t.store.coreEq (s1.store.setSlot n
        { b with val := { b.val with ident := { b.val.ident with inUse := true, state := .quarantined } } }) ∧
      t.lookup k = some { slot := n, quarantined := true, holders := [] } ∧
      Tab.find? t.main.quar n = some (some k) ∧ t.isFree n = false ∧
      t.main.mon.uncorrected = min (s1.main.mon.uncorrected + 1) 255 ∧
      t.main.sched = h.foldl (fun q x => schedDrop (.grant n x.2) q) s1.main.sched ∧
      (∀ c, (s1.session c).keepsNotices = true →
        (s1.noticesOf c).queue.length + h.length ≤ 16 →
        (t.noticesOf c).queue = (s1.noticesOf c).queue ++ (h.filter fun x => x.1 == c).map fun x =>
          { kind := .revoked, key := k, token := x.2, waiter := none, cause := .quarantine,
            tick := s.now }) ∧
      (t.port f.port).respBuf = responseBytes 0x22 s.now
        { status := .quarantined,
          payload := keyBytes k ++ [3, b.val.ident.zone.setWidth 8] ++ List.replicate 14 0 }) ∧
  ∀ (s s1 : State) (f : Frame), s.takenTo (.zoneRead f) f s1 →
    s1.store.zone.c1.ecc = sevenGood.set 0 .double → s1.store.zone.c2.ecc = sevenGood.set 6 .double →
    ∃ t, exec (.zoneRead f) s = .next t ∧ t.store = s.store ∧ t.inFault ∧
      t.main.mon.lost = s.main.mon.lost ||| (1 : BitVec 24) <<< 16 ∧
      t.main.mon.uncorrected = min (s.main.mon.uncorrected + 2) 255 ∧
      (t.port f.port).respBuf = responseBytes 0x82 s.now (.bare .storeFault)

/-- The three requests of the schedule (R93): an insert or a move leaves one entry of its reference, behind every
entry with a deadline at or before its own, DUE exactly when its deadline is reached; a move keeps the kind of an
entry that is held and otherwise takes the kind it names; a remove takes the entry out, or does nothing; every other
entry keeps its place in the order. -/
def Obligations.ScheduleRequestsKeepTheOrder : Prop :=
  ∀ (now : Tick) (k : Kind) (r : Ref) (d : Tick) (es : List Entry),
    es.Pairwise (fun a b => a.deadline ≤ b.deadline) → (es.map Entry.ref).Nodup →
    (∃ pre post, schedInsert now k r d es =
        pre ++ { kind := k, ref := r, deadline := d, due := decide (d ≤ now) } :: post ∧
      pre ++ post = es.filter (fun e => e.ref != r) ∧ (∀ e ∈ pre, e.deadline ≤ d) ∧
      ∀ e ∈ post, d < e.deadline) ∧
    (∀ e ∈ es, e.ref = r → schedMove now k r d es = schedInsert now e.kind r d es) ∧
    ((∀ e ∈ es, e.ref ≠ r) → schedMove now k r d es = schedInsert now k r d es) ∧
    schedDrop r es = es.filter (fun e => e.ref != r) ∧
    ((∀ e ∈ es, e.ref ≠ r) → schedDrop r es = es)
end

