-- ==== Sys2Proof/Laws/State.lean ====
section
/-! SUPPORT. One lemma for each field of the state and each named update, so that no proof unfolds a record
update. -/

namespace Sys2Proof.Machine

variable (s : State)

@[simp] theorem State.setPending_pending (x : List Instr) : (s.setPending x).pending = x := rfl
@[simp] theorem State.setPending_power (x : List Instr) : (s.setPending x).power = s.power := rfl
@[simp] theorem State.setPending_tb (x : List Instr) : (s.setPending x).tb = s.tb := rfl
@[simp] theorem State.setPending_store (x : List Instr) : (s.setPending x).store = s.store := rfl
@[simp] theorem State.setPending_cut (x : List Instr) : (s.setPending x).cut = s.cut := rfl
@[simp] theorem State.setPending_supPort (x : List Instr) : (s.setPending x).main.supPort = s.main.supPort := rfl
@[simp] theorem State.setPending_stage (x : List Instr) : (s.setPending x).main.stage = s.main.stage := rfl
@[simp] theorem State.setPending_slotCursor (x : List Instr) : (s.setPending x).main.slotCursor = s.main.slotCursor := rfl
@[simp] theorem State.setPending_mon (x : List Instr) : (s.setPending x).main.mon = s.main.mon := rfl
@[simp] theorem State.setPending_index (x : List Instr) : (s.setPending x).main.index = s.main.index := rfl
@[simp] theorem State.setPending_free (x : List Instr) : (s.setPending x).main.free = s.main.free := rfl
@[simp] theorem State.setPending_quar (x : List Instr) : (s.setPending x).main.quar = s.main.quar := rfl
@[simp] theorem State.setPending_pool (x : List Instr) : (s.setPending x).main.pool = s.main.pool := rfl
@[simp] theorem State.setPending_queues (x : List Instr) : (s.setPending x).main.queues = s.main.queues := rfl
@[simp] theorem State.setPending_sched (x : List Instr) : (s.setPending x).main.sched = s.main.sched := rfl
@[simp] theorem State.setPending_sessV (x : List Instr) : (s.setPending x).main.sessV = s.main.sessV := rfl
@[simp] theorem State.setPending_notices (x : List Instr) : (s.setPending x).main.notices = s.main.notices := rfl
@[simp] theorem State.setPending_attn (x : List Instr) : (s.setPending x).main.attn = s.main.attn := rfl
@[simp] theorem State.setPending_audit (x : List Instr) : (s.setPending x).main.audit = s.main.audit := rfl
@[simp] theorem State.setPending_ports (x : List Instr) : (s.setPending x).main.ports = s.main.ports := rfl
@[simp] theorem State.setPending_arbiter (x : List Instr) : (s.setPending x).main.arbiter = s.main.arbiter := rfl
@[simp] theorem State.setPending_main (x : List Instr) : (s.setPending x).main = s.main := rfl
@[simp] theorem State.setPower_pending (x : Power) : (s.setPower x).pending = s.pending := rfl
@[simp] theorem State.setPower_power (x : Power) : (s.setPower x).power = x := rfl
@[simp] theorem State.setPower_tb (x : Power) : (s.setPower x).tb = s.tb := rfl
@[simp] theorem State.setPower_store (x : Power) : (s.setPower x).store = s.store := rfl
@[simp] theorem State.setPower_cut (x : Power) : (s.setPower x).cut = s.cut := rfl
@[simp] theorem State.setPower_supPort (x : Power) : (s.setPower x).main.supPort = s.main.supPort := rfl
@[simp] theorem State.setPower_stage (x : Power) : (s.setPower x).main.stage = s.main.stage := rfl
@[simp] theorem State.setPower_slotCursor (x : Power) : (s.setPower x).main.slotCursor = s.main.slotCursor := rfl
@[simp] theorem State.setPower_mon (x : Power) : (s.setPower x).main.mon = s.main.mon := rfl
@[simp] theorem State.setPower_index (x : Power) : (s.setPower x).main.index = s.main.index := rfl
@[simp] theorem State.setPower_free (x : Power) : (s.setPower x).main.free = s.main.free := rfl
@[simp] theorem State.setPower_quar (x : Power) : (s.setPower x).main.quar = s.main.quar := rfl
@[simp] theorem State.setPower_pool (x : Power) : (s.setPower x).main.pool = s.main.pool := rfl
@[simp] theorem State.setPower_queues (x : Power) : (s.setPower x).main.queues = s.main.queues := rfl
@[simp] theorem State.setPower_sched (x : Power) : (s.setPower x).main.sched = s.main.sched := rfl
@[simp] theorem State.setPower_sessV (x : Power) : (s.setPower x).main.sessV = s.main.sessV := rfl
@[simp] theorem State.setPower_notices (x : Power) : (s.setPower x).main.notices = s.main.notices := rfl
@[simp] theorem State.setPower_attn (x : Power) : (s.setPower x).main.attn = s.main.attn := rfl
@[simp] theorem State.setPower_audit (x : Power) : (s.setPower x).main.audit = s.main.audit := rfl
@[simp] theorem State.setPower_ports (x : Power) : (s.setPower x).main.ports = s.main.ports := rfl
@[simp] theorem State.setPower_arbiter (x : Power) : (s.setPower x).main.arbiter = s.main.arbiter := rfl
@[simp] theorem State.setPower_main (x : Power) : (s.setPower x).main = s.main := rfl
@[simp] theorem State.setTb_pending (x : Timebase) : (s.setTb x).pending = s.pending := rfl
@[simp] theorem State.setTb_power (x : Timebase) : (s.setTb x).power = s.power := rfl
@[simp] theorem State.setTb_tb (x : Timebase) : (s.setTb x).tb = x := rfl
@[simp] theorem State.setTb_store (x : Timebase) : (s.setTb x).store = s.store := rfl
@[simp] theorem State.setTb_cut (x : Timebase) : (s.setTb x).cut = s.cut := rfl
@[simp] theorem State.setTb_supPort (x : Timebase) : (s.setTb x).main.supPort = s.main.supPort := rfl
@[simp] theorem State.setTb_stage (x : Timebase) : (s.setTb x).main.stage = s.main.stage := rfl
@[simp] theorem State.setTb_slotCursor (x : Timebase) : (s.setTb x).main.slotCursor = s.main.slotCursor := rfl
@[simp] theorem State.setTb_mon (x : Timebase) : (s.setTb x).main.mon = s.main.mon := rfl
@[simp] theorem State.setTb_index (x : Timebase) : (s.setTb x).main.index = s.main.index := rfl
@[simp] theorem State.setTb_free (x : Timebase) : (s.setTb x).main.free = s.main.free := rfl
@[simp] theorem State.setTb_quar (x : Timebase) : (s.setTb x).main.quar = s.main.quar := rfl
@[simp] theorem State.setTb_pool (x : Timebase) : (s.setTb x).main.pool = s.main.pool := rfl
@[simp] theorem State.setTb_queues (x : Timebase) : (s.setTb x).main.queues = s.main.queues := rfl
@[simp] theorem State.setTb_sched (x : Timebase) : (s.setTb x).main.sched = s.main.sched := rfl
@[simp] theorem State.setTb_sessV (x : Timebase) : (s.setTb x).main.sessV = s.main.sessV := rfl
@[simp] theorem State.setTb_notices (x : Timebase) : (s.setTb x).main.notices = s.main.notices := rfl
@[simp] theorem State.setTb_attn (x : Timebase) : (s.setTb x).main.attn = s.main.attn := rfl
@[simp] theorem State.setTb_audit (x : Timebase) : (s.setTb x).main.audit = s.main.audit := rfl
@[simp] theorem State.setTb_ports (x : Timebase) : (s.setTb x).main.ports = s.main.ports := rfl
@[simp] theorem State.setTb_arbiter (x : Timebase) : (s.setTb x).main.arbiter = s.main.arbiter := rfl
@[simp] theorem State.setTb_main (x : Timebase) : (s.setTb x).main = s.main := rfl
@[simp] theorem State.setStore_pending (x : Store) : (s.setStore x).pending = s.pending := rfl
@[simp] theorem State.setStore_power (x : Store) : (s.setStore x).power = s.power := rfl
@[simp] theorem State.setStore_tb (x : Store) : (s.setStore x).tb = s.tb := rfl
@[simp] theorem State.setStore_store (x : Store) : (s.setStore x).store = x := rfl
@[simp] theorem State.setStore_cut (x : Store) : (s.setStore x).cut = s.cut := rfl
@[simp] theorem State.setStore_supPort (x : Store) : (s.setStore x).main.supPort = s.main.supPort := rfl
@[simp] theorem State.setStore_stage (x : Store) : (s.setStore x).main.stage = s.main.stage := rfl
@[simp] theorem State.setStore_slotCursor (x : Store) : (s.setStore x).main.slotCursor = s.main.slotCursor := rfl
@[simp] theorem State.setStore_mon (x : Store) : (s.setStore x).main.mon = s.main.mon := rfl
@[simp] theorem State.setStore_index (x : Store) : (s.setStore x).main.index = s.main.index := rfl
@[simp] theorem State.setStore_free (x : Store) : (s.setStore x).main.free = s.main.free := rfl
@[simp] theorem State.setStore_quar (x : Store) : (s.setStore x).main.quar = s.main.quar := rfl
@[simp] theorem State.setStore_pool (x : Store) : (s.setStore x).main.pool = s.main.pool := rfl
@[simp] theorem State.setStore_queues (x : Store) : (s.setStore x).main.queues = s.main.queues := rfl
@[simp] theorem State.setStore_sched (x : Store) : (s.setStore x).main.sched = s.main.sched := rfl
@[simp] theorem State.setStore_sessV (x : Store) : (s.setStore x).main.sessV = s.main.sessV := rfl
@[simp] theorem State.setStore_notices (x : Store) : (s.setStore x).main.notices = s.main.notices := rfl
@[simp] theorem State.setStore_attn (x : Store) : (s.setStore x).main.attn = s.main.attn := rfl
@[simp] theorem State.setStore_audit (x : Store) : (s.setStore x).main.audit = s.main.audit := rfl
@[simp] theorem State.setStore_ports (x : Store) : (s.setStore x).main.ports = s.main.ports := rfl
@[simp] theorem State.setStore_arbiter (x : Store) : (s.setStore x).main.arbiter = s.main.arbiter := rfl
@[simp] theorem State.setStore_main (x : Store) : (s.setStore x).main = s.main := rfl
@[simp] theorem State.setCut_pending (x : Option Nat) : (s.setCut x).pending = s.pending := rfl
@[simp] theorem State.setCut_power (x : Option Nat) : (s.setCut x).power = s.power := rfl
@[simp] theorem State.setCut_tb (x : Option Nat) : (s.setCut x).tb = s.tb := rfl
@[simp] theorem State.setCut_store (x : Option Nat) : (s.setCut x).store = s.store := rfl
@[simp] theorem State.setCut_cut (x : Option Nat) : (s.setCut x).cut = x := rfl
@[simp] theorem State.setCut_supPort (x : Option Nat) : (s.setCut x).main.supPort = s.main.supPort := rfl
@[simp] theorem State.setCut_stage (x : Option Nat) : (s.setCut x).main.stage = s.main.stage := rfl
@[simp] theorem State.setCut_slotCursor (x : Option Nat) : (s.setCut x).main.slotCursor = s.main.slotCursor := rfl
@[simp] theorem State.setCut_mon (x : Option Nat) : (s.setCut x).main.mon = s.main.mon := rfl
@[simp] theorem State.setCut_index (x : Option Nat) : (s.setCut x).main.index = s.main.index := rfl
@[simp] theorem State.setCut_free (x : Option Nat) : (s.setCut x).main.free = s.main.free := rfl
@[simp] theorem State.setCut_quar (x : Option Nat) : (s.setCut x).main.quar = s.main.quar := rfl
@[simp] theorem State.setCut_pool (x : Option Nat) : (s.setCut x).main.pool = s.main.pool := rfl
@[simp] theorem State.setCut_queues (x : Option Nat) : (s.setCut x).main.queues = s.main.queues := rfl
@[simp] theorem State.setCut_sched (x : Option Nat) : (s.setCut x).main.sched = s.main.sched := rfl
@[simp] theorem State.setCut_sessV (x : Option Nat) : (s.setCut x).main.sessV = s.main.sessV := rfl
@[simp] theorem State.setCut_notices (x : Option Nat) : (s.setCut x).main.notices = s.main.notices := rfl
@[simp] theorem State.setCut_attn (x : Option Nat) : (s.setCut x).main.attn = s.main.attn := rfl
@[simp] theorem State.setCut_audit (x : Option Nat) : (s.setCut x).main.audit = s.main.audit := rfl
@[simp] theorem State.setCut_ports (x : Option Nat) : (s.setCut x).main.ports = s.main.ports := rfl
@[simp] theorem State.setCut_arbiter (x : Option Nat) : (s.setCut x).main.arbiter = s.main.arbiter := rfl
@[simp] theorem State.setCut_main (x : Option Nat) : (s.setCut x).main = s.main := rfl
@[simp] theorem State.setSupPort_pending (x : Option PortId) : (s.setSupPort x).pending = s.pending := rfl
@[simp] theorem State.setSupPort_power (x : Option PortId) : (s.setSupPort x).power = s.power := rfl
@[simp] theorem State.setSupPort_tb (x : Option PortId) : (s.setSupPort x).tb = s.tb := rfl
@[simp] theorem State.setSupPort_store (x : Option PortId) : (s.setSupPort x).store = s.store := rfl
@[simp] theorem State.setSupPort_cut (x : Option PortId) : (s.setSupPort x).cut = s.cut := rfl
@[simp] theorem State.setSupPort_supPort (x : Option PortId) : (s.setSupPort x).main.supPort = x := rfl
@[simp] theorem State.setSupPort_stage (x : Option PortId) : (s.setSupPort x).main.stage = s.main.stage := rfl
@[simp] theorem State.setSupPort_slotCursor (x : Option PortId) : (s.setSupPort x).main.slotCursor = s.main.slotCursor := rfl
@[simp] theorem State.setSupPort_mon (x : Option PortId) : (s.setSupPort x).main.mon = s.main.mon := rfl
@[simp] theorem State.setSupPort_index (x : Option PortId) : (s.setSupPort x).main.index = s.main.index := rfl
@[simp] theorem State.setSupPort_free (x : Option PortId) : (s.setSupPort x).main.free = s.main.free := rfl
@[simp] theorem State.setSupPort_quar (x : Option PortId) : (s.setSupPort x).main.quar = s.main.quar := rfl
@[simp] theorem State.setSupPort_pool (x : Option PortId) : (s.setSupPort x).main.pool = s.main.pool := rfl
@[simp] theorem State.setSupPort_queues (x : Option PortId) : (s.setSupPort x).main.queues = s.main.queues := rfl
@[simp] theorem State.setSupPort_sched (x : Option PortId) : (s.setSupPort x).main.sched = s.main.sched := rfl
@[simp] theorem State.setSupPort_sessV (x : Option PortId) : (s.setSupPort x).main.sessV = s.main.sessV := rfl
@[simp] theorem State.setSupPort_notices (x : Option PortId) : (s.setSupPort x).main.notices = s.main.notices := rfl
@[simp] theorem State.setSupPort_attn (x : Option PortId) : (s.setSupPort x).main.attn = s.main.attn := rfl
@[simp] theorem State.setSupPort_audit (x : Option PortId) : (s.setSupPort x).main.audit = s.main.audit := rfl
@[simp] theorem State.setSupPort_ports (x : Option PortId) : (s.setSupPort x).main.ports = s.main.ports := rfl
@[simp] theorem State.setSupPort_arbiter (x : Option PortId) : (s.setSupPort x).main.arbiter = s.main.arbiter := rfl
@[simp] theorem State.setStage_pending (x : Nat) : (s.setStage x).pending = s.pending := rfl
@[simp] theorem State.setStage_power (x : Nat) : (s.setStage x).power = s.power := rfl
@[simp] theorem State.setStage_tb (x : Nat) : (s.setStage x).tb = s.tb := rfl
@[simp] theorem State.setStage_store (x : Nat) : (s.setStage x).store = s.store := rfl
@[simp] theorem State.setStage_cut (x : Nat) : (s.setStage x).cut = s.cut := rfl
@[simp] theorem State.setStage_supPort (x : Nat) : (s.setStage x).main.supPort = s.main.supPort := rfl
@[simp] theorem State.setStage_stage (x : Nat) : (s.setStage x).main.stage = x := rfl
@[simp] theorem State.setStage_slotCursor (x : Nat) : (s.setStage x).main.slotCursor = s.main.slotCursor := rfl
@[simp] theorem State.setStage_mon (x : Nat) : (s.setStage x).main.mon = s.main.mon := rfl
@[simp] theorem State.setStage_index (x : Nat) : (s.setStage x).main.index = s.main.index := rfl
@[simp] theorem State.setStage_free (x : Nat) : (s.setStage x).main.free = s.main.free := rfl
@[simp] theorem State.setStage_quar (x : Nat) : (s.setStage x).main.quar = s.main.quar := rfl
@[simp] theorem State.setStage_pool (x : Nat) : (s.setStage x).main.pool = s.main.pool := rfl
@[simp] theorem State.setStage_queues (x : Nat) : (s.setStage x).main.queues = s.main.queues := rfl
@[simp] theorem State.setStage_sched (x : Nat) : (s.setStage x).main.sched = s.main.sched := rfl
@[simp] theorem State.setStage_sessV (x : Nat) : (s.setStage x).main.sessV = s.main.sessV := rfl
@[simp] theorem State.setStage_notices (x : Nat) : (s.setStage x).main.notices = s.main.notices := rfl
@[simp] theorem State.setStage_attn (x : Nat) : (s.setStage x).main.attn = s.main.attn := rfl
@[simp] theorem State.setStage_audit (x : Nat) : (s.setStage x).main.audit = s.main.audit := rfl
@[simp] theorem State.setStage_ports (x : Nat) : (s.setStage x).main.ports = s.main.ports := rfl
@[simp] theorem State.setStage_arbiter (x : Nat) : (s.setStage x).main.arbiter = s.main.arbiter := rfl
@[simp] theorem State.setSlotCursor_pending (x : Nat) : (s.setSlotCursor x).pending = s.pending := rfl
@[simp] theorem State.setSlotCursor_power (x : Nat) : (s.setSlotCursor x).power = s.power := rfl
@[simp] theorem State.setSlotCursor_tb (x : Nat) : (s.setSlotCursor x).tb = s.tb := rfl
@[simp] theorem State.setSlotCursor_store (x : Nat) : (s.setSlotCursor x).store = s.store := rfl
@[simp] theorem State.setSlotCursor_cut (x : Nat) : (s.setSlotCursor x).cut = s.cut := rfl
@[simp] theorem State.setSlotCursor_supPort (x : Nat) : (s.setSlotCursor x).main.supPort = s.main.supPort := rfl
@[simp] theorem State.setSlotCursor_stage (x : Nat) : (s.setSlotCursor x).main.stage = s.main.stage := rfl
@[simp] theorem State.setSlotCursor_slotCursor (x : Nat) : (s.setSlotCursor x).main.slotCursor = x := rfl
@[simp] theorem State.setSlotCursor_mon (x : Nat) : (s.setSlotCursor x).main.mon = s.main.mon := rfl
@[simp] theorem State.setSlotCursor_index (x : Nat) : (s.setSlotCursor x).main.index = s.main.index := rfl
@[simp] theorem State.setSlotCursor_free (x : Nat) : (s.setSlotCursor x).main.free = s.main.free := rfl
@[simp] theorem State.setSlotCursor_quar (x : Nat) : (s.setSlotCursor x).main.quar = s.main.quar := rfl
@[simp] theorem State.setSlotCursor_pool (x : Nat) : (s.setSlotCursor x).main.pool = s.main.pool := rfl
@[simp] theorem State.setSlotCursor_queues (x : Nat) : (s.setSlotCursor x).main.queues = s.main.queues := rfl
@[simp] theorem State.setSlotCursor_sched (x : Nat) : (s.setSlotCursor x).main.sched = s.main.sched := rfl
@[simp] theorem State.setSlotCursor_sessV (x : Nat) : (s.setSlotCursor x).main.sessV = s.main.sessV := rfl
@[simp] theorem State.setSlotCursor_notices (x : Nat) : (s.setSlotCursor x).main.notices = s.main.notices := rfl
@[simp] theorem State.setSlotCursor_attn (x : Nat) : (s.setSlotCursor x).main.attn = s.main.attn := rfl
@[simp] theorem State.setSlotCursor_audit (x : Nat) : (s.setSlotCursor x).main.audit = s.main.audit := rfl
@[simp] theorem State.setSlotCursor_ports (x : Nat) : (s.setSlotCursor x).main.ports = s.main.ports := rfl
@[simp] theorem State.setSlotCursor_arbiter (x : Nat) : (s.setSlotCursor x).main.arbiter = s.main.arbiter := rfl
@[simp] theorem State.setMon_pending (x : Monitor) : (s.setMon x).pending = s.pending := rfl
@[simp] theorem State.setMon_power (x : Monitor) : (s.setMon x).power = s.power := rfl
@[simp] theorem State.setMon_tb (x : Monitor) : (s.setMon x).tb = s.tb := rfl
@[simp] theorem State.setMon_store (x : Monitor) : (s.setMon x).store = s.store := rfl
@[simp] theorem State.setMon_cut (x : Monitor) : (s.setMon x).cut = s.cut := rfl
@[simp] theorem State.setMon_supPort (x : Monitor) : (s.setMon x).main.supPort = s.main.supPort := rfl
@[simp] theorem State.setMon_stage (x : Monitor) : (s.setMon x).main.stage = s.main.stage := rfl
@[simp] theorem State.setMon_slotCursor (x : Monitor) : (s.setMon x).main.slotCursor = s.main.slotCursor := rfl
@[simp] theorem State.setMon_mon (x : Monitor) : (s.setMon x).main.mon = x := rfl
@[simp] theorem State.setMon_index (x : Monitor) : (s.setMon x).main.index = s.main.index := rfl
@[simp] theorem State.setMon_free (x : Monitor) : (s.setMon x).main.free = s.main.free := rfl
@[simp] theorem State.setMon_quar (x : Monitor) : (s.setMon x).main.quar = s.main.quar := rfl
@[simp] theorem State.setMon_pool (x : Monitor) : (s.setMon x).main.pool = s.main.pool := rfl
@[simp] theorem State.setMon_queues (x : Monitor) : (s.setMon x).main.queues = s.main.queues := rfl
@[simp] theorem State.setMon_sched (x : Monitor) : (s.setMon x).main.sched = s.main.sched := rfl
@[simp] theorem State.setMon_sessV (x : Monitor) : (s.setMon x).main.sessV = s.main.sessV := rfl
@[simp] theorem State.setMon_notices (x : Monitor) : (s.setMon x).main.notices = s.main.notices := rfl
@[simp] theorem State.setMon_attn (x : Monitor) : (s.setMon x).main.attn = s.main.attn := rfl
@[simp] theorem State.setMon_audit (x : Monitor) : (s.setMon x).main.audit = s.main.audit := rfl
@[simp] theorem State.setMon_ports (x : Monitor) : (s.setMon x).main.ports = s.main.ports := rfl
@[simp] theorem State.setMon_arbiter (x : Monitor) : (s.setMon x).main.arbiter = s.main.arbiter := rfl
@[simp] theorem State.setIndex_pending (x : Tab IndexEntry) : (s.setIndex x).pending = s.pending := rfl
@[simp] theorem State.setIndex_power (x : Tab IndexEntry) : (s.setIndex x).power = s.power := rfl
@[simp] theorem State.setIndex_tb (x : Tab IndexEntry) : (s.setIndex x).tb = s.tb := rfl
@[simp] theorem State.setIndex_store (x : Tab IndexEntry) : (s.setIndex x).store = s.store := rfl
@[simp] theorem State.setIndex_cut (x : Tab IndexEntry) : (s.setIndex x).cut = s.cut := rfl
@[simp] theorem State.setIndex_supPort (x : Tab IndexEntry) : (s.setIndex x).main.supPort = s.main.supPort := rfl
@[simp] theorem State.setIndex_stage (x : Tab IndexEntry) : (s.setIndex x).main.stage = s.main.stage := rfl
@[simp] theorem State.setIndex_slotCursor (x : Tab IndexEntry) : (s.setIndex x).main.slotCursor = s.main.slotCursor := rfl
@[simp] theorem State.setIndex_mon (x : Tab IndexEntry) : (s.setIndex x).main.mon = s.main.mon := rfl
@[simp] theorem State.setIndex_index (x : Tab IndexEntry) : (s.setIndex x).main.index = x := rfl
@[simp] theorem State.setIndex_free (x : Tab IndexEntry) : (s.setIndex x).main.free = s.main.free := rfl
@[simp] theorem State.setIndex_quar (x : Tab IndexEntry) : (s.setIndex x).main.quar = s.main.quar := rfl
@[simp] theorem State.setIndex_pool (x : Tab IndexEntry) : (s.setIndex x).main.pool = s.main.pool := rfl
@[simp] theorem State.setIndex_queues (x : Tab IndexEntry) : (s.setIndex x).main.queues = s.main.queues := rfl
@[simp] theorem State.setIndex_sched (x : Tab IndexEntry) : (s.setIndex x).main.sched = s.main.sched := rfl
@[simp] theorem State.setIndex_sessV (x : Tab IndexEntry) : (s.setIndex x).main.sessV = s.main.sessV := rfl
@[simp] theorem State.setIndex_notices (x : Tab IndexEntry) : (s.setIndex x).main.notices = s.main.notices := rfl
@[simp] theorem State.setIndex_attn (x : Tab IndexEntry) : (s.setIndex x).main.attn = s.main.attn := rfl
@[simp] theorem State.setIndex_audit (x : Tab IndexEntry) : (s.setIndex x).main.audit = s.main.audit := rfl
@[simp] theorem State.setIndex_ports (x : Tab IndexEntry) : (s.setIndex x).main.ports = s.main.ports := rfl
@[simp] theorem State.setIndex_arbiter (x : Tab IndexEntry) : (s.setIndex x).main.arbiter = s.main.arbiter := rfl
@[simp] theorem State.setFree_pending (x : BitVec 1024) : (s.setFree x).pending = s.pending := rfl
@[simp] theorem State.setFree_power (x : BitVec 1024) : (s.setFree x).power = s.power := rfl
@[simp] theorem State.setFree_tb (x : BitVec 1024) : (s.setFree x).tb = s.tb := rfl
@[simp] theorem State.setFree_store (x : BitVec 1024) : (s.setFree x).store = s.store := rfl
@[simp] theorem State.setFree_cut (x : BitVec 1024) : (s.setFree x).cut = s.cut := rfl
@[simp] theorem State.setFree_supPort (x : BitVec 1024) : (s.setFree x).main.supPort = s.main.supPort := rfl
@[simp] theorem State.setFree_stage (x : BitVec 1024) : (s.setFree x).main.stage = s.main.stage := rfl
@[simp] theorem State.setFree_slotCursor (x : BitVec 1024) : (s.setFree x).main.slotCursor = s.main.slotCursor := rfl
@[simp] theorem State.setFree_mon (x : BitVec 1024) : (s.setFree x).main.mon = s.main.mon := rfl
@[simp] theorem State.setFree_index (x : BitVec 1024) : (s.setFree x).main.index = s.main.index := rfl
@[simp] theorem State.setFree_free (x : BitVec 1024) : (s.setFree x).main.free = x := rfl
@[simp] theorem State.setFree_quar (x : BitVec 1024) : (s.setFree x).main.quar = s.main.quar := rfl
@[simp] theorem State.setFree_pool (x : BitVec 1024) : (s.setFree x).main.pool = s.main.pool := rfl
@[simp] theorem State.setFree_queues (x : BitVec 1024) : (s.setFree x).main.queues = s.main.queues := rfl
@[simp] theorem State.setFree_sched (x : BitVec 1024) : (s.setFree x).main.sched = s.main.sched := rfl
@[simp] theorem State.setFree_sessV (x : BitVec 1024) : (s.setFree x).main.sessV = s.main.sessV := rfl
@[simp] theorem State.setFree_notices (x : BitVec 1024) : (s.setFree x).main.notices = s.main.notices := rfl
@[simp] theorem State.setFree_attn (x : BitVec 1024) : (s.setFree x).main.attn = s.main.attn := rfl
@[simp] theorem State.setFree_audit (x : BitVec 1024) : (s.setFree x).main.audit = s.main.audit := rfl
@[simp] theorem State.setFree_ports (x : BitVec 1024) : (s.setFree x).main.ports = s.main.ports := rfl
@[simp] theorem State.setFree_arbiter (x : BitVec 1024) : (s.setFree x).main.arbiter = s.main.arbiter := rfl
@[simp] theorem State.setQuar_pending (x : Tab (Option Key)) : (s.setQuar x).pending = s.pending := rfl
@[simp] theorem State.setQuar_power (x : Tab (Option Key)) : (s.setQuar x).power = s.power := rfl
@[simp] theorem State.setQuar_tb (x : Tab (Option Key)) : (s.setQuar x).tb = s.tb := rfl
@[simp] theorem State.setQuar_store (x : Tab (Option Key)) : (s.setQuar x).store = s.store := rfl
@[simp] theorem State.setQuar_cut (x : Tab (Option Key)) : (s.setQuar x).cut = s.cut := rfl
@[simp] theorem State.setQuar_supPort (x : Tab (Option Key)) : (s.setQuar x).main.supPort = s.main.supPort := rfl
@[simp] theorem State.setQuar_stage (x : Tab (Option Key)) : (s.setQuar x).main.stage = s.main.stage := rfl
@[simp] theorem State.setQuar_slotCursor (x : Tab (Option Key)) : (s.setQuar x).main.slotCursor = s.main.slotCursor := rfl
@[simp] theorem State.setQuar_mon (x : Tab (Option Key)) : (s.setQuar x).main.mon = s.main.mon := rfl
@[simp] theorem State.setQuar_index (x : Tab (Option Key)) : (s.setQuar x).main.index = s.main.index := rfl
@[simp] theorem State.setQuar_free (x : Tab (Option Key)) : (s.setQuar x).main.free = s.main.free := rfl
@[simp] theorem State.setQuar_quar (x : Tab (Option Key)) : (s.setQuar x).main.quar = x := rfl
@[simp] theorem State.setQuar_pool (x : Tab (Option Key)) : (s.setQuar x).main.pool = s.main.pool := rfl
@[simp] theorem State.setQuar_queues (x : Tab (Option Key)) : (s.setQuar x).main.queues = s.main.queues := rfl
@[simp] theorem State.setQuar_sched (x : Tab (Option Key)) : (s.setQuar x).main.sched = s.main.sched := rfl
@[simp] theorem State.setQuar_sessV (x : Tab (Option Key)) : (s.setQuar x).main.sessV = s.main.sessV := rfl
@[simp] theorem State.setQuar_notices (x : Tab (Option Key)) : (s.setQuar x).main.notices = s.main.notices := rfl
@[simp] theorem State.setQuar_attn (x : Tab (Option Key)) : (s.setQuar x).main.attn = s.main.attn := rfl
@[simp] theorem State.setQuar_audit (x : Tab (Option Key)) : (s.setQuar x).main.audit = s.main.audit := rfl
@[simp] theorem State.setQuar_ports (x : Tab (Option Key)) : (s.setQuar x).main.ports = s.main.ports := rfl
@[simp] theorem State.setQuar_arbiter (x : Tab (Option Key)) : (s.setQuar x).main.arbiter = s.main.arbiter := rfl
@[simp] theorem State.setPool_pending (x : Tab Waiter) : (s.setPool x).pending = s.pending := rfl
@[simp] theorem State.setPool_power (x : Tab Waiter) : (s.setPool x).power = s.power := rfl
@[simp] theorem State.setPool_tb (x : Tab Waiter) : (s.setPool x).tb = s.tb := rfl
@[simp] theorem State.setPool_store (x : Tab Waiter) : (s.setPool x).store = s.store := rfl
@[simp] theorem State.setPool_cut (x : Tab Waiter) : (s.setPool x).cut = s.cut := rfl
@[simp] theorem State.setPool_supPort (x : Tab Waiter) : (s.setPool x).main.supPort = s.main.supPort := rfl
@[simp] theorem State.setPool_stage (x : Tab Waiter) : (s.setPool x).main.stage = s.main.stage := rfl
@[simp] theorem State.setPool_slotCursor (x : Tab Waiter) : (s.setPool x).main.slotCursor = s.main.slotCursor := rfl
@[simp] theorem State.setPool_mon (x : Tab Waiter) : (s.setPool x).main.mon = s.main.mon := rfl
@[simp] theorem State.setPool_index (x : Tab Waiter) : (s.setPool x).main.index = s.main.index := rfl
@[simp] theorem State.setPool_free (x : Tab Waiter) : (s.setPool x).main.free = s.main.free := rfl
@[simp] theorem State.setPool_quar (x : Tab Waiter) : (s.setPool x).main.quar = s.main.quar := rfl
@[simp] theorem State.setPool_pool (x : Tab Waiter) : (s.setPool x).main.pool = x := rfl
@[simp] theorem State.setPool_queues (x : Tab Waiter) : (s.setPool x).main.queues = s.main.queues := rfl
@[simp] theorem State.setPool_sched (x : Tab Waiter) : (s.setPool x).main.sched = s.main.sched := rfl
@[simp] theorem State.setPool_sessV (x : Tab Waiter) : (s.setPool x).main.sessV = s.main.sessV := rfl
@[simp] theorem State.setPool_notices (x : Tab Waiter) : (s.setPool x).main.notices = s.main.notices := rfl
@[simp] theorem State.setPool_attn (x : Tab Waiter) : (s.setPool x).main.attn = s.main.attn := rfl
@[simp] theorem State.setPool_audit (x : Tab Waiter) : (s.setPool x).main.audit = s.main.audit := rfl
@[simp] theorem State.setPool_ports (x : Tab Waiter) : (s.setPool x).main.ports = s.main.ports := rfl
@[simp] theorem State.setPool_arbiter (x : Tab Waiter) : (s.setPool x).main.arbiter = s.main.arbiter := rfl
@[simp] theorem State.setQueues_pending (x : Tab (List Nat)) : (s.setQueues x).pending = s.pending := rfl
@[simp] theorem State.setQueues_power (x : Tab (List Nat)) : (s.setQueues x).power = s.power := rfl
@[simp] theorem State.setQueues_tb (x : Tab (List Nat)) : (s.setQueues x).tb = s.tb := rfl
@[simp] theorem State.setQueues_store (x : Tab (List Nat)) : (s.setQueues x).store = s.store := rfl
@[simp] theorem State.setQueues_cut (x : Tab (List Nat)) : (s.setQueues x).cut = s.cut := rfl
@[simp] theorem State.setQueues_supPort (x : Tab (List Nat)) : (s.setQueues x).main.supPort = s.main.supPort := rfl
@[simp] theorem State.setQueues_stage (x : Tab (List Nat)) : (s.setQueues x).main.stage = s.main.stage := rfl
@[simp] theorem State.setQueues_slotCursor (x : Tab (List Nat)) : (s.setQueues x).main.slotCursor = s.main.slotCursor := rfl
@[simp] theorem State.setQueues_mon (x : Tab (List Nat)) : (s.setQueues x).main.mon = s.main.mon := rfl
@[simp] theorem State.setQueues_index (x : Tab (List Nat)) : (s.setQueues x).main.index = s.main.index := rfl
@[simp] theorem State.setQueues_free (x : Tab (List Nat)) : (s.setQueues x).main.free = s.main.free := rfl
@[simp] theorem State.setQueues_quar (x : Tab (List Nat)) : (s.setQueues x).main.quar = s.main.quar := rfl
@[simp] theorem State.setQueues_pool (x : Tab (List Nat)) : (s.setQueues x).main.pool = s.main.pool := rfl
@[simp] theorem State.setQueues_queues (x : Tab (List Nat)) : (s.setQueues x).main.queues = x := rfl
@[simp] theorem State.setQueues_sched (x : Tab (List Nat)) : (s.setQueues x).main.sched = s.main.sched := rfl
@[simp] theorem State.setQueues_sessV (x : Tab (List Nat)) : (s.setQueues x).main.sessV = s.main.sessV := rfl
@[simp] theorem State.setQueues_notices (x : Tab (List Nat)) : (s.setQueues x).main.notices = s.main.notices := rfl
@[simp] theorem State.setQueues_attn (x : Tab (List Nat)) : (s.setQueues x).main.attn = s.main.attn := rfl
@[simp] theorem State.setQueues_audit (x : Tab (List Nat)) : (s.setQueues x).main.audit = s.main.audit := rfl
@[simp] theorem State.setQueues_ports (x : Tab (List Nat)) : (s.setQueues x).main.ports = s.main.ports := rfl
@[simp] theorem State.setQueues_arbiter (x : Tab (List Nat)) : (s.setQueues x).main.arbiter = s.main.arbiter := rfl
@[simp] theorem State.setSched_pending (x : List Entry) : (s.setSched x).pending = s.pending := rfl
@[simp] theorem State.setSched_power (x : List Entry) : (s.setSched x).power = s.power := rfl
@[simp] theorem State.setSched_tb (x : List Entry) : (s.setSched x).tb = s.tb := rfl
@[simp] theorem State.setSched_store (x : List Entry) : (s.setSched x).store = s.store := rfl
@[simp] theorem State.setSched_cut (x : List Entry) : (s.setSched x).cut = s.cut := rfl
@[simp] theorem State.setSched_supPort (x : List Entry) : (s.setSched x).main.supPort = s.main.supPort := rfl
@[simp] theorem State.setSched_stage (x : List Entry) : (s.setSched x).main.stage = s.main.stage := rfl
@[simp] theorem State.setSched_slotCursor (x : List Entry) : (s.setSched x).main.slotCursor = s.main.slotCursor := rfl
@[simp] theorem State.setSched_mon (x : List Entry) : (s.setSched x).main.mon = s.main.mon := rfl
@[simp] theorem State.setSched_index (x : List Entry) : (s.setSched x).main.index = s.main.index := rfl
@[simp] theorem State.setSched_free (x : List Entry) : (s.setSched x).main.free = s.main.free := rfl
@[simp] theorem State.setSched_quar (x : List Entry) : (s.setSched x).main.quar = s.main.quar := rfl
@[simp] theorem State.setSched_pool (x : List Entry) : (s.setSched x).main.pool = s.main.pool := rfl
@[simp] theorem State.setSched_queues (x : List Entry) : (s.setSched x).main.queues = s.main.queues := rfl
@[simp] theorem State.setSched_sched (x : List Entry) : (s.setSched x).main.sched = x := rfl
@[simp] theorem State.setSched_sessV (x : List Entry) : (s.setSched x).main.sessV = s.main.sessV := rfl
@[simp] theorem State.setSched_notices (x : List Entry) : (s.setSched x).main.notices = s.main.notices := rfl
@[simp] theorem State.setSched_attn (x : List Entry) : (s.setSched x).main.attn = s.main.attn := rfl
@[simp] theorem State.setSched_audit (x : List Entry) : (s.setSched x).main.audit = s.main.audit := rfl
@[simp] theorem State.setSched_ports (x : List Entry) : (s.setSched x).main.ports = s.main.ports := rfl
@[simp] theorem State.setSched_arbiter (x : List Entry) : (s.setSched x).main.arbiter = s.main.arbiter := rfl
@[simp] theorem State.setSessV_pending (x : Tab SessVol) : (s.setSessV x).pending = s.pending := rfl
@[simp] theorem State.setSessV_power (x : Tab SessVol) : (s.setSessV x).power = s.power := rfl
@[simp] theorem State.setSessV_tb (x : Tab SessVol) : (s.setSessV x).tb = s.tb := rfl
@[simp] theorem State.setSessV_store (x : Tab SessVol) : (s.setSessV x).store = s.store := rfl
@[simp] theorem State.setSessV_cut (x : Tab SessVol) : (s.setSessV x).cut = s.cut := rfl
@[simp] theorem State.setSessV_supPort (x : Tab SessVol) : (s.setSessV x).main.supPort = s.main.supPort := rfl
@[simp] theorem State.setSessV_stage (x : Tab SessVol) : (s.setSessV x).main.stage = s.main.stage := rfl
@[simp] theorem State.setSessV_slotCursor (x : Tab SessVol) : (s.setSessV x).main.slotCursor = s.main.slotCursor := rfl
@[simp] theorem State.setSessV_mon (x : Tab SessVol) : (s.setSessV x).main.mon = s.main.mon := rfl
@[simp] theorem State.setSessV_index (x : Tab SessVol) : (s.setSessV x).main.index = s.main.index := rfl
@[simp] theorem State.setSessV_free (x : Tab SessVol) : (s.setSessV x).main.free = s.main.free := rfl
@[simp] theorem State.setSessV_quar (x : Tab SessVol) : (s.setSessV x).main.quar = s.main.quar := rfl
@[simp] theorem State.setSessV_pool (x : Tab SessVol) : (s.setSessV x).main.pool = s.main.pool := rfl
@[simp] theorem State.setSessV_queues (x : Tab SessVol) : (s.setSessV x).main.queues = s.main.queues := rfl
@[simp] theorem State.setSessV_sched (x : Tab SessVol) : (s.setSessV x).main.sched = s.main.sched := rfl
@[simp] theorem State.setSessV_sessV (x : Tab SessVol) : (s.setSessV x).main.sessV = x := rfl
@[simp] theorem State.setSessV_notices (x : Tab SessVol) : (s.setSessV x).main.notices = s.main.notices := rfl
@[simp] theorem State.setSessV_attn (x : Tab SessVol) : (s.setSessV x).main.attn = s.main.attn := rfl
@[simp] theorem State.setSessV_audit (x : Tab SessVol) : (s.setSessV x).main.audit = s.main.audit := rfl
@[simp] theorem State.setSessV_ports (x : Tab SessVol) : (s.setSessV x).main.ports = s.main.ports := rfl
@[simp] theorem State.setSessV_arbiter (x : Tab SessVol) : (s.setSessV x).main.arbiter = s.main.arbiter := rfl
@[simp] theorem State.setNotices_pending (x : Tab NoticeQueue) : (s.setNotices x).pending = s.pending := rfl
@[simp] theorem State.setNotices_power (x : Tab NoticeQueue) : (s.setNotices x).power = s.power := rfl
@[simp] theorem State.setNotices_tb (x : Tab NoticeQueue) : (s.setNotices x).tb = s.tb := rfl
@[simp] theorem State.setNotices_store (x : Tab NoticeQueue) : (s.setNotices x).store = s.store := rfl
@[simp] theorem State.setNotices_cut (x : Tab NoticeQueue) : (s.setNotices x).cut = s.cut := rfl
@[simp] theorem State.setNotices_supPort (x : Tab NoticeQueue) : (s.setNotices x).main.supPort = s.main.supPort := rfl
@[simp] theorem State.setNotices_stage (x : Tab NoticeQueue) : (s.setNotices x).main.stage = s.main.stage := rfl
@[simp] theorem State.setNotices_slotCursor (x : Tab NoticeQueue) : (s.setNotices x).main.slotCursor = s.main.slotCursor := rfl
@[simp] theorem State.setNotices_mon (x : Tab NoticeQueue) : (s.setNotices x).main.mon = s.main.mon := rfl
@[simp] theorem State.setNotices_index (x : Tab NoticeQueue) : (s.setNotices x).main.index = s.main.index := rfl
@[simp] theorem State.setNotices_free (x : Tab NoticeQueue) : (s.setNotices x).main.free = s.main.free := rfl
@[simp] theorem State.setNotices_quar (x : Tab NoticeQueue) : (s.setNotices x).main.quar = s.main.quar := rfl
@[simp] theorem State.setNotices_pool (x : Tab NoticeQueue) : (s.setNotices x).main.pool = s.main.pool := rfl
@[simp] theorem State.setNotices_queues (x : Tab NoticeQueue) : (s.setNotices x).main.queues = s.main.queues := rfl
@[simp] theorem State.setNotices_sched (x : Tab NoticeQueue) : (s.setNotices x).main.sched = s.main.sched := rfl
@[simp] theorem State.setNotices_sessV (x : Tab NoticeQueue) : (s.setNotices x).main.sessV = s.main.sessV := rfl
@[simp] theorem State.setNotices_notices (x : Tab NoticeQueue) : (s.setNotices x).main.notices = x := rfl
@[simp] theorem State.setNotices_attn (x : Tab NoticeQueue) : (s.setNotices x).main.attn = s.main.attn := rfl
@[simp] theorem State.setNotices_audit (x : Tab NoticeQueue) : (s.setNotices x).main.audit = s.main.audit := rfl
@[simp] theorem State.setNotices_ports (x : Tab NoticeQueue) : (s.setNotices x).main.ports = s.main.ports := rfl
@[simp] theorem State.setNotices_arbiter (x : Tab NoticeQueue) : (s.setNotices x).main.arbiter = s.main.arbiter := rfl
@[simp] theorem State.setAttn_pending (x : AttnLines) : (s.setAttn x).pending = s.pending := rfl
@[simp] theorem State.setAttn_power (x : AttnLines) : (s.setAttn x).power = s.power := rfl
@[simp] theorem State.setAttn_tb (x : AttnLines) : (s.setAttn x).tb = s.tb := rfl
@[simp] theorem State.setAttn_store (x : AttnLines) : (s.setAttn x).store = s.store := rfl
@[simp] theorem State.setAttn_cut (x : AttnLines) : (s.setAttn x).cut = s.cut := rfl
@[simp] theorem State.setAttn_supPort (x : AttnLines) : (s.setAttn x).main.supPort = s.main.supPort := rfl
@[simp] theorem State.setAttn_stage (x : AttnLines) : (s.setAttn x).main.stage = s.main.stage := rfl
@[simp] theorem State.setAttn_slotCursor (x : AttnLines) : (s.setAttn x).main.slotCursor = s.main.slotCursor := rfl
@[simp] theorem State.setAttn_mon (x : AttnLines) : (s.setAttn x).main.mon = s.main.mon := rfl
@[simp] theorem State.setAttn_index (x : AttnLines) : (s.setAttn x).main.index = s.main.index := rfl
@[simp] theorem State.setAttn_free (x : AttnLines) : (s.setAttn x).main.free = s.main.free := rfl
@[simp] theorem State.setAttn_quar (x : AttnLines) : (s.setAttn x).main.quar = s.main.quar := rfl
@[simp] theorem State.setAttn_pool (x : AttnLines) : (s.setAttn x).main.pool = s.main.pool := rfl
@[simp] theorem State.setAttn_queues (x : AttnLines) : (s.setAttn x).main.queues = s.main.queues := rfl
@[simp] theorem State.setAttn_sched (x : AttnLines) : (s.setAttn x).main.sched = s.main.sched := rfl
@[simp] theorem State.setAttn_sessV (x : AttnLines) : (s.setAttn x).main.sessV = s.main.sessV := rfl
@[simp] theorem State.setAttn_notices (x : AttnLines) : (s.setAttn x).main.notices = s.main.notices := rfl
@[simp] theorem State.setAttn_attn (x : AttnLines) : (s.setAttn x).main.attn = x := rfl
@[simp] theorem State.setAttn_audit (x : AttnLines) : (s.setAttn x).main.audit = s.main.audit := rfl
@[simp] theorem State.setAttn_ports (x : AttnLines) : (s.setAttn x).main.ports = s.main.ports := rfl
@[simp] theorem State.setAttn_arbiter (x : AttnLines) : (s.setAttn x).main.arbiter = s.main.arbiter := rfl
@[simp] theorem State.setAudit_pending (x : Audit) : (s.setAudit x).pending = s.pending := rfl
@[simp] theorem State.setAudit_power (x : Audit) : (s.setAudit x).power = s.power := rfl
@[simp] theorem State.setAudit_tb (x : Audit) : (s.setAudit x).tb = s.tb := rfl
@[simp] theorem State.setAudit_store (x : Audit) : (s.setAudit x).store = s.store := rfl
@[simp] theorem State.setAudit_cut (x : Audit) : (s.setAudit x).cut = s.cut := rfl
@[simp] theorem State.setAudit_supPort (x : Audit) : (s.setAudit x).main.supPort = s.main.supPort := rfl
@[simp] theorem State.setAudit_stage (x : Audit) : (s.setAudit x).main.stage = s.main.stage := rfl
@[simp] theorem State.setAudit_slotCursor (x : Audit) : (s.setAudit x).main.slotCursor = s.main.slotCursor := rfl
@[simp] theorem State.setAudit_mon (x : Audit) : (s.setAudit x).main.mon = s.main.mon := rfl
@[simp] theorem State.setAudit_index (x : Audit) : (s.setAudit x).main.index = s.main.index := rfl
@[simp] theorem State.setAudit_free (x : Audit) : (s.setAudit x).main.free = s.main.free := rfl
@[simp] theorem State.setAudit_quar (x : Audit) : (s.setAudit x).main.quar = s.main.quar := rfl
@[simp] theorem State.setAudit_pool (x : Audit) : (s.setAudit x).main.pool = s.main.pool := rfl
@[simp] theorem State.setAudit_queues (x : Audit) : (s.setAudit x).main.queues = s.main.queues := rfl
@[simp] theorem State.setAudit_sched (x : Audit) : (s.setAudit x).main.sched = s.main.sched := rfl
@[simp] theorem State.setAudit_sessV (x : Audit) : (s.setAudit x).main.sessV = s.main.sessV := rfl
@[simp] theorem State.setAudit_notices (x : Audit) : (s.setAudit x).main.notices = s.main.notices := rfl
@[simp] theorem State.setAudit_attn (x : Audit) : (s.setAudit x).main.attn = s.main.attn := rfl
@[simp] theorem State.setAudit_audit (x : Audit) : (s.setAudit x).main.audit = x := rfl
@[simp] theorem State.setAudit_ports (x : Audit) : (s.setAudit x).main.ports = s.main.ports := rfl
@[simp] theorem State.setAudit_arbiter (x : Audit) : (s.setAudit x).main.arbiter = s.main.arbiter := rfl
@[simp] theorem State.setPorts_pending (x : Ports) : (s.setPorts x).pending = s.pending := rfl
@[simp] theorem State.setPorts_power (x : Ports) : (s.setPorts x).power = s.power := rfl
@[simp] theorem State.setPorts_tb (x : Ports) : (s.setPorts x).tb = s.tb := rfl
@[simp] theorem State.setPorts_store (x : Ports) : (s.setPorts x).store = s.store := rfl
@[simp] theorem State.setPorts_cut (x : Ports) : (s.setPorts x).cut = s.cut := rfl
@[simp] theorem State.setPorts_supPort (x : Ports) : (s.setPorts x).main.supPort = s.main.supPort := rfl
@[simp] theorem State.setPorts_stage (x : Ports) : (s.setPorts x).main.stage = s.main.stage := rfl
@[simp] theorem State.setPorts_slotCursor (x : Ports) : (s.setPorts x).main.slotCursor = s.main.slotCursor := rfl
@[simp] theorem State.setPorts_mon (x : Ports) : (s.setPorts x).main.mon = s.main.mon := rfl
@[simp] theorem State.setPorts_index (x : Ports) : (s.setPorts x).main.index = s.main.index := rfl
@[simp] theorem State.setPorts_free (x : Ports) : (s.setPorts x).main.free = s.main.free := rfl
@[simp] theorem State.setPorts_quar (x : Ports) : (s.setPorts x).main.quar = s.main.quar := rfl
@[simp] theorem State.setPorts_pool (x : Ports) : (s.setPorts x).main.pool = s.main.pool := rfl
@[simp] theorem State.setPorts_queues (x : Ports) : (s.setPorts x).main.queues = s.main.queues := rfl
@[simp] theorem State.setPorts_sched (x : Ports) : (s.setPorts x).main.sched = s.main.sched := rfl
@[simp] theorem State.setPorts_sessV (x : Ports) : (s.setPorts x).main.sessV = s.main.sessV := rfl
@[simp] theorem State.setPorts_notices (x : Ports) : (s.setPorts x).main.notices = s.main.notices := rfl
@[simp] theorem State.setPorts_attn (x : Ports) : (s.setPorts x).main.attn = s.main.attn := rfl
@[simp] theorem State.setPorts_audit (x : Ports) : (s.setPorts x).main.audit = s.main.audit := rfl
@[simp] theorem State.setPorts_ports (x : Ports) : (s.setPorts x).main.ports = x := rfl
@[simp] theorem State.setPorts_arbiter (x : Ports) : (s.setPorts x).main.arbiter = s.main.arbiter := rfl
@[simp] theorem State.setArbiter_pending (x : List PortId) : (s.setArbiter x).pending = s.pending := rfl
@[simp] theorem State.setArbiter_power (x : List PortId) : (s.setArbiter x).power = s.power := rfl
@[simp] theorem State.setArbiter_tb (x : List PortId) : (s.setArbiter x).tb = s.tb := rfl
@[simp] theorem State.setArbiter_store (x : List PortId) : (s.setArbiter x).store = s.store := rfl
@[simp] theorem State.setArbiter_cut (x : List PortId) : (s.setArbiter x).cut = s.cut := rfl
@[simp] theorem State.setArbiter_supPort (x : List PortId) : (s.setArbiter x).main.supPort = s.main.supPort := rfl
@[simp] theorem State.setArbiter_stage (x : List PortId) : (s.setArbiter x).main.stage = s.main.stage := rfl
@[simp] theorem State.setArbiter_slotCursor (x : List PortId) : (s.setArbiter x).main.slotCursor = s.main.slotCursor := rfl
@[simp] theorem State.setArbiter_mon (x : List PortId) : (s.setArbiter x).main.mon = s.main.mon := rfl
@[simp] theorem State.setArbiter_index (x : List PortId) : (s.setArbiter x).main.index = s.main.index := rfl
@[simp] theorem State.setArbiter_free (x : List PortId) : (s.setArbiter x).main.free = s.main.free := rfl
@[simp] theorem State.setArbiter_quar (x : List PortId) : (s.setArbiter x).main.quar = s.main.quar := rfl
@[simp] theorem State.setArbiter_pool (x : List PortId) : (s.setArbiter x).main.pool = s.main.pool := rfl
@[simp] theorem State.setArbiter_queues (x : List PortId) : (s.setArbiter x).main.queues = s.main.queues := rfl
@[simp] theorem State.setArbiter_sched (x : List PortId) : (s.setArbiter x).main.sched = s.main.sched := rfl
@[simp] theorem State.setArbiter_sessV (x : List PortId) : (s.setArbiter x).main.sessV = s.main.sessV := rfl
@[simp] theorem State.setArbiter_notices (x : List PortId) : (s.setArbiter x).main.notices = s.main.notices := rfl
@[simp] theorem State.setArbiter_attn (x : List PortId) : (s.setArbiter x).main.attn = s.main.attn := rfl
@[simp] theorem State.setArbiter_audit (x : List PortId) : (s.setArbiter x).main.audit = s.main.audit := rfl
@[simp] theorem State.setArbiter_ports (x : List PortId) : (s.setArbiter x).main.ports = s.main.ports := rfl
@[simp] theorem State.setArbiter_arbiter (x : List PortId) : (s.setArbiter x).main.arbiter = x := rfl
@[simp] theorem State.setMain_pending (x : Main) : (s.setMain x).pending = s.pending := rfl
@[simp] theorem State.setMain_power (x : Main) : (s.setMain x).power = s.power := rfl
@[simp] theorem State.setMain_tb (x : Main) : (s.setMain x).tb = s.tb := rfl
@[simp] theorem State.setMain_store (x : Main) : (s.setMain x).store = s.store := rfl
@[simp] theorem State.setMain_cut (x : Main) : (s.setMain x).cut = s.cut := rfl
@[simp] theorem State.setMain_main (x : Main) : (s.setMain x).main = x := rfl

end Sys2Proof.Machine
end

