-- ==== Sys2Proof/Laws/Tab.lean ====
section
/-! SUPPORT. The laws of tables: what a read after an update gives, and that every update keeps the canonical
form. -/

namespace Sys2Proof.Machine

variable {α : Type}

/-! ### Reads after updates -/

@[simp] theorem Tab.find?_nil (n : Nat) : Tab.find? ([] : Tab α) n = none := rfl

theorem Tab.find?_put (t : Tab α) (n m : Nat) (x : α) :
    Tab.find? (Tab.put t n x) m = if n = m then some x else Tab.find? t m := by
  induction t with
  | nil => simp [Tab.put, Tab.find?]
  | cons e t ih =>
    obtain ⟨k, v⟩ := e
    by_cases h1 : n < k
    · simp [Tab.put, h1, Tab.find?]
    · by_cases h2 : k = n
      · subst h2
        simp [Tab.put, Tab.find?]
        split <;> simp_all
      · simp only [Tab.put, h1, h2, if_false, Tab.find?, ih]
        by_cases h3 : k = m <;> by_cases h4 : n = m <;> simp_all

@[simp] theorem Tab.find?_put_self (t : Tab α) (n : Nat) (x : α) :
    Tab.find? (Tab.put t n x) n = some x := by simp [Tab.find?_put]

theorem Tab.find?_eq_none_of_risingFrom {lo n : Nat} :
    ∀ {t : Tab α}, Tab.risingFrom lo t = true → n < lo → Tab.find? t n = none
  | [], _, _ => rfl
  | (k, v) :: t, h, hn => by
    simp only [Tab.risingFrom, Bool.and_eq_true, decide_eq_true_eq] at h
    have hk : k ≠ n := by omega
    simp only [Tab.find?, hk, if_false]
    exact Tab.find?_eq_none_of_risingFrom h.2 (by omega)

theorem Tab.find?_del_of_risingFrom {lo : Nat} (n m : Nat) :
    ∀ {t : Tab α}, Tab.risingFrom lo t = true →
      Tab.find? (Tab.del t n) m = if n = m then none else Tab.find? t m
  | [], _ => by simp [Tab.del]
  | (k, v) :: t, h => by
    simp only [Tab.risingFrom, Bool.and_eq_true, decide_eq_true_eq] at h
    by_cases hk : k = n
    · subst hk
      simp only [Tab.del, if_true, Tab.find?]
      by_cases hm : k = m
      · subst hm
        simpa using Tab.find?_eq_none_of_risingFrom h.2 (Nat.lt_succ_self k)
      · simp [hm]
    · simp only [Tab.del, hk, if_false, Tab.find?, Tab.find?_del_of_risingFrom n m h.2]
      by_cases h3 : k = m <;> by_cases h4 : n = m <;> simp_all

theorem Tab.find?_del {t : Tab α} (h : Tab.rising t = true) (n m : Nat) :
    Tab.find? (Tab.del t n) m = if n = m then none else Tab.find? t m :=
  Tab.find?_del_of_risingFrom n m h

/-- A read after a set: the value set at its own key, the old value elsewhere. -/
theorem Tab.get_set [DecidableEq α] {d : α} {t : Tab α} (h : Tab.rising t = true) (n m : Nat) (x : α) :
    Tab.get d (Tab.set d t n x) m = if n = m then x else Tab.get d t m := by
  unfold Tab.get Tab.set
  by_cases hx : x = d
  · simp only [hx, if_true, Tab.find?_del h]
    split <;> simp
  · simp only [hx, if_false, Tab.find?_put]
    split <;> simp

theorem Tab.find?_del_ne (n m : Nat) (h : n ≠ m) :
    ∀ t : Tab α, Tab.find? (Tab.del t n) m = Tab.find? t m
  | [] => rfl
  | (k, v) :: t => by
    by_cases hk : k = n
    · subst hk
      simp [Tab.del, Tab.find?, h]
    · simp only [Tab.del, hk, if_false, Tab.find?, Tab.find?_del_ne n m h t]

/-- A set leaves every other key as it was, whatever the table. -/
theorem Tab.get_set_ne [DecidableEq α] (d : α) (t : Tab α) {n m : Nat} (h : n ≠ m) (x : α) :
    Tab.get d (Tab.set d t n x) m = Tab.get d t m := by
  unfold Tab.get Tab.set
  split
  · rw [Tab.find?_del_ne n m h]
  · rw [Tab.find?_put]; simp [h]

theorem Tab.find?_eq_of_mem_of_rising {lo : Nat} :
    ∀ {t : Tab α}, Tab.risingFrom lo t = true → ∀ e ∈ t, Tab.find? t e.1 = some e.2
  | [], _, e, he => by cases he
  | (k, v) :: t, h, e, he => by
    simp only [Tab.risingFrom, Bool.and_eq_true, decide_eq_true_eq] at h
    rcases List.mem_cons.1 he with rfl | he
    · simp [Tab.find?]
    · have h1 := Tab.find?_eq_of_mem_of_rising h.2 e he
      have hk : k ≠ e.1 := by
        rintro rfl
        rw [Tab.find?_eq_none_of_risingFrom h.2 (Nat.lt_succ_self _)] at h1
        cases h1
      simpa [Tab.find?, hk] using h1

theorem Tab.mem_of_find? {n : Nat} {x : α} : ∀ {t : Tab α}, Tab.find? t n = some x → (n, x) ∈ t
  | [], h => by cases h
  | (k, v) :: t, h => by
    simp only [Tab.find?] at h
    split at h
    · rename_i hk; subst hk; cases h; exact List.mem_cons_self
    · exact List.mem_cons_of_mem _ (Tab.mem_of_find? h)

/-! ### The canonical form -/

theorem Tab.risingFrom_mono {lo lo' : Nat} (hl : lo' ≤ lo) :
    ∀ {t : Tab α}, Tab.risingFrom lo t = true → Tab.risingFrom lo' t = true
  | [], _ => rfl
  | (k, v) :: t, h => by
    simp only [Tab.risingFrom, Bool.and_eq_true, decide_eq_true_eq] at h ⊢
    exact ⟨by omega, h.2⟩

theorem Tab.risingFrom_put {lo n : Nat} (x : α) (hn : lo ≤ n) :
    ∀ {t : Tab α}, Tab.risingFrom lo t = true → Tab.risingFrom lo (Tab.put t n x) = true
  | [], _ => by simp [Tab.put, Tab.risingFrom, hn]
  | (k, v) :: t, h => by
    simp only [Tab.risingFrom, Bool.and_eq_true, decide_eq_true_eq] at h
    by_cases h1 : n < k
    · simp [Tab.put, h1, Tab.risingFrom, hn, h.2]
    · by_cases h2 : k = n
      · subst h2
        simpa [Tab.put, Tab.risingFrom] using h
      · simp only [Tab.put, h1, h2, if_false, Tab.risingFrom, Bool.and_eq_true, decide_eq_true_eq]
        exact ⟨h.1, Tab.risingFrom_put x (by omega) h.2⟩

theorem Tab.risingFrom_del {n : Nat} :
    ∀ {t : Tab α} {lo : Nat}, Tab.risingFrom lo t = true → Tab.risingFrom lo (Tab.del t n) = true
  | [], _, _ => rfl
  | (k, v) :: t, lo, h => by
    simp only [Tab.risingFrom, Bool.and_eq_true, decide_eq_true_eq] at h
    by_cases h2 : k = n
    · simp only [Tab.del, h2, if_true]
      exact Tab.risingFrom_mono (by omega) h.2
    · simp only [Tab.del, h2, if_false, Tab.risingFrom, Bool.and_eq_true, decide_eq_true_eq]
      exact ⟨h.1, Tab.risingFrom_del h.2⟩

theorem Tab.rising_put {t : Tab α} (h : Tab.rising t = true) (n : Nat) (x : α) :
    Tab.rising (Tab.put t n x) = true := Tab.risingFrom_put x (Nat.zero_le n) h

theorem Tab.rising_del {t : Tab α} (h : Tab.rising t = true) (n : Nat) :
    Tab.rising (Tab.del t n) = true := Tab.risingFrom_del h

theorem Tab.mem_put {n : Nat} {x : α} {e : Nat × α} :
    ∀ {t : Tab α}, e ∈ Tab.put t n x → e = (n, x) ∨ e ∈ t
  | [], h => by simpa [Tab.put] using h
  | (k, v) :: t, h => by
    unfold Tab.put at h
    split at h
    · rcases List.mem_cons.1 h with h | h
      · exact .inl h
      · exact .inr h
    · split at h
      · rcases List.mem_cons.1 h with h | h
        · exact .inl h
        · exact .inr (List.mem_cons_of_mem _ h)
      · rcases List.mem_cons.1 h with h | h
        · exact .inr (h ▸ List.mem_cons_self)
        · rcases Tab.mem_put h with h | h
          · exact .inl h
          · exact .inr (List.mem_cons_of_mem _ h)

theorem Tab.mem_del {n : Nat} {e : Nat × α} : ∀ {t : Tab α}, e ∈ Tab.del t n → e ∈ t
  | [], h => by cases h
  | (k, v) :: t, h => by
    unfold Tab.del at h
    split at h
    · exact List.mem_cons_of_mem _ h
    · rcases List.mem_cons.1 h with h | h
      · exact h ▸ List.mem_cons_self
      · exact List.mem_cons_of_mem _ (Tab.mem_del h)

theorem Tab.mem_set [DecidableEq α] {d : α} {t : Tab α} {n : Nat} {x : α} {e : Nat × α}
    (h : e ∈ Tab.set d t n x) : e = (n, x) ∨ e ∈ t := by
  unfold Tab.set at h
  split at h
  · exact .inr (Tab.mem_del h)
  · exact Tab.mem_put h

/-- A set keeps the canonical form. -/
theorem Tab.wf_set [DecidableEq α] {d : α} {t : Tab α} (h : Tab.wf d t = true) (n : Nat) (x : α) :
    Tab.wf d (Tab.set d t n x) = true := by
  simp only [Tab.wf, Bool.and_eq_true, List.all_eq_true, decide_eq_true_eq] at h ⊢
  unfold Tab.set
  split
  · exact ⟨Tab.rising_del h.1 n, fun e he => h.2 e (Tab.mem_del he)⟩
  · rename_i hx
    refine ⟨Tab.rising_put h.1 n x, fun e he => ?_⟩
    rcases Tab.mem_put he with rfl | he
    · exact hx
    · exact h.2 e he

theorem Tab.wf_nil [DecidableEq α] (d : α) : Tab.wf d ([] : Tab α) = true := rfl

theorem Tab.rising_of_wf [DecidableEq α] {d : α} {t : Tab α} (h : Tab.wf d t = true) :
    Tab.rising t = true := by
  simp only [Tab.wf, Bool.and_eq_true] at h
  exact h.1

/-! ### Equal reads make equal tables -/

theorem Tab.eq_of_find? {lo : Nat} :
    ∀ {t u : Tab α}, Tab.risingFrom lo t = true → Tab.risingFrom lo u = true →
      (∀ n, Tab.find? t n = Tab.find? u n) → t = u
  | [], [], _, _, _ => rfl
  | [], (k, v) :: u, _, _, h => by simpa [Tab.find?] using h k
  | (k, v) :: t, [], _, _, h => by simpa [Tab.find?] using h k
  | (k, v) :: t, (k', v') :: u, ht, hu, h => by
    simp only [Tab.risingFrom, Bool.and_eq_true, decide_eq_true_eq] at ht hu
    have hk : k = k' := by
      rcases Nat.lt_trichotomy k k' with hlt | heq | hlt
      · have h1 := h k
        have h2 : k' ≠ k := by omega
        simp [Tab.find?, h2, Tab.find?_eq_none_of_risingFrom hu.2 (show k < k' + 1 by omega)] at h1
      · exact heq
      · have h1 := h k'
        have h2 : k ≠ k' := by omega
        simp [Tab.find?, h2, Tab.find?_eq_none_of_risingFrom ht.2 (show k' < k + 1 by omega)] at h1
    subst hk
    have hv : v = v' := by simpa [Tab.find?] using h k
    subst hv
    have htu : t = u := by
      refine Tab.eq_of_find? ht.2 hu.2 fun n => ?_
      by_cases hn : k = n
      · subst hn
        rw [Tab.find?_eq_none_of_risingFrom ht.2 (Nat.lt_succ_self _),
          Tab.find?_eq_none_of_risingFrom hu.2 (Nat.lt_succ_self _)]
      · simpa [Tab.find?, hn] using h n
    rw [htu]

/-- Two tables in canonical form that read alike are equal. -/
theorem Tab.eq_of_get [DecidableEq α] {d : α} {t u : Tab α} (ht : Tab.wf d t = true)
    (hu : Tab.wf d u = true) (h : ∀ n, Tab.get d t n = Tab.get d u n) : t = u := by
  have aux : ∀ {v : Tab α}, Tab.wf d v = true → ∀ n, Tab.find? v n ≠ some d := by
    intro v hv n hn
    simp only [Tab.wf, Bool.and_eq_true, List.all_eq_true, decide_eq_true_eq] at hv
    exact hv.2 _ (Tab.mem_of_find? hn) rfl
  refine Tab.eq_of_find? (Tab.rising_of_wf ht) (Tab.rising_of_wf hu) fun n => ?_
  have h1 := h n
  have h2 := aux ht n
  have h3 := aux hu n
  unfold Tab.get at h1
  cases ha : Tab.find? t n <;> cases hb : Tab.find? u n <;> simp_all

/-- The second of two sets of one key stands. -/
theorem Tab.set_set [DecidableEq α] {d : α} {t : Tab α} (h : Tab.wf d t = true) (n : Nat) (x y : α) :
    Tab.set d (Tab.set d t n x) n y = Tab.set d t n y := by
  refine Tab.eq_of_get (Tab.wf_set (Tab.wf_set h n x) n y) (Tab.wf_set h n y) fun m => ?_
  rw [Tab.get_set (Tab.rising_of_wf (Tab.wf_set h n x)), Tab.get_set (Tab.rising_of_wf h),
    Tab.get_set (Tab.rising_of_wf h)]
  split <;> rfl

/-- Setting a key to what it reads as changes nothing. -/
theorem Tab.set_get [DecidableEq α] {d : α} {t : Tab α} (h : Tab.wf d t = true) (n : Nat) :
    Tab.set d t n (Tab.get d t n) = t := by
  refine Tab.eq_of_get (Tab.wf_set h n _) h fun m => ?_
  rw [Tab.get_set (Tab.rising_of_wf h)]
  split
  · rename_i hm; rw [hm]
  · rfl

end Sys2Proof.Machine
end

