-- ==== Sys2Proof/Laws/Store.lean ====
section
/-! SUPPORT. The laws of the Retained Store: what a list of word writes can change, what a whole commit leaves, that
every write keeps the canonical form, and what a checked read of good words answers. -/

namespace Sys2Proof.Machine

/-! ### Reads and writes of slots and session words -/

theorem Store.slot_setSlot_ne (st : Store) {n m : Nat} (h : n ≠ m) (b : Block SlotImg) :
    (st.setSlot n b).slot m = st.slot m := Tab.get_set_ne _ _ h b

theorem Store.session_setSession_ne (st : Store) {c d : Nat} (h : c ≠ d) (x : Copies SessEntry) :
    (st.setSession c x).session d = st.session d := Tab.get_set_ne _ _ h x

/-- What the canonical form says of the store's parts. -/
theorem Store.canonical_iff (st : Store) : st.canonical = true ↔
    Tab.wf Block.blankSlot st.slots = true ∧ Tab.wf Copies.freeSess st.sess = true ∧
    (∀ e ∈ st.slots, e.2.ecc.length = 10) ∧
    (∀ e ∈ st.sess, e.2.c1.ecc.length = 1 ∧ e.2.c2.ecc.length = 1) ∧
    (st.zone.c1.ecc.length = 7 ∧ st.zone.c2.ecc.length = 7) ∧
    (st.token.c1.ecc.length = 1 ∧ st.token.c2.ecc.length = 1) ∧
    (st.nonce.c1.ecc.length = 1 ∧ st.nonce.c2.ecc.length = 1) ∧
    (st.flags.c1.ecc.length = 1 ∧ st.flags.c2.ecc.length = 1) := by
  simp [Store.canonical, and_assoc]

theorem Store.slot_setSlot {st : Store} (h : st.canonical = true) (n m : Nat) (b : Block SlotImg) :
    (st.setSlot n b).slot m = if n = m then b else st.slot m :=
  Tab.get_set (Tab.rising_of_wf ((Store.canonical_iff st).1 h).1) n m b

theorem Store.session_setSession {st : Store} (h : st.canonical = true) (c d : Nat)
    (x : Copies SessEntry) :
    (st.setSession c x).session d = if c = d then x else st.session d :=
  Tab.get_set (Tab.rising_of_wf ((Store.canonical_iff st).1 h).2.1) c d x

theorem Store.slot_ecc_length {st : Store} (h : st.canonical = true) (n : Nat) :
    (st.slot n).ecc.length = 10 := by
  unfold Store.slot Tab.get
  cases hf : Tab.find? st.slots n with
  | none => rfl
  | some b => exact ((Store.canonical_iff st).1 h).2.2.1 _ (Tab.mem_of_find? hf)

theorem Store.session_ecc_length {st : Store} (h : st.canonical = true) (c : Nat) :
    (st.session c).c1.ecc.length = 1 ∧ (st.session c).c2.ecc.length = 1 := by
  unfold Store.session Tab.get
  cases hf : Tab.find? st.sess c with
  | none => exact ⟨rfl, rfl⟩
  | some b => exact ((Store.canonical_iff st).1 h).2.2.2.1 _ (Tab.mem_of_find? hf)

theorem Store.setSlot_setSlot {st : Store} (h : st.canonical = true) (n : Nat) (b b' : Block SlotImg) :
    (st.setSlot n b).setSlot n b' = st.setSlot n b' := by
  unfold Store.setSlot
  simp [Tab.set_set ((Store.canonical_iff st).1 h).1]

theorem Store.setSlot_slot {st : Store} (h : st.canonical = true) (n : Nat) :
    st.setSlot n (st.slot n) = st := by
  unfold Store.setSlot Store.slot
  rw [Tab.set_get ((Store.canonical_iff st).1 h).1]

theorem Store.setSession_setSession {st : Store} (h : st.canonical = true) (c : Nat)
    (x y : Copies SessEntry) : (st.setSession c x).setSession c y = st.setSession c y := by
  unfold Store.setSession
  simp [Tab.set_set ((Store.canonical_iff st).1 h).2.1]

/-! ### The canonical form -/

theorem Store.canonical_setSlot {st : Store} (h : st.canonical = true) (n : Nat) {b : Block SlotImg}
    (hb : b.ecc.length = 10) : (st.setSlot n b).canonical = true := by
  rw [Store.canonical_iff] at h ⊢
  refine ⟨Tab.wf_set h.1 n b, h.2.1, fun e he => ?_, h.2.2.2⟩
  rcases Tab.mem_set he with rfl | he
  · exact hb
  · exact h.2.2.1 e he

theorem Store.canonical_setSession {st : Store} (h : st.canonical = true) (c : Nat)
    {x : Copies SessEntry} (hx : x.c1.ecc.length = 1 ∧ x.c2.ecc.length = 1) :
    (st.setSession c x).canonical = true := by
  rw [Store.canonical_iff] at h ⊢
  refine ⟨h.1, Tab.wf_set h.2.1 c x, h.2.2.1, fun e he => ?_, h.2.2.2.2⟩
  rcases Tab.mem_set he with rfl | he
  · exact hx
  · exact h.2.2.2.1 e he

@[simp] theorem Block.putWord_ecc_length {α : Type} (f : Nat → α → α → α) (k : Nat) (v : α)
    (b : Block α) : (b.putWord f k v).ecc.length = b.ecc.length := by simp [Block.putWord]

@[simp] theorem Block.mendWord_ecc_length {α : Type} (k : Nat) (b : Block α) :
    (b.mendWord k).ecc.length = b.ecc.length := by simp [Block.mendWord]

/-- A write keeps the canonical form. -/
def KeepsCanonical (w : Store → Store) : Prop := ∀ st, st.canonical = true → (w st).canonical = true

theorem keepsCanonical_onIntent (g : Intent → Intent) : KeepsCanonical (Store.onIntent g) :=
  fun _ h => h

theorem keepsCanonical_writeSlotWord (n : Nat) (img : SlotImg) (k : Nat) :
    KeepsCanonical (writeSlotWord n img k) := fun st h =>
  Store.canonical_setSlot h n (by simp [Store.slot_ecc_length h])

theorem keepsCanonical_mendSlotWord (n k : Nat) : KeepsCanonical (mendSlotWord n k) := fun st h =>
  Store.canonical_setSlot h n (by simp [Store.slot_ecc_length h])

/-- A control word whose put keeps the canonical form when the copies keep their number of words. -/
def Control.lawful {α : Type} (c : Control α) : Prop :=
  ∀ st x, st.canonical = true → x.c1.ecc.length = (c.get st).c1.ecc.length →
    x.c2.ecc.length = (c.get st).c2.ecc.length → (c.put st x).canonical = true

theorem lawful_session (c : Nat) : (sessionWord c).lawful := fun st x h h1 h2 => by
  have hl := Store.session_ecc_length h c
  exact Store.canonical_setSession h c ⟨h1.trans hl.1, h2.trans hl.2⟩

theorem lawful_zone : zoneWord.lawful := fun st x h h1 h2 => by
  rw [Store.canonical_iff] at h ⊢
  exact ⟨h.1, h.2.1, h.2.2.1, h.2.2.2.1, ⟨h1.trans h.2.2.2.2.1.1, h2.trans h.2.2.2.2.1.2⟩,
    h.2.2.2.2.2⟩

theorem lawful_token : tokenWord.lawful := fun st x h h1 h2 => by
  rw [Store.canonical_iff] at h ⊢
  exact ⟨h.1, h.2.1, h.2.2.1, h.2.2.2.1, h.2.2.2.2.1,
    ⟨h1.trans h.2.2.2.2.2.1.1, h2.trans h.2.2.2.2.2.1.2⟩, h.2.2.2.2.2.2⟩

theorem lawful_nonce : nonceWord.lawful := fun st x h h1 h2 => by
  rw [Store.canonical_iff] at h ⊢
  exact ⟨h.1, h.2.1, h.2.2.1, h.2.2.2.1, h.2.2.2.2.1, h.2.2.2.2.2.1,
    ⟨h1.trans h.2.2.2.2.2.2.1.1, h2.trans h.2.2.2.2.2.2.1.2⟩, h.2.2.2.2.2.2.2⟩

theorem lawful_flags : flagsWord.lawful := fun st x h h1 h2 => by
  rw [Store.canonical_iff] at h ⊢
  exact ⟨h.1, h.2.1, h.2.2.1, h.2.2.2.1, h.2.2.2.2.1, h.2.2.2.2.2.1, h.2.2.2.2.2.2.1,
    ⟨h1.trans h.2.2.2.2.2.2.2.1, h2.trans h.2.2.2.2.2.2.2.2⟩⟩

theorem keepsCanonical_copy1 {α : Type} {c : Control α} (hc : c.lawful) (v : α) :
    ∀ w ∈ c.copy1Writes v, KeepsCanonical w := by
  intro w hw st h
  obtain ⟨k, -, rfl⟩ := List.mem_map.1 hw
  exact hc _ _ h (by simp) rfl

theorem keepsCanonical_copy2 {α : Type} {c : Control α} (hc : c.lawful) (v : α) :
    ∀ w ∈ c.copy2Writes v, KeepsCanonical w := by
  intro w hw st h
  obtain ⟨k, -, rfl⟩ := List.mem_map.1 hw
  exact hc _ _ h rfl (by simp)

theorem keepsCanonical_both {α : Type} {c : Control α} (hc : c.lawful) (v : α) :
    ∀ w ∈ c.bothWrites v, KeepsCanonical w := by
  intro w hw
  rcases List.mem_append.1 hw with h | h
  · exact keepsCanonical_copy1 hc v w h
  · exact keepsCanonical_copy2 hc v w h

theorem keepsCanonical_mend {α : Type} {c : Control α} (hc : c.lawful) (st0 : Store) :
    ∀ w ∈ c.mendWrites st0, KeepsCanonical w := by
  intro w hw st h
  rcases List.mem_append.1 hw with hw | hw
  · obtain ⟨k, -, rfl⟩ := List.mem_map.1 hw
    exact hc _ _ h (by simp) rfl
  · obtain ⟨k, -, rfl⟩ := List.mem_map.1 hw
    exact hc _ _ h rfl (by simp)

theorem keepsCanonical_repair {α : Type} [DecidableEq α] {c : Control α} (hc : c.lawful)
    (st0 : Store) : ∀ w ∈ c.repairWrites st0, KeepsCanonical w := by
  intro w hw
  simp only [Control.repairWrites] at hw
  split at hw
  · split at hw
    · cases hw
    · exact keepsCanonical_copy2 hc _ w hw
  · split at hw
    · exact keepsCanonical_copy1 hc _ w hw
    · cases hw

theorem keepsCanonical_image (i : Image) : ∀ w ∈ i.targetWrites, KeepsCanonical w := by
  intro w hw
  match i, hw with
  | .slot n true img, hw =>
    obtain ⟨k, -, rfl⟩ := List.mem_map.1 hw
    exact keepsCanonical_writeSlotWord n img k
  | .slot n false img, hw =>
    rw [List.mem_singleton.1 hw]
    exact keepsCanonical_writeSlotWord n img 0
  | .zone m, hw => exact keepsCanonical_both lawful_zone m w hw

theorem keepsCanonical_targets (c : Commit) : ∀ w ∈ c.targetWrites, KeepsCanonical w := by
  intro w hw
  simp only [Commit.targetWrites, List.mem_append, List.mem_flatMap] at hw
  rcases hw with (((⟨i, -, hw⟩ | hw) | hw) | hw) | hw
  · exact keepsCanonical_image i w hw
  · cases hs : c.session with
    | none => rw [hs] at hw; cases hw
    | some p => rw [hs] at hw; exact keepsCanonical_both (lawful_session p.1) p.2 w hw
  · cases hs : c.token with
    | none => rw [hs] at hw; cases hw
    | some t => rw [hs] at hw; exact keepsCanonical_both lawful_token t w hw
  · cases hs : c.nonce with
    | none => rw [hs] at hw; cases hw
    | some t => rw [hs] at hw; exact keepsCanonical_both lawful_nonce t w hw
  · cases hs : c.flags with
    | none => rw [hs] at hw; cases hw
    | some t => rw [hs] at hw; exact keepsCanonical_both lawful_flags t w hw

/-- The writes of steps 1, 2 and 4 of a commit change the intent area alone (R138). -/
def OnIntent (w : Store → Store) : Prop := ∃ g, w = Store.onIntent g

theorem onIntent_marker (v : Bool) : ∀ w ∈ markerWrites v, OnIntent w := by
  intro w hw
  simp only [markerWrites, List.mem_cons, List.not_mem_nil, or_false] at hw
  rcases hw with rfl | rfl <;> exact ⟨_, rfl⟩

theorem onIntent_imagePlace (i : Nat) (o : Option Image) : ∀ w ∈ imagePlaceWrites i o, OnIntent w := by
  intro w hw
  cases o with
  | none => rw [List.mem_singleton.1 hw]; exact ⟨_, rfl⟩
  | some img =>
    simp only [imagePlaceWrites, List.mem_append, List.mem_map, List.mem_singleton] at hw
    rcases hw with ⟨k, -, rfl⟩ | rfl <;> exact ⟨_, rfl⟩

theorem onIntent_wordPlace {α : Type} (get : Intent → Place α) (set : Intent → Place α → Intent)
    (o : Option α) : ∀ w ∈ wordPlaceWrites get set o, OnIntent w := by
  intro w hw
  cases o with
  | none => rw [List.mem_singleton.1 hw]; exact ⟨_, rfl⟩
  | some v =>
    simp only [wordPlaceWrites, List.mem_cons, List.not_mem_nil, or_false] at hw
    rcases hw with rfl | rfl <;> exact ⟨_, rfl⟩

theorem onIntent_places (c : Commit) : ∀ ws ∈ c.placeWrites, ∀ w ∈ ws, OnIntent w := by
  intro ws hws
  simp only [Commit.placeWrites, List.mem_cons, List.not_mem_nil, or_false] at hws
  rcases hws with rfl | rfl | rfl | rfl | rfl | rfl | rfl | rfl
  · exact onIntent_imagePlace _ _
  · exact onIntent_imagePlace _ _
  · exact onIntent_imagePlace _ _
  · exact onIntent_imagePlace _ _
  · exact onIntent_wordPlace _ _ _
  · exact onIntent_wordPlace _ _ _
  · exact onIntent_wordPlace _ _ _
  · exact onIntent_wordPlace _ _ _

theorem onIntent_intentWrites (c : Commit) : ∀ w ∈ c.intentWrites, OnIntent w := by
  intro w hw
  obtain ⟨ws, hws, hw⟩ := List.mem_flatten.1 hw
  exact onIntent_places c ws hws w hw

theorem onIntent_foldl : ∀ {ws : List (Store → Store)}, (∀ w ∈ ws, OnIntent w) →
    OnIntent fun st => ws.foldl (fun st w => w st) st
  | [], _ => ⟨id, rfl⟩
  | w :: ws, h => by
    obtain ⟨g, hg⟩ := h w (List.mem_cons_self ..)
    obtain ⟨g', hg'⟩ := onIntent_foldl fun w hw => h w (List.mem_cons_of_mem _ hw)
    refine ⟨fun x => g' (g x), ?_⟩
    funext st
    show ws.foldl (fun st w => w st) (w st) = _
    rw [show ws.foldl (fun st w => w st) (w st) = Store.onIntent g' (w st) from congrFun hg' (w st), hg]
    rfl

theorem onIntent_shownAtLast {ws : List (Store → Store)} (h : ∀ w ∈ ws, OnIntent w) :
    ∀ w ∈ shownAtLast ws, OnIntent w := by
  intro w hw
  rcases List.mem_append.1 hw with hw | hw
  · rw [(List.mem_replicate.1 hw).2]; exact ⟨id, rfl⟩
  · rw [List.mem_singleton.1 hw]; exact onIntent_foldl h

/-- Step 1 of a commit over a left intent area changes the intent area alone. -/
theorem onIntent_over (c : Commit) (x : Intent) :
    ∀ w ∈ (match x.lastBad with
      | none => c.intentWrites
      | some i => (c.placeWrites.eraseIdx i).flatten ++ shownAtLast (c.placeWrites.getD i [])),
    OnIntent w := by
  intro w hw
  split at hw
  · exact onIntent_intentWrites c w hw
  · rename_i i _
    rcases List.mem_append.1 hw with hw | hw
    · obtain ⟨ws, hws, hw⟩ := List.mem_flatten.1 hw
      exact onIntent_places c ws (List.mem_of_mem_eraseIdx hws) w hw
    · refine onIntent_shownAtLast (fun w hw => ?_) w hw
      by_cases hi : i < c.placeWrites.length
      · rw [List.getD_eq_getElem _ _ hi] at hw
        exact onIntent_places c _ (List.getElem_mem hi) w hw
      · rw [List.getD_eq_default _ _ (by omega)] at hw
        cases hw

theorem onIntent_markerMends (m : Copies Bool) : ∀ w ∈ markerMends m, OnIntent w := by
  intro w hw
  simp only [markerMends, List.mem_append] at hw
  rcases hw with h | h
  · split at h
    · rw [List.mem_singleton.1 h]; exact ⟨_, rfl⟩
    · cases h
  · split at h
    · rw [List.mem_singleton.1 h]; exact ⟨_, rfl⟩
    · cases h

/-- Every write of a commit keeps the canonical form. -/
theorem keepsCanonical_commit (c : Commit) : ∀ w ∈ c.writes, KeepsCanonical w := by
  intro w hw
  simp only [Commit.writes, List.mem_append] at hw
  rcases hw with ((h | h) | h) | h
  · obtain ⟨g, rfl⟩ := onIntent_intentWrites c w h; exact keepsCanonical_onIntent g
  · obtain ⟨g, rfl⟩ := onIntent_marker _ w h; exact keepsCanonical_onIntent g
  · exact keepsCanonical_targets c w h
  · obtain ⟨g, rfl⟩ := onIntent_marker _ w h; exact keepsCanonical_onIntent g

/-- Every write of a commit over a left intent area keeps the canonical form. -/
theorem keepsCanonical_commitOver (c : Commit) (x : Intent) :
    ∀ w ∈ c.writesOver x, KeepsCanonical w := by
  intro w hw
  simp only [Commit.writesOver, List.mem_append] at hw
  rcases hw with ((h | h) | h) | h
  · obtain ⟨g, rfl⟩ := onIntent_over c x w h; exact keepsCanonical_onIntent g
  · obtain ⟨g, rfl⟩ := onIntent_marker _ w h; exact keepsCanonical_onIntent g
  · exact keepsCanonical_targets c w h
  · obtain ⟨g, rfl⟩ := onIntent_marker _ w h; exact keepsCanonical_onIntent g

/-! ### Lists of writes -/

theorem foldl_writes_induct {P : Store → Prop} :
    ∀ {ws : List (Store → Store)}, (∀ w ∈ ws, ∀ st, P st → P (w st)) → ∀ {st}, P st →
      P (ws.foldl (fun st w => w st) st)
  | [], _, _, h => h
  | w :: ws, hw, st, h => by
    simp only [List.foldl_cons]
    exact foldl_writes_induct (fun w' hw' => hw w' (List.mem_cons_of_mem _ hw'))
      (hw w List.mem_cons_self st h)

/-- What every single write keeps, a list of writes keeps, wherever a loss of power cuts it. -/
theorem State.writes_induct {P : Store → Prop} {s : State} {ws : List (Store → Store)}
    (hw : ∀ w ∈ ws, ∀ st, P st → P (w st)) (h : P s.store) : P (s.writes ws).store := by
  simp only [State.writes, State.setCut_store, State.setStore_store]
  unfold applyWrites
  split
  · exact foldl_writes_induct hw h
  · exact foldl_writes_induct (fun w hm => hw w (List.mem_of_mem_take hm)) h

@[simp] theorem State.writes_power (s : State) (ws) : (s.writes ws).power = s.power := rfl
@[simp] theorem State.writes_tb (s : State) (ws) : (s.writes ws).tb = s.tb := rfl
@[simp] theorem State.writes_main (s : State) (ws) : (s.writes ws).main = s.main := rfl
@[simp] theorem State.writes_pending (s : State) (ws) : (s.writes ws).pending = s.pending := rfl
@[simp] theorem State.commit_power (s : State) (c) : (s.commit c).power = s.power := rfl
@[simp] theorem State.commit_tb (s : State) (c) : (s.commit c).tb = s.tb := rfl
@[simp] theorem State.commit_main (s : State) (c) : (s.commit c).main = s.main := rfl
@[simp] theorem State.commit_pending (s : State) (c) : (s.commit c).pending = s.pending := rfl

theorem State.writes_nil (s : State) : s.writes [] = s := by
  obtain ⟨p, pw, tb, st, m, cut⟩ := s
  cases cut <;> simp [State.writes, applyWrites, State.setStore, State.setCut]

theorem State.writes_cut_none {s : State} (h : s.cut = none) (ws) : (s.writes ws).cut = none := by
  simp [State.writes, h]

theorem State.commit_cut_none {s : State} (h : s.cut = none) (c) : (s.commit c).cut = none :=
  State.writes_cut_none h _

/-- A commit keeps the canonical form, wherever a loss of power cuts it. -/
theorem State.canonical_commit {s : State} (h : s.canonical) (c : Commit) : (s.commit c).canonical :=
  State.writes_induct (P := fun st => st.canonical = true) (keepsCanonical_commit c) h

/-! ### What a whole commit leaves (R138) -/

theorem Store.coreEq_iff (a b : Store) : a.coreEq b ↔ a = { b with intent := a.intent } := by
  obtain ⟨a1, a2, a3, a4, a5, a6, a7⟩ := a
  obtain ⟨b1, b2, b3, b4, b5, b6, b7⟩ := b
  simp [Store.coreEq]

theorem Store.coreEq.refl (a : Store) : a.coreEq a := ⟨rfl, rfl, rfl, rfl, rfl, rfl⟩

theorem foldl_onIntent : ∀ {ws : List (Store → Store)}, (∀ w ∈ ws, OnIntent w) → ∀ st : Store,
    ∃ x, ws.foldl (fun st w => w st) st = { st with intent := x }
  | [], _, st => ⟨st.intent, rfl⟩
  | w :: ws, h, st => by
    obtain ⟨g, rfl⟩ := h w List.mem_cons_self
    obtain ⟨x, hx⟩ := foldl_onIntent (fun w hw => h w (List.mem_cons_of_mem _ hw))
      (Store.onIntent g st)
    exact ⟨x, hx⟩

theorem foldl_writeSlotWord (n : Nat) (img : SlotImg) :
    ∀ (ks : List Nat) {st : Store}, st.canonical = true →
      (ks.map (writeSlotWord n img)).foldl (fun st w => w st) st =
        st.setSlot n (ks.foldl (fun b k => b.putWord SlotImg.setWord k img) (st.slot n))
  | [], st, h => by simp [Store.setSlot_slot h]
  | k :: ks, st, h => by
    have h1 := keepsCanonical_writeSlotWord n img k st h
    simp only [List.map_cons, List.foldl_cons]
    rw [foldl_writeSlotWord n img ks h1]
    simp only [writeSlotWord]
    rw [Store.slot_setSlot h, if_pos rfl, Store.setSlot_setSlot h]

theorem putWords_ten (img : SlotImg) (b : Block SlotImg) (h : b.ecc.length = 10) :
    (List.range Config.slotWords).foldl (fun b k => b.putWord SlotImg.setWord k img) b =
      { val := img, ecc := tenGood } := by
  obtain ⟨v, ecc⟩ := b
  match ecc, h with
  | [_, _, _, _, _, _, _, _, _, _], _ =>
    simp [List.range_succ, Block.putWord, SlotImg.setWord]

theorem putWords_seven (m : ZoneMap) (b : Block ZoneMap) (h : b.ecc.length = 7) :
    (List.range Config.zoneWords).foldl (fun b k => b.putWord ZoneMap.setWord k m) b =
      { val := m, ecc := sevenGood } := by
  obtain ⟨v, ecc⟩ := b
  match ecc, h with
  | [_, _, _, _, _, _, _], _ => rfl

theorem putWord_one {α : Type} (v : α) (b : Block α) (h : b.ecc.length = 1) :
    b.putWord setOneWord 0 v = Block.one v := by
  obtain ⟨w, ecc⟩ := b
  match ecc, h with
  | [_], _ => rfl

theorem foldl_zoneCopy1 (m : ZoneMap) : ∀ (ks : List Nat) (st : Store),
    (ks.map (zoneWord.writeCopy1 m)).foldl (fun st w => w st) st =
      { st with zone := { st.zone with
          c1 := ks.foldl (fun b k => b.putWord ZoneMap.setWord k m) st.zone.c1 } }
  | [], _ => rfl
  | k :: ks, st => by
    simp only [List.map_cons, List.foldl_cons]
    rw [foldl_zoneCopy1 m ks]
    rfl

theorem foldl_zoneCopy2 (m : ZoneMap) : ∀ (ks : List Nat) (st : Store),
    (ks.map (zoneWord.writeCopy2 m)).foldl (fun st w => w st) st =
      { st with zone := { st.zone with
          c2 := ks.foldl (fun b k => b.putWord ZoneMap.setWord k m) st.zone.c2 } }
  | [], _ => rfl
  | k :: ks, st => by
    simp only [List.map_cons, List.foldl_cons]
    rw [foldl_zoneCopy2 m ks]
    rfl

theorem foldl_image (i : Image) {st : Store} (h : st.canonical = true) :
    i.targetWrites.foldl (fun st w => w st) st = st.putImage i := by
  match i with
  | .slot n true img =>
    simp only [Image.targetWrites, foldl_writeSlotWord n img _ h,
      putWords_ten img _ (Store.slot_ecc_length h n), Store.putImage]
  | .slot n false img => rfl
  | .zone m =>
    have hz := ((Store.canonical_iff st).1 h).2.2.2.2.1
    simp only [Image.targetWrites, Control.bothWrites, Control.copy1Writes, Control.copy2Writes,
      List.foldl_append, Store.putImage]
    show List.foldl _ (List.foldl _ st (List.map _ (List.range Config.zoneWords)))
      (List.map _ (List.range Config.zoneWords)) = _
    rw [foldl_zoneCopy1, foldl_zoneCopy2, putWords_seven m _ hz.1, putWords_seven m _ hz.2]

theorem Store.canonical_putImage {st : Store} (h : st.canonical = true) (i : Image) :
    (st.putImage i).canonical = true := by
  rw [← foldl_image i h]
  exact foldl_writes_induct (P := fun st => st.canonical = true) (keepsCanonical_image i) h

theorem foldl_images : ∀ (l : List Image) {st : Store}, st.canonical = true →
    (l.flatMap Image.targetWrites).foldl (fun st w => w st) st = l.foldl Store.putImage st ∧
      (l.foldl Store.putImage st).canonical = true
  | [], _, h => ⟨rfl, h⟩
  | i :: l, st, h => by
    simp only [List.flatMap_cons, List.foldl_append, List.foldl_cons]
    rw [foldl_image i h]
    exact foldl_images l (Store.canonical_putImage h i)

theorem foldl_session (p : Nat × SessEntry) {st : Store} (h : st.canonical = true) :
    ((sessionWord p.1).bothWrites p.2).foldl (fun st w => w st) st = st.putEntry p := by
  obtain ⟨c, e⟩ := p
  have hl := Store.session_ecc_length h c
  show (st.setSession c { st.session c with c1 := (st.session c).c1.putWord setOneWord 0 e }).setSession c
    { (st.setSession c { st.session c with c1 := (st.session c).c1.putWord setOneWord 0 e }).session c with
      c2 := ((st.setSession c { st.session c with
        c1 := (st.session c).c1.putWord setOneWord 0 e }).session c).c2.putWord setOneWord 0 e } = _
  rw [Store.session_setSession h, if_pos rfl, Store.setSession_setSession h, putWord_one e _ hl.1,
    putWord_one e _ hl.2]
  rfl

theorem foldl_token (v : Token) {st : Store} (h : st.canonical = true) :
    (tokenWord.bothWrites v).foldl (fun st w => w st) st = st.putToken v := by
  have hl := ((Store.canonical_iff st).1 h).2.2.2.2.2.1
  show { st with token := { c1 := st.token.c1.putWord setOneWord 0 v,
                            c2 := st.token.c2.putWord setOneWord 0 v } } = _
  rw [putWord_one v _ hl.1, putWord_one v _ hl.2]
  rfl

theorem foldl_nonce (v : Nonce) {st : Store} (h : st.canonical = true) :
    (nonceWord.bothWrites v).foldl (fun st w => w st) st = st.putNonce v := by
  have hl := ((Store.canonical_iff st).1 h).2.2.2.2.2.2.1
  show { st with nonce := { c1 := st.nonce.c1.putWord setOneWord 0 v,
                            c2 := st.nonce.c2.putWord setOneWord 0 v } } = _
  rw [putWord_one v _ hl.1, putWord_one v _ hl.2]
  rfl

theorem foldl_flags (v : StoreFlags) {st : Store} (h : st.canonical = true) :
    (flagsWord.bothWrites v).foldl (fun st w => w st) st = st.putFlags v := by
  have hl := ((Store.canonical_iff st).1 h).2.2.2.2.2.2.2
  show { st with flags := { c1 := st.flags.c1.putWord setOneWord 0 v,
                            c2 := st.flags.c2.putWord setOneWord 0 v } } = _
  rw [putWord_one v _ hl.1, putWord_one v _ hl.2]
  rfl

/-- The writes of a part that a commit may carry: all made, they put it at its target and keep the canonical
form. -/
theorem foldl_part {α : Type} {ws : α → List (Store → Store)} {put : Store → α → Store}
    (hw : ∀ v st, st.canonical = true → (ws v).foldl (fun st w => w st) st = put st v)
    (hk : ∀ v, ∀ w ∈ ws v, KeepsCanonical w) (o : Option α) {st : Store} (h : st.canonical = true) :
    (o.elim [] ws).foldl (fun st w => w st) st = o.elim st (put st) ∧
      (o.elim st (put st)).canonical = true := by
  cases o with
  | none => exact ⟨rfl, h⟩
  | some v =>
    refine ⟨hw v st h, ?_⟩
    show (put st v).canonical = true
    rw [← hw v st h]
    exact foldl_writes_induct (P := fun st => st.canonical = true) (hk v) h

/-- The target writes of a commit, all made, put everything that it carries at its target. -/
theorem foldl_targets (c : Commit) {st : Store} (h : st.canonical = true) :
    c.targetWrites.foldl (fun st w => w st) st = st.putCommit c ∧ (st.putCommit c).canonical = true := by
  obtain ⟨h1, k1⟩ := foldl_images c.images h
  obtain ⟨h2, k2⟩ := foldl_part (ws := fun p : Nat × SessEntry => (sessionWord p.1).bothWrites p.2)
    (fun p st h => foldl_session p h) (fun p => keepsCanonical_both (lawful_session p.1) p.2) c.session k1
  obtain ⟨h3, k3⟩ := foldl_part (fun v st h => foldl_token v h) (keepsCanonical_both lawful_token)
    c.token k2
  obtain ⟨h4, k4⟩ := foldl_part (fun v st h => foldl_nonce v h) (keepsCanonical_both lawful_nonce)
    c.nonce k3
  obtain ⟨h5, k5⟩ := foldl_part (fun v st h => foldl_flags v h) (keepsCanonical_both lawful_flags)
    c.flags k4
  simp only [Commit.targetWrites, List.foldl_append, h1, h2, h3, h4, h5]
  exact ⟨rfl, k5⟩

theorem Store.canonical_intent {st : Store} {x : Intent} :
    Store.canonical { st with intent := x } = st.canonical := rfl

theorem Store.putImage_intent (st : Store) (x : Intent) (i : Image) :
    Store.putImage { st with intent := x } i = { st.putImage i with intent := x } := by
  match i with
  | .slot n true img => rfl
  | .slot n false img => rfl
  | .zone m => rfl

theorem Store.foldl_putImage_intent : ∀ (l : List Image) (st : Store) (x : Intent),
    l.foldl Store.putImage { st with intent := x } = { l.foldl Store.putImage st with intent := x }
  | [], _, _ => rfl
  | i :: l, st, x => by
    simp only [List.foldl_cons]
    rw [Store.putImage_intent, Store.foldl_putImage_intent l]

theorem Store.putCommit_intent (st : Store) (x : Intent) (c : Commit) :
    Store.putCommit { st with intent := x } c = { st.putCommit c with intent := x } := by
  obtain ⟨imgs, se, tk, no, fl⟩ := c
  simp only [Store.putCommit, Store.foldl_putImage_intent]
  cases se <;> cases tk <;> cases no <;> cases fl <;> rfl

theorem Store.coreEq.trans {a b c : Store} (h : a.coreEq b) (h' : b.coreEq c) : a.coreEq c :=
  ⟨h.1.trans h'.1, h.2.1.trans h'.2.1, h.2.2.1.trans h'.2.2.1, h.2.2.2.1.trans h'.2.2.2.1,
    h.2.2.2.2.1.trans h'.2.2.2.2.1, h.2.2.2.2.2.trans h'.2.2.2.2.2⟩

theorem Store.coreEq.putCommit {a b : Store} (h : a.coreEq b) (c : Commit) :
    (a.putCommit c).coreEq (b.putCommit c) := by
  rw [(Store.coreEq_iff a b).1 h, Store.putCommit_intent]
  exact ⟨rfl, rfl, rfl, rfl, rfl, rfl⟩

theorem Store.coreEq.slot {a b : Store} (h : a.coreEq b) (n : Nat) : a.slot n = b.slot n := by
  unfold Store.slot; rw [h.1]

theorem Store.coreEq.session {a b : Store} (h : a.coreEq b) (n : Nat) : a.session n = b.session n := by
  unfold Store.session; rw [h.2.1]

theorem Store.coreEq.canonical {a b : Store} (h : a.coreEq b) : a.canonical = b.canonical := by
  obtain ⟨h1, h2, h3, h4, h5, h6⟩ := h
  unfold Store.canonical
  rw [h1, h2, h3, h4, h5, h6]

/-- Word writes of the intent area, then the four steps' rest: everything carried is at its target (R138). -/
theorem foldl_commit {ws : List (Store → Store)} (hw : ∀ w ∈ ws, OnIntent w) {s : State} (h : s.canonical)
    (c : Commit) : ((ws ++ markerWrites true ++ c.targetWrites ++ markerWrites false).foldl
      (fun st w => w st) s.store).coreEq (s.store.putCommit c) := by
  rw [List.foldl_append, List.foldl_append, List.foldl_append]
  obtain ⟨x, hx⟩ := foldl_onIntent hw s.store
  obtain ⟨y, hy⟩ := foldl_onIntent (onIntent_marker true) { s.store with intent := x }
  rw [hx, hy, (foldl_targets c (by exact h)).1]
  obtain ⟨z, hz⟩ := foldl_onIntent (onIntent_marker false)
    (Store.putCommit { s.store with intent := y } c)
  show Store.coreEq (List.foldl _ (Store.putCommit { s.store with intent := y } c) _) _
  rw [hz, Store.putCommit_intent]
  exact ⟨rfl, rfl, rfl, rfl, rfl, rfl⟩

theorem State.writes_store {s : State} (hcut : s.cut = none) (ws : List (Store → Store)) :
    (s.writes ws).store = ws.foldl (fun st w => w st) s.store := by
  simp [State.writes, hcut, applyWrites]

/-- A whole commit leaves everything it carries at its target, and besides changes the intent area alone
(R138). -/
theorem State.commit_store {s : State} (hcut : s.cut = none) (h : s.canonical) (c : Commit) :
    (s.commit c).store.coreEq (s.store.putCommit c) := by
  rw [State.commit, State.writes_store hcut]
  exact foldl_commit (onIntent_intentWrites c) h c

/-- A whole commit over a left intent area leaves what a commit leaves (R138). -/
theorem State.commitOver_store {s : State} (hcut : s.cut = none) (h : s.canonical) (c : Commit) :
    (s.commitOver c).store.coreEq (s.store.putCommit c) := by
  rw [State.commitOver, State.writes_store hcut]
  exact foldl_commit (onIntent_over c _) h c

/-- After a whole commit the VALID marker is clear in both copies (R138, step 4). -/
theorem State.commit_marker {s : State} (hcut : s.cut = none) (c : Commit) :
    (s.commit c).store.intent.marker = Copies.two false := by
  rw [State.commit, State.writes_store hcut, Commit.writes, List.foldl_append]
  rfl

theorem State.commitOver_marker {s : State} (hcut : s.cut = none) (c : Commit) :
    (s.commitOver c).store.intent.marker = Copies.two false := by
  rw [State.commitOver, State.writes_store hcut, Commit.writesOver, List.foldl_append]
  rfl

theorem State.commit_eq (s : State) (hcut : s.cut = none) (c : Commit) :
    s.commit c = s.setStore (s.commit c).store := by
  obtain ⟨p, pw, tb, st, m, cut⟩ := s
  cases hcut
  rfl

/-- A whole commit, from a state between steps (R138). -/
theorem State.commit_becomes {s : State} (h : s.between) (c : Commit) :
    s.becomes (s.store.putCommit c) id (s.commit c) :=
  ⟨State.commit_eq s h.uncut c, State.commit_store h.uncut h.canonical c, State.commit_marker h.uncut c⟩

theorem State.between_commit {s : State} (h : s.between) (c : Commit) : (s.commit c).between :=
  ⟨State.canonical_commit h.canonical c, h.tables, State.commit_cut_none h.uncut c⟩

/-! ### Checked reads of good words -/

theorem readable_replicate_good (k : Nat) : readable (List.replicate k .good) = true := by
  simp [readable]

theorem singlesFrom_replicate_good : ∀ (k j : Nat), singlesFrom j (List.replicate k .good) = []
  | 0, _ => rfl
  | k + 1, j => by
    simp only [List.replicate_succ, singlesFrom]
    exact singlesFrom_replicate_good k (j + 1)

theorem Monitor.logWords_good (area : TrapArea) (i c : Nat) (m : Monitor) :
    ∀ (n k : Nat), Monitor.logWords area i c k (List.replicate n .good) m = m
  | 0, _ => rfl
  | n + 1, k => by
    simp only [List.replicate_succ, Monitor.logWords]
    exact Monitor.logWords_good area i c m n (k + 1)

theorem State.logWords_good (s : State) (area : TrapArea) (i c n : Nat) :
    s.logWords area i c (List.replicate n .good) = s := by
  simp only [State.logWords, Monitor.logWords_good]
  rfl

/-- A checked read of a control word that is good in both copies answers its value and changes nothing (R135). -/
theorem Control.read_holds {α : Type} [DecidableEq α] {c : Control α} {s : State} {v : α}
    (h : c.holds s v) : c.read s = (s, some v) := by
  simp only [Control.read, h, State.logWords_good, Copies.value, readable_replicate_good, if_true,
    Control.mendWrites, Control.repairWrites, singlesFrom_replicate_good, List.map_nil,
    List.append_nil, and_self]
  split <;> simp [State.writes_nil]

/-- What the wiring sees of a control word that is good in both copies. -/
theorem Control.peek_holds {α : Type} {c : Control α} {s : State} {v : α} (h : c.holds s v) :
    c.peek s = some v := by
  simp [Control.peek, h, Copies.value, readable_replicate_good]

theorem State.session_holds {s : State} {c : Nat} {e : SessEntry} (h : (sessionWord c).holds s e)
    (hl : s.entryLost c = false) : s.session c = e := by
  simp [State.session, hl, Control.peek_holds h]

/-- Outside STORE_FAULT mode no session entry is among the lost control words. -/
theorem State.entryLost_normal {s : State} (h : ¬ s.inFault) (c : Nat) : s.entryLost c = false := by
  simp [State.entryLost, h]

theorem tenGood_eq : tenGood = List.replicate 10 .good := rfl

/-- A checked read of a slot without bits in error changes nothing (R134, R141). -/
theorem State.readSlot_good {s : State} {n : Nat} (h : (s.store.slot n).ecc = tenGood) (k : Nat) :
    s.readSlot n k = (s, true) := by
  simp only [State.readSlot, h, tenGood_eq, List.take_replicate, State.logWords_good,
    readable_replicate_good, singlesFrom_replicate_good, List.map_nil, State.writes_nil]
  split <;> rfl

/-! ### Checked reads of any words -/

@[simp] theorem State.logWords_store (s : State) (a i c es) : (s.logWords a i c es).store = s.store := rfl
@[simp] theorem State.logWords_power (s : State) (a i c es) : (s.logWords a i c es).power = s.power := rfl
@[simp] theorem State.logWords_tb (s : State) (a i c es) : (s.logWords a i c es).tb = s.tb := rfl
@[simp] theorem State.logWords_cut (s : State) (a i c es) : (s.logWords a i c es).cut = s.cut := rfl
@[simp] theorem State.logWords_pending (s : State) (a i c es) :
    (s.logWords a i c es).pending = s.pending := rfl

/-- Everything that a checked read of a control word can do: the counts and the trap, in NORMAL mode the
write-backs, and, where both copies are uncorrectable, the entry into STORE_FAULT mode (R135, R136,
R141). -/
theorem Control.read_cases {α : Type} [DecidableEq α] (c : Control α) (s : State) :
    ∃ s1, s1 = (s.logWords .control c.number 1 (c.get s.store).c1.ecc).logWords .control c.number 2
        (c.get s.store).c2.ecc ∧
      ((c.peek s = none ∧ c.read s = (s1.enterFault (lostBit c.number), none)) ∨
       ∃ v, c.peek s = some v ∧
        ((s.inFault ∧ c.read s = (s1, some v)) ∨
         (¬ s.inFault ∧
          c.read s = (s1.writes (c.mendWrites s.store ++ c.repairWrites s.store), some v)))) := by
  refine ⟨_, rfl, ?_⟩
  unfold Control.read Control.peek
  cases h : (c.get s.store).value with
  | none => exact .inl ⟨rfl, by simp only [h]⟩
  | some v =>
    refine .inr ⟨v, rfl, ?_⟩
    by_cases hf : s.inFault
    · exact .inl ⟨hf, by simp only [h, if_pos hf]⟩
    · exact .inr ⟨hf, by simp only [h, if_neg hf]⟩

/-- A checked read of a control word keeps the canonical form. -/
theorem Control.canonical_read {α : Type} [DecidableEq α] {c : Control α} (hc : c.lawful) {s : State}
    (h : s.canonical) : (c.read s).1.canonical := by
  obtain ⟨s1, hs1, ⟨-, hr⟩ | ⟨v, -, ⟨-, hr⟩ | ⟨-, hr⟩⟩⟩ := Control.read_cases c s
  · rw [hr, hs1]; exact h
  · rw [hr, hs1]; exact h
  · rw [hr]
    refine State.writes_induct (P := fun st => st.canonical = true) (fun w hw => ?_) (by rw [hs1]; exact h)
    rcases List.mem_append.1 hw with hw | hw
    · exact keepsCanonical_mend hc _ w hw
    · exact keepsCanonical_repair hc _ w hw

/-- A checked read of a slot keeps the canonical form. -/
theorem State.canonical_readSlot {s : State} (h : s.canonical) (n k : Nat) :
    (s.readSlot n k).1.canonical := by
  simp only [State.readSlot]
  split
  · exact h
  · refine State.writes_induct (P := fun st => st.canonical = true) (fun w hw => ?_) h
    obtain ⟨j, -, rfl⟩ := List.mem_map.1 hw
    exact keepsCanonical_mendSlotWord n j

/-- The replay of the intent area keeps the canonical form. -/
theorem State.logPlaces_store (ps : List (Nat × List Ecc)) : ∀ s : State, (s.logPlaces ps).store = s.store := by
  induction ps with
  | nil => exact fun _ => rfl
  | cons p ps ih => exact fun s => ih _

theorem State.canonical_replay {s : State} (h : s.canonical) : s.replay.canonical := by
  have hfail : ∀ t : State, t.store = s.store → (t.failReplay).canonical := fun t ht => by
    unfold State.canonical
    rw [State.failReplay, State.setMon_store, ht]
    exact h
  simp only [State.replay]
  split
  · split
    · refine State.writes_induct (P := fun st => st.canonical = true) (fun w hw => ?_)
        (by rw [State.logPlaces_store]; exact h)
      rcases List.mem_append.1 hw with hw | hw
      · exact keepsCanonical_targets _ w hw
      · obtain ⟨g, rfl⟩ := onIntent_marker _ w hw; exact keepsCanonical_onIntent g
    · exact hfail _ (State.logPlaces_store _ _)
  · split
    · exact h
    · refine State.writes_induct (P := fun st => st.canonical = true) (fun w hw => ?_) h
      obtain ⟨g, rfl⟩ := onIntent_markerMends _ w hw; exact keepsCanonical_onIntent g

end Sys2Proof.Machine
end

