-- ==== Sys2Proof/Laws/Take.lean ====
section
/-! SUPPORT. The laws of a take: where it ends, which properties it keeps, and what the steps that every command shares do:
the checked reads, the session check, the order of checks and the response. -/

namespace Sys2Proof.Machine

/-! ### Where a take ends -/

/-- The state in which a take ends, whether it goes to its end or is ended. -/
def Take.fin {α : Type} (t : Take α) (s : State) : State :=
  match t s with
  | .ok _ s1 => s1
  | .error _ s1 => s1

variable {α β : Type}

@[simp] theorem Take.run_pure (a : α) (s : State) : (pure a : Take α) s = .ok a s := rfl
@[simp] theorem Take.run_get (s : State) : (get : Take State) s = .ok s s := rfl
@[simp] theorem Take.run_set (x s : State) : (set x : Take PUnit) s = .ok ⟨⟩ x := rfl
@[simp] theorem Take.run_modify (g : State → State) (s : State) :
    (modify g : Take PUnit) s = .ok ⟨⟩ (g s) := rfl
@[simp] theorem Take.run_throw (h : Halt) (s : State) : (throw h : Take α) s = .error h s := rfl

theorem Take.run_bind (t : Take α) (g : α → Take β) (s : State) :
    (t >>= g) s = match t s with
      | .ok a s1 => g a s1
      | .error h s1 => .error h s1 := by
  show EStateM.bind t g s = _
  unfold EStateM.bind
  cases t s <;> rfl

theorem Take.run_tryCatch (t : Take α) (g : Halt → Take α) (s : State) :
    (tryCatch t g) s = match t s with
      | .ok a s1 => .ok a s1
      | .error h s1 => g h s1 := by
  show EStateM.tryCatch t g s = _
  unfold EStateM.tryCatch
  cases t s <;> rfl

theorem Take.run_discard (t : Take α) (s : State) :
    (discard t : Take PUnit) s = match t s with
      | .ok _ s1 => .ok ⟨⟩ s1
      | .error h s1 => .error h s1 := by
  show EStateM.map _ t s = _
  unfold EStateM.map
  cases t s <;> rfl

theorem Take.bind_of_ok {t : Take α} {g : α → Take β} {s s1 : State} {a : α} (h : t s = .ok a s1) :
    (t >>= g) s = g a s1 := by rw [Take.run_bind, h]

theorem State.run_eq_fin (s : State) (t : Take Unit) : s.run t = Take.fin t s := by
  unfold State.run Take.fin
  cases t s <;> rfl

/-! ### Properties that a take keeps -/

/-- A take keeps a property of the state, however it ends. -/
def Take.Keeps (P : State → Prop) (t : Take α) : Prop := ∀ s, P s → P (Take.fin t s)

variable {P : State → Prop}

theorem Take.keeps_pure (a : α) : Take.Keeps P (pure a : Take α) := fun _ h => h

theorem Take.keeps_get : Take.Keeps P (get : Take State) := fun _ h => h

theorem Take.keeps_throw (h : Halt) : Take.Keeps P (throw h : Take α) := fun _ h => h

theorem Take.keeps_modify {g : State → State} (h : ∀ s, P s → P (g s)) :
    Take.Keeps P (modify g : Take PUnit) := fun s hs => h s hs

theorem Take.keeps_set {x : State} (h : P x) : Take.Keeps P (set x : Take PUnit) := fun _ _ => h

theorem Take.keeps_bind {t : Take α} {g : α → Take β} (h1 : Take.Keeps P t)
    (h2 : ∀ a, Take.Keeps P (g a)) : Take.Keeps P (t >>= g) := by
  intro s hs
  have h := h1 s hs
  unfold Take.fin at h ⊢
  rw [Take.run_bind]
  cases ht : t s with
  | ok a s1 => rw [ht] at h; exact h2 a s1 h
  | error e s1 => rw [ht] at h; exact h

/-- A take that goes by the state it reads first. -/
theorem Take.keeps_get_bind {g : State → Take β} (h : ∀ s, P s → Take.Keeps P (g s)) :
    Take.Keeps P (get >>= g) := fun s hs => h s hs s hs

theorem Take.keeps_ite {c : Prop} [Decidable c] {t u : Take α} (h1 : Take.Keeps P t)
    (h2 : Take.Keeps P u) : Take.Keeps P (if c then t else u) := by
  split
  · exact h1
  · exact h2

theorem Take.keeps_tryCatch {t : Take α} {g : Halt → Take α} (h1 : Take.Keeps P t)
    (h2 : ∀ e, Take.Keeps P (g e)) : Take.Keeps P (tryCatch t g) := by
  intro s hs
  have h := h1 s hs
  unfold Take.fin at h ⊢
  rw [Take.run_tryCatch]
  cases ht : t s with
  | ok a s1 => rw [ht] at h; exact h
  | error e s1 => rw [ht] at h; exact h2 e s1 h

theorem Take.keeps_discard {t : Take α} (h1 : Take.Keeps P t) :
    Take.Keeps P (discard t : Take PUnit) := by
  intro s hs
  have h := h1 s hs
  unfold Take.fin at h ⊢
  rw [Take.run_discard]
  cases ht : t s with
  | ok a s1 => rw [ht] at h; exact h
  | error e s1 => rw [ht] at h; exact h

theorem State.keeps_run {t : Take Unit} (h : Take.Keeps P t) {s : State} (hs : P s) : P (s.run t) := by
  rw [State.run_eq_fin]
  exact h s hs

theorem Take.keeps_readControl [DecidableEq α] {c : Control α} (h : ∀ s, P s → P (c.read s).1) :
    Take.Keeps P (readControl c) := by
  intro s hs
  have h1 := h s hs
  simp only [Take.fin, readControl]
  rcases hr : c.read s with ⟨s1, v⟩
  rw [hr] at h1
  cases v <;> exact h1

theorem Take.keeps_readSession {c : Nat} (h : ∀ s, P s → P ((sessionWord c).read s).1) :
    Take.Keeps P (readSession c) := by
  intro s hs
  have h1 := h s hs
  simp only [Take.fin, readSession]
  rcases hr : (sessionWord c).read s with ⟨s1, v⟩
  rw [hr] at h1
  cases v with
  | some e => exact h1
  | none =>
    dsimp only
    by_cases hf : s.inFault
    · rw [if_pos hf]; exact h1
    · rw [if_neg hf]; exact h1

theorem Take.keeps_readWords {n k : Nat} (h : ∀ s, P s → P (s.readSlot n k).1) :
    Take.Keeps P (readWords n k) := fun s hs => h s hs

/-! ### Checked reads of good words -/

theorem readControl_holds [DecidableEq α] {c : Control α} {s : State} {v : α} (h : c.holds s v) :
    readControl c s = .ok v s := by
  simp only [readControl, Control.read_holds h]

theorem readSession_holds {c : Nat} {s : State} {e : SessEntry} (h : (sessionWord c).holds s e)
    (hl : s.entryLost c = false) : readSession c s = .ok (some e) s := by
  simp only [readSession, Control.read_holds h, hl, Bool.false_eq_true, if_false]

theorem readWords_good {s : State} {n : Nat} (h : (s.store.slot n).ecc = tenGood) (k : Nat) :
    readWords n k s = .ok true s := by
  simp only [readWords, State.readSlot_good h]

/-! ### The session step (R69, R184) -/

theorem noClient_toNat : (noClient : Byte).toNat = 255 := rfl

/-- A frame that passes the session check refreshes its session's heartbeat (R69, R70). -/
theorem checkSession_passes {s : State} {f : Frame} {e : SessEntry} (h : s.passes f e) :
    checkSession f s = .ok none (s.refresh f.client.toNat e) := by
  obtain ⟨hc, hw, hx, ho, hn, hp, hl⟩ := h
  have hfree : e.state ≠ .free := by rw [ho]; simp
  have hlive : liveEntry f.client.toNat s = .ok (some e) s := by
    unfold liveEntry
    rw [Take.bind_of_ok (Take.run_get s), Take.bind_of_ok (readSession_holds hw hx)]
    simp [hfree, hl]
  unfold checkSession
  rw [if_neg (by omega), Take.bind_of_ok hlive]
  simp only [hn, hp, ho, ne_eq, not_true_eq_false, if_false]
  rfl

theorem passes_ne_noClient {s : State} {f : Frame} {e : SessEntry} (h : s.passes f e) :
    f.client ≠ noClient := by
  intro hc
  have h1 := h.1
  rw [hc] at h1
  simp [noClient, Config.sessions] at h1

/-- The session step of a frame that passes it (R184, step 5). -/
theorem sessionStep_checked {s s1 : State} {f : Frame} {need : Need} (h : s.checkedTo need f s1) :
    sessionStep need f s = .ok none s1 := by
  cases need with
  | skip => rw [show s1 = s from h]; rfl
  | needs =>
    obtain ⟨e, hp, rfl⟩ := h
    exact checkSession_passes hp
  | may =>
    rcases h with ⟨hc, rfl⟩ | ⟨e, hp, rfl⟩
    · simp [sessionStep, hc]
    · simp only [sessionStep, passes_ne_noClient hp, if_false]
      exact checkSession_passes hp
  | orSupervisor =>
    rcases h with ⟨hc, hs, rfl⟩ | ⟨e, hp, rfl⟩
    · simp only [sessionStep]
      rw [Take.bind_of_ok (Take.run_get s1)]
      simp [hc, hs]
    · simp only [sessionStep]
      rw [Take.bind_of_ok (Take.run_get s)]
      simp only [ne_eq, passes_ne_noClient hp, not_false_eq_true, if_true]
      exact checkSession_passes hp

/-! ### The order of checks and the response (R184, R186) -/

/-- A take that passes steps 3 to 6 of the order of checks is its own work, in the state after the session
step. -/
theorem judgedWith_passes {m : Marks} {f : Frame} {session : Take (Option Status)} {work : Take Reply}
    {s s1 : State} (hs : m.supervisor = true → s.main.supPort = some f.port)
    (hf : s.inFault → m.inFault = true) (hc : session s = .ok none s1) (hl : f.args.length = m.args) :
    judgedWith m f session work s = work s1 := by
  unfold judgedWith
  rw [Take.bind_of_ok (Take.run_get s), if_neg, if_neg, Take.bind_of_ok hc]
  · simp [hl]
  · rintro ⟨h1, h2⟩; rw [hf h1] at h2; cases h2
  · rintro ⟨h1, h2⟩; exact h2 (hs h1)

/-- The take of a frame whose occasion is there: the work's answer is placed in the port's buffer; STORE_FAULT where
the take was ended (R136, R183, R186). -/
theorem takeFrame_offers {s : State} {i : Instr} {cmd : Byte} {f : Frame} {work : Take Reply}
    (h : s.offers i f.port) :
    s.takeFrame i cmd f work = match work (s.accept f.port) with
      | .ok r s1 => s1.respond f.port cmd r
      | .error _ s1 => s1.respond f.port cmd (.bare .storeFault) := if_pos h

/-- Without its occasion a frame command changes nothing (log 1). -/
theorem takeFrame_not_offers {s : State} {i : Instr} {cmd : Byte} {f : Frame} {work : Take Reply}
    (h : ¬ s.offers i f.port) : s.takeFrame i cmd f work = s := if_neg h

/-- A take of a frame keeps what accepting it, its work and the response keep. -/
theorem takeFrame_keeps {s : State} {i : Instr} {cmd : Byte} {f : Frame} {work : Take Reply}
    (ha : ∀ s p, P s → P (State.accept s p)) (hr : ∀ s p b r, P s → P (State.respond s p b r))
    (hw : Take.Keeps P work) (hs : P s) : P (s.takeFrame i cmd f work) := by
  unfold State.takeFrame
  split
  · have h := hw _ (ha s f.port hs)
    unfold Take.fin at h
    split
    · rename_i h2; rw [h2] at h; exact hr _ _ _ _ h
    · rename_i h2; rw [h2] at h; exact hr _ _ _ _ h
  · exact hs

theorem marksOf_eq {s s1 : State} {i : Instr} {f : Frame} {m : Marks} (h : s.takenTo i f s1)
    (hm : marksOf i = some m) :
    s.offers i f.port ∧ (m.supervisor = true → s.main.supPort = some f.port) ∧
      (s.inFault → m.inFault = true) ∧ (s.accept f.port).checkedTo m.need f s1 ∧
      f.args.length = m.args := by
  obtain ⟨m', cmd, -, hm', h⟩ := h
  rw [hm] at hm'
  cases hm'
  exact h

@[simp] theorem State.accept_supPort (s : State) (p : PortId) :
    (s.accept p).main.supPort = s.main.supPort := rfl
@[simp] theorem State.accept_mon (s : State) (p : PortId) : (s.accept p).main.mon = s.main.mon := rfl

/-- A frame that is taken and passes the common checks is its own work in the state after the session step, and
then the response. -/
theorem takeFrame_taken {s s1 : State} {i : Instr} {cmd : Byte} {f : Frame} {m : Marks}
    {work : Take Reply} (h : s.takenTo i f s1) (hm : marksOf i = some m) :
    s.takeFrame i cmd f (judged m f work) = match work s1 with
      | .ok r s2 => s2.respond f.port cmd r
      | .error _ s2 => s2.respond f.port cmd (.bare .storeFault) := by
  obtain ⟨ho, hs, hf, hc, hl⟩ := marksOf_eq h hm
  rw [takeFrame_offers ho, judged,
    judgedWith_passes (s := s.accept f.port) hs hf (sessionStep_checked hc) hl]

end Sys2Proof.Machine
end

