-- ==== Sys2Proof/Laws/Record.lean ====
section
/-! SUPPORT. The laws of a record in hand: the touch of a record at rest, the close of a record in hand, and what handing
over results can change. -/

namespace Sys2Proof.Machine

/-! ### Handing over results (R9) -/

@[simp] theorem State.driveLines_store (s : State) : s.driveLines.store = s.store := by
  unfold State.driveLines; split <;> rfl

@[simp] theorem State.driveLines_cut (s : State) : s.driveLines.cut = s.cut := by
  unfold State.driveLines; split <;> rfl

@[simp] theorem State.offer_store (s : State) (c : Nat) (n : Notice) : (s.offer c n).store = s.store := by
  unfold State.offer; split
  · rw [State.driveLines_store]; rfl
  · rfl

@[simp] theorem State.offer_cut (s : State) (c : Nat) (n : Notice) : (s.offer c n).cut = s.cut := by
  unfold State.offer; split
  · rw [State.driveLines_cut]; rfl
  · rfl

@[simp] theorem State.handOut_store (s : State) (o : Out) : (s.handOut o).store = s.store := by
  cases o <;> simp [State.handOut] <;> rfl

@[simp] theorem State.handOut_cut (s : State) (o : Out) : (s.handOut o).cut = s.cut := by
  cases o <;> simp [State.handOut] <;> rfl

theorem State.handOuts_nil (s : State) : s.handOuts [] = s := rfl

theorem State.handOuts_cons (s : State) (o : Out) (os : List Out) :
    s.handOuts (o :: os) = (s.handOut o).handOuts os := rfl

theorem State.handOuts_append (s : State) (os ps : List Out) :
    s.handOuts (os ++ ps) = (s.handOuts os).handOuts ps := by
  simp [State.handOuts, List.foldl_append]

/-- Handing over results leaves the Retained Store as it is. -/
@[simp] theorem State.handOuts_store : ∀ (os : List Out) (s : State), (s.handOuts os).store = s.store
  | [], _ => rfl
  | o :: os, s => by rw [State.handOuts_cons, State.handOuts_store os, State.handOut_store]

@[simp] theorem State.handOuts_cut : ∀ (os : List Out) (s : State), (s.handOuts os).cut = s.cut
  | [], _ => rfl
  | o :: os, s => by rw [State.handOuts_cons, State.handOuts_cut os, State.handOut_cut]

@[simp] theorem State.driveLines_mon (s : State) : s.driveLines.main.mon = s.main.mon := by
  unfold State.driveLines; split <;> rfl

@[simp] theorem State.offer_mon (s : State) (c : Nat) (n : Notice) : (s.offer c n).main.mon = s.main.mon := by
  unfold State.offer; split
  · rw [State.driveLines_mon]; rfl
  · rfl

@[simp] theorem State.handOut_mon (s : State) (o : Out) : (s.handOut o).main.mon = s.main.mon := by
  cases o <;> simp [State.handOut] <;> rfl

/-- Handing over results leaves the Store Monitor as it is. -/
@[simp] theorem State.handOuts_mon : ∀ (os : List Out) (s : State), (s.handOuts os).main.mon = s.main.mon
  | [], _ => rfl
  | o :: os, s => by rw [State.handOuts_cons, State.handOuts_mon os, State.handOut_mon]

/-! Results handed over as before the mode (R136) leave the store and the Store Monitor, the mode with it, as they
are. -/

@[simp] theorem State.handOutsBefore_store (s : State) (os : List Out) : (s.handOutsBefore os).store = s.store :=
  State.handOuts_store os _

@[simp] theorem State.handOutsBefore_mon (s : State) (os : List Out) :
    (s.handOutsBefore os).main.mon = s.main.mon := rfl

/-- What every result keeps when it is handed over, a list of results keeps. -/
theorem State.handOuts_induct {P : State → Prop} (h : ∀ s o, P s → P (State.handOut s o)) :
    ∀ (os : List Out) {s : State}, P s → P (s.handOuts os)
  | [], _, hs => hs
  | o :: os, s, hs => State.handOuts_induct h os (h s o hs)

/-! ### The touch (R7, R8, R15) -/

/-- Where nothing is to be handed over, nothing changes. -/
theorem deliver_nil (s : State) : deliver [] s = .ok () s := rfl

/-- The results of a take are handed over, and no mark is cleared where no waiter left. -/
theorem deliver_of_ok {s : State} {outs : List Out} (h : freedClients outs = []) :
    deliver outs s = .ok () (s.handOuts outs) := by
  unfold deliver
  rw [Take.bind_of_ok (Take.run_modify _ _), h]
  rfl

theorem openHeld_good {s : State} {n : Nat} (h : (s.store.slot n).ecc = tenGood) (tok : Option Token) :
    openHeld n tok s = .ok (.ok (s.bench n tok)) s := by
  unfold openHeld
  rw [Take.bind_of_ok (readWords_good h _)]
  rfl

theorem openSlot_good {s : State} {n : Nat} (h : (s.store.slot n).ecc = tenGood) (tok : Option Token) :
    openSlot n tok s = .ok (some (s.bench n tok)) s := by
  unfold openSlot
  rw [Take.bind_of_ok (openHeld_good h tok)]
  rfl

theorem freshenHeld_kept {s : State} {b : Bench} (h : (b.lazyExpiry s.now).toRetire = false) :
    freshenHeld b s = .ok (.held (b.lazyExpiry s.now), []) s := by
  unfold freshenHeld
  rw [Take.bind_of_ok (Take.run_get s)]
  simp [h]

theorem freshen_kept {s : State} {b : Bench} (h : (b.lazyExpiry s.now).toRetire = false) :
    freshen b s = .ok (.held (b.lazyExpiry s.now)) s := by
  unfold freshen
  rw [Take.bind_of_ok (freshenHeld_kept h)]
  rfl

/-- The touch of a record at rest takes it in hand, changes nothing and has no result. -/
theorem touchHeld_atRest {s : State} {k : Key} {n : Nat} (h : s.atRest k n) (tok : Option Token)
    (hq : (s.bench n tok).lazyExpiry s.now = s.bench n tok) :
    touchHeld n tok s = .ok (.held (s.bench n tok), []) s := by
  unfold touchHeld
  rw [Take.bind_of_ok (openHeld_good h.good tok)]
  show freshenHeld (s.bench n tok) s = _
  rw [freshenHeld_kept (by rw [hq]; exact h.kept), hq]

/-- The touch of a record at rest takes it in hand and changes nothing. -/
theorem touch_atRest {s : State} {k : Key} {n : Nat} (h : s.atRest k n) :
    touch n none s = .ok (.held (s.bench n none)) s := by
  unfold touch
  rw [Take.bind_of_ok (touchHeld_atRest h none h.quiet)]
  rfl

/-! ### The close of a record in hand -/

@[simp] theorem State.bench_slot (s : State) (n : Nat) (tok) : (s.bench n tok).slot = n := rfl
@[simp] theorem State.bench_body (s : State) (n : Nat) (tok) :
    (s.bench n tok).body = (s.store.slot n).val.record := rfl
@[simp] theorem State.bench_queue (s : State) (n : Nat) (tok) : (s.bench n tok).queue = s.waitersOf n := rfl
@[simp] theorem State.bench_outs (s : State) (n : Nat) (tok) : (s.bench n tok).outs = [] := rfl
@[simp] theorem State.bench_dirty (s : State) (n : Nat) (tok) : (s.bench n tok).dirty = false := rfl
@[simp] theorem State.bench_isNew (s : State) (n : Nat) (tok) : (s.bench n tok).isNew = false := rfl
@[simp] theorem State.bench_issued (s : State) (n : Nat) (tok) : (s.bench n tok).issued = 0 := rfl
@[simp] theorem State.bench_token (s : State) (n : Nat) :
    (s.bench n none).token = s.nextToken := rfl

/-- The close of a record in hand whose results free no waiter. -/
theorem closeBench_of_ok {s : State} {b : Bench} {tok : Token} (hf : freedClients b.outs = [])
    (ht : 0 < b.issued → tokenWord.holds s tok) :
    closeBench b s = .ok () ((s.closeBenches [b]).handOuts b.outs) := by
  have h1 : Machine.closeBenches [b] s = .ok () (s.closeBenches [b]) := by
    unfold Machine.closeBenches
    by_cases hi : 0 < b.issued
    · simp only [List.any_cons, List.any_nil, Bool.or_false, hi, decide_true, if_true]
      rw [Take.bind_of_ok (a := PUnit.unit) (s1 := s)
        (by rw [Take.run_discard, readControl_holds (ht hi)])]
      rfl
    · simp only [List.any_cons, List.any_nil, Bool.or_false, hi, decide_false, Bool.false_eq_true,
        if_false]
      rfl
  unfold closeBench
  rw [Take.bind_of_ok h1, deliver_of_ok hf]

/-- The close of a record in hand that nothing was done to: nothing changes. -/
theorem closeBenches_clean {s : State} {b : Bench} (hd : b.dirty = false) (hr : b.toRetire = false)
    (hq : b.queue.map Prod.fst = s.queueOf b.slot) : s.closeBenches [b] = s := by
  simp [State.closeBenches, State.commitBenches, Bench.owed, hd, hr, State.settleIn, State.requeue, hq]

/-- The close of a record at rest that was only read: nothing changes. -/
theorem closeBench_atRest {s : State} {k : Key} {n : Nat} (h : s.atRest k n) :
    closeBench (s.bench n none) s = .ok () s := by
  rw [closeBench_of_ok (tok := 0) (by rfl) (by simp), State.bench_outs,
    closeBenches_clean rfl h.kept h.queued, State.handOuts_nil]

/-- The close of a record in hand that is changed and stays: one commit of the whole record, with the token counter
where a token was issued, then the index, the set of FREE slots and the audit (R4, R5, R53). -/
theorem closeBenches_dirty {s : State} {b : Bench} (hd : b.dirty = true) (hr : b.toRetire = false) :
    s.closeBenches [b] =
      ((((s.commit { images := [.slot b.slot true b.next.image],
                     token := if 0 < b.issued then some b.token else none }).requeue b).indexRecord
        b.slot b.body).markFree b.slot false).told b.body.key := by
  simp [State.closeBenches, State.commitBenches, Bench.owed, hd, hr, State.settleIn]

/-- The close of a record in hand that is retired: word 0 of its slot is committed FREE (R12, R15). -/
theorem closeBenches_retired {s : State} {b : Bench} (hr : b.toRetire = true) (hi : b.issued = 0) :
    s.closeBenches [b] =
      ((((s.commit { images := [.slot b.slot false { b.body.image with ident := IdWord.free }] }).requeue
        b).unindex b.body.key).markFree b.slot true).told b.body.key := by
  simp [State.closeBenches, State.commitBenches, Bench.owed, hr, hi, State.settleIn]

end Sys2Proof.Machine
end

