-- ==== Sys2Proof/Laws/Steady.lean ====
section
/-! SUPPORT. What the work of a take can do to the state, said once: it changes the state by word writes of the store and by
the updates that `Steady` lists, and by nothing else. A law of the state that those keep is kept by every
operation of a take. -/

namespace Sys2Proof.Machine

/-- A law of the state that the work of a take keeps, whatever it does: the updates that the work is made of. -/
structure Steady (P : State → Prop) : Prop where
  writes  : ∀ s ws, P s → (∀ w ∈ ws, KeepsCanonical w) → P (s.writes ws)
  mon     : ∀ s x, P s → (s.countsBounded → (s.setMon x).countsBounded) → P (s.setMon x)
  index   : ∀ s t, P s → (Tab.rising s.main.index = true → Tab.rising t = true) → P (s.setIndex t)
  free    : ∀ s x, P s → P (s.setFree x)
  quar    : ∀ s t, P s → (Tab.rising s.main.quar = true → Tab.rising t = true) → P (s.setQuar t)
  pool    : ∀ s t, P s → (Tab.rising s.main.pool = true → Tab.rising t = true) → P (s.setPool t)
  queues  : ∀ s t, P s → (Tab.wf [] s.main.queues = true → Tab.wf [] t = true) → P (s.setQueues t)
  sessV   : ∀ s t, P s → (Tab.wf SessVol.none s.main.sessV = true → Tab.wf SessVol.none t = true) →
    P (s.setSessV t)
  notices : ∀ s t, P s →
    (Tab.wf NoticeQueue.empty s.main.notices = true → Tab.wf NoticeQueue.empty t = true) →
    (s.noticesBounded → (s.setNotices t).noticesBounded) → P (s.setNotices t)
  attn    : ∀ s x, P s → P (s.setAttn x)
  audit   : ∀ s x, P s → P (s.setAudit x)
  insert  : ∀ s k r d, P s → P (s.schedInsert k r d)
  move    : ∀ s k r d, P s → P (s.schedMove k r d)
  remove  : ∀ s r, P s → P (s.schedRemove r)
  clear   : ∀ s, P s → P (s.setSched [])

namespace Steady
variable {P : State → Prop} (h : Steady P)
include h

/-! ### The store -/

theorem commit (s : State) (c : Commit) (hs : P s) : P (s.commit c) :=
  h.writes s _ hs (keepsCanonical_commit c)

theorem commitOver (s : State) (c : Commit) (hs : P s) : P (s.commitOver c) :=
  h.writes s _ hs (keepsCanonical_commitOver c _)

theorem commitIdent (s : State) (n : Nat) (w : IdWord) (hs : P s) : P (s.commitIdent n w) := h.commit s _ hs

theorem logWords (s : State) (a : TrapArea) (i c : Nat) (es : List Ecc) (hs : P s) :
    P (s.logWords a i c es) := by
  refine h.mon s _ hs fun hb => ?_
  have aux : ∀ (es : List Ecc) (k : Nat) (m : Monitor), m.corrected ≤ 65535 ∧ m.uncorrected ≤ 255 →
      (Monitor.logWords a i c k es m).corrected ≤ 65535 ∧
        (Monitor.logWords a i c k es m).uncorrected ≤ 255 := by
    intro es
    induction es with
    | nil => intro k m hm; exact hm
    | cons e es ih =>
      intro k m hm
      refine ih _ _ ?_
      cases e <;> simp [Monitor.log, hm]
  exact aux es 0 _ hb

theorem enterFault (s : State) (l : BitVec 24) (hs : P s) : P (s.enterFault l) :=
  h.mon s _ hs fun hb => hb

theorem read {α : Type} [DecidableEq α] {c : Control α} (hc : c.lawful) (s : State) (hs : P s) :
    P (c.read s).1 := by
  have h1 : P ((s.logWords .control c.number 1 (c.get s.store).c1.ecc).logWords .control c.number 2
      (c.get s.store).c2.ecc) := h.logWords _ _ _ _ _ (h.logWords _ _ _ _ _ hs)
  unfold Control.read
  dsimp only
  split
  · exact h.enterFault _ _ h1
  · split
    · exact h1
    · refine h.writes _ _ h1 fun w hw => ?_
      rcases List.mem_append.1 hw with hw | hw
      · exact keepsCanonical_mend hc _ w hw
      · exact keepsCanonical_repair hc _ w hw

theorem readSlot (s : State) (n k : Nat) (hs : P s) : P (s.readSlot n k).1 := by
  unfold State.readSlot
  dsimp only
  split
  · exact h.logWords _ _ _ _ _ hs
  · refine h.writes _ _ (h.logWords _ _ _ _ _ hs) fun w hw => ?_
    obtain ⟨k, -, rfl⟩ := List.mem_map.1 hw
    exact keepsCanonical_mendSlotWord n k

theorem keeps_readControl {α : Type} [DecidableEq α] {c : Control α} (hc : c.lawful) :
    Take.Keeps P (Machine.readControl c) := Take.keeps_readControl fun s hs => h.read hc s hs

theorem keeps_readSession (c : Nat) : Take.Keeps P (Machine.readSession c) :=
  Take.keeps_readSession fun s hs => h.read (lawful_session c) s hs

theorem keeps_readWords (n k : Nat) : Take.Keeps P (Machine.readWords n k) :=
  Take.keeps_readWords fun s hs => h.readSlot s n k hs

/-! ### The updates of the tables -/

theorem setVol (s : State) (c : Nat) (v : SessVol) (hs : P s) : P (s.setVol c v) :=
  h.sessV s _ hs fun hw => Tab.wf_set hw c v

theorem setQueueOf (s : State) (n : Nat) (q : List Nat) (hs : P s) : P (s.setQueueOf n q) :=
  h.queues s _ hs fun hw => Tab.wf_set hw n q

theorem setNoticesOf (s : State) (c : Nat) (q : NoticeQueue) (hs : P s)
    (hq : s.noticesBounded → q.queue.length ≤ 16 ∧ q.lost ≤ 255) : P (s.setNoticesOf c q) := by
  refine h.notices s _ hs (fun hw => Tab.wf_set hw c q) fun hb e he => ?_
  rcases Tab.mem_set (show e ∈ Tab.set NoticeQueue.empty s.main.notices c q from he) with rfl | he
  · exact hq hb
  · exact hb e he

theorem setIndex_put (s : State) (k : Nat) (e : IndexEntry) (hs : P s) :
    P (s.setIndex (Tab.put s.main.index k e)) := h.index s _ hs fun hw => Tab.rising_put hw k e

theorem setQuar_put (s : State) (n : Nat) (k : Option Key) (hs : P s) :
    P (s.setQuar (Tab.put s.main.quar n k)) := h.quar s _ hs fun hw => Tab.rising_put hw n k

theorem unindex (s : State) (k : Key) (hs : P s) : P (s.unindex k) :=
  h.index s _ hs fun hw => Tab.rising_del hw _

theorem indexRecord (s : State) (n : Nat) (r : Rec) (hs : P s) : P (s.indexRecord n r) :=
  h.setIndex_put s _ _ hs

theorem markFree (s : State) (n : Nat) (b : Bool) (hs : P s) : P (s.markFree n b) := h.free s _ hs

theorem told (s : State) (k : Key) (hs : P s) : P (s.told k) := h.audit s _ hs

theorem taken (s : State) (w : Waiting) (hs : P s) : P (s.taken w) := h.audit s _ hs

/-! ### Results handed over -/

theorem driveLines (s : State) (hs : P s) : P s.driveLines := by
  unfold State.driveLines
  split
  · exact hs
  · exact h.attn _ _ hs

theorem offer (s : State) (c : Nat) (n : Notice) (hs : P s) : P (s.offer c n) := by
  unfold State.offer
  split
  · refine h.driveLines _ (h.setNoticesOf _ _ _ hs fun hb => ?_)
    have hq : (s.noticesOf c).queue.length ≤ 16 ∧ (s.noticesOf c).lost ≤ 255 := by
      unfold State.noticesOf Tab.get
      cases hf : Tab.find? s.main.notices c with
      | none => simp
      | some q => exact hb _ (Tab.mem_of_find? hf)
    unfold NoticeQueue.join
    split
    · rename_i hl
      simp only [Config.noticesPerQueue] at hl
      simp only [List.length_append, List.length_singleton]
      omega
    · dsimp only; omega
  · exact hs

theorem freeWaiter (s : State) (id c : Nat) (hs : P s) : P (s.freeWaiter id c) :=
  h.setVol _ _ _ (h.pool s _ hs fun hw => Tab.rising_del hw _)

theorem handOut (s : State) (o : Out) (hs : P s) : P (s.handOut o) := by
  cases o with
  | notice c n => exact h.offer _ _ _ hs
  | insert k r d => exact h.insert _ _ _ _ hs
  | move k r d => exact h.move _ _ _ _ hs
  | remove r => exact h.remove _ _ hs
  | freeWaiter id c => exact h.freeWaiter _ _ _ hs

theorem handOuts (s : State) (os : List Out) (hs : P s) : P (s.handOuts os) :=
  State.handOuts_induct (fun s o => h.handOut s o) os hs

theorem keeps_clearMark (c : Nat) : Take.Keeps P (clearMark c) :=
  Take.keeps_bind (h.keeps_readControl (lawful_session c)) fun _ =>
    Take.keeps_ite (Take.keeps_modify fun s hs => h.commit s _ hs) (Take.keeps_pure _)

theorem keeps_clearMarks : ∀ cs : List Nat, Take.Keeps P (clearMarks cs)
  | [] => Take.keeps_pure _
  | c :: cs => Take.keeps_bind Take.keeps_get fun _ =>
      Take.keeps_ite (Take.keeps_bind (h.keeps_clearMark c) fun _ => keeps_clearMarks cs)
        (keeps_clearMarks cs)

/-! ### Quarantine, close and touch -/

theorem listQuarantined (s : State) (n : Nat) (k : Option Key) (b : Bool) (hs : P s) :
    P (s.listQuarantined n k b) := by
  have h1 := h.markFree _ n false (h.setQuar_put s n (if b then k else none) hs)
  unfold State.listQuarantined
  dsimp only
  split
  · exact h.told _ _ (h.setIndex_put _ _ _ h1)
  · exact h.told _ _ (h.unindex _ _ h1)
  · exact h1

theorem keeps_deliver (os : List Out) : Take.Keeps P (deliver os) :=
  Take.keeps_bind (Take.keeps_modify fun s hs => h.handOuts s os hs) fun _ => h.keeps_clearMarks _

theorem keeps_quarantineWork (n : Nat) : Take.Keeps P (quarantineWork n) :=
  Take.keeps_get_bind fun _ hs => Take.keeps_bind
    (Take.keeps_set (h.listQuarantined _ _ _ _ (h.commitIdent _ _ _
      (h.setQueueOf _ _ _ hs)))) fun _ => Take.keeps_pure _

theorem quarantineFree (s : State) (n : Nat) (hs : P s) : P (s.quarantineFree n) :=
  h.listQuarantined _ _ _ _ (h.commitIdent _ _ _ hs)

theorem keeps_checkFreeSlot (n : Nat) : Take.Keeps P (checkFreeSlot n) :=
  Take.keeps_bind (h.keeps_readWords n 1) fun _ => Take.keeps_ite (Take.keeps_pure _)
    (Take.keeps_bind (Take.keeps_modify fun s hs => h.quarantineFree s n hs) fun _ => Take.keeps_pure _)

theorem settleIn (s : State) (b : Bench) (hs : P s) : P (s.settleIn b) := by
  have h1 : P (s.requeue b) := by
    unfold State.requeue
    split
    · exact hs
    · exact h.setQueueOf _ _ _ hs
  unfold State.settleIn
  dsimp only
  split
  · exact h.told _ _ (h.markFree _ _ _ (h.unindex _ _ h1))
  · split
    · exact h.told _ _ (h.markFree _ _ _ (h.indexRecord _ _ _ h1))
    · exact h1

theorem foldl_settleIn : ∀ (bs : List Bench) (s : State), P s → P (bs.foldl State.settleIn s)
  | [], _, hs => hs
  | b :: bs, s, hs => foldl_settleIn bs _ (h.settleIn s b hs)

theorem closeBenches (s : State) (bs : List Bench) (hs : P s) : P (s.closeBenches bs) := by
  refine h.foldl_settleIn bs _ ?_
  unfold State.commitBenches
  split
  · exact hs
  · exact h.commit _ _ hs

theorem keeps_closeBenches (bs : List Bench) : Take.Keeps P (Machine.closeBenches bs) :=
  have h1 := Take.keeps_modify fun s hs => h.closeBenches s bs hs
  Take.keeps_ite (Take.keeps_bind (Take.keeps_discard (h.keeps_readControl lawful_token)) fun _ => h1) h1

theorem keeps_closeBench (b : Bench) : Take.Keeps P (closeBench b) :=
  Take.keeps_bind (h.keeps_closeBenches _) fun _ => h.keeps_deliver _

theorem keeps_openHeld (n : Nat) (tok : Option Token) : Take.Keeps P (openHeld n tok) :=
  Take.keeps_bind (h.keeps_readWords n _) fun _ => Take.keeps_ite
    (Take.keeps_bind Take.keeps_get fun _ => Take.keeps_pure _)
    (Take.keeps_bind (h.keeps_quarantineWork n) fun _ => Take.keeps_pure _)

theorem keeps_freshenHeld (b : Bench) : Take.Keeps P (freshenHeld b) :=
  Take.keeps_bind Take.keeps_get fun _ => Take.keeps_ite
    (Take.keeps_bind (h.keeps_closeBenches _) fun _ => Take.keeps_pure _) (Take.keeps_pure _)

theorem keeps_touchHeld (n : Nat) (tok : Option Token) : Take.Keeps P (touchHeld n tok) :=
  Take.keeps_bind (h.keeps_openHeld n tok) fun o => by
    cases o with
    | error outs => exact Take.keeps_pure _
    | ok b => exact h.keeps_freshenHeld b

theorem keeps_openSlot (n : Nat) (tok : Option Token) : Take.Keeps P (openSlot n tok) :=
  Take.keeps_bind (h.keeps_openHeld n tok) fun o => by
    cases o with
    | error outs => exact Take.keeps_bind (h.keeps_deliver outs) fun _ => Take.keeps_pure _
    | ok b => exact Take.keeps_pure _

theorem keeps_freshen (b : Bench) : Take.Keeps P (freshen b) :=
  Take.keeps_bind (h.keeps_freshenHeld b) fun r =>
    Take.keeps_bind (h.keeps_deliver r.2) fun _ => Take.keeps_pure _

theorem keeps_touch (n : Nat) (tok : Option Token) : Take.Keeps P (touch n tok) :=
  Take.keeps_bind (h.keeps_touchHeld n tok) fun r =>
    Take.keeps_bind (h.keeps_deliver r.2) fun _ => Take.keeps_pure _

/-- A take that touches a record and then goes on, as it finds the record. -/
theorem keeps_touch_bind {β : Type} {n : Nat} {tok : Option Token} {g : Touched → Take β}
    (h1 : Take.Keeps P (g .quarantined)) (h2 : Take.Keeps P (g .gone))
    (h3 : ∀ b, Take.Keeps P (g (.held b))) : Take.Keeps P (touch n tok >>= g) :=
  Take.keeps_bind (h.keeps_touch n tok) fun t => by
    cases t with
    | quarantined => exact h1
    | gone => exact h2
    | held b => exact h3 b

/-- A take that closes a record and answers. -/
theorem keeps_close_pure {β : Type} (b : Bench) (x : β) :
    Take.Keeps P (do closeBench b; pure x : Take β) :=
  Take.keeps_bind (h.keeps_closeBench b) fun _ => Take.keeps_pure _

/-! ### Sessions -/

theorem placeDeadline (s : State) (k : Kind) (c : Nat) (d : Tick) (hs : P s) :
    P (s.placeDeadline k c d) := h.insert _ _ _ _ (h.setVol _ _ _ hs)

theorem dropDeadline (s : State) (c : Nat) (hs : P s) : P (s.dropDeadline c) :=
  h.remove _ _ (h.setVol _ _ _ hs)

theorem refresh (s : State) (c : Nat) (e : SessEntry) (hs : P s) : P (s.refresh c e) :=
  h.move _ _ _ _ (h.setVol _ _ _ hs)

theorem keeps_settleRecords (form : SettleForm) (c : Nat) :
    ∀ ns : List Nat, Take.Keeps P (settleRecords form c ns)
  | [] => Take.keeps_pure _
  | _ :: ns => Take.keeps_bind
      (h.keeps_touch_bind (Take.keeps_pure _) (Take.keeps_pure _) fun _ =>
        Take.keeps_bind Take.keeps_get fun _ => h.keeps_close_pure _ _) fun _ =>
      Take.keeps_bind (keeps_settleRecords form c ns) fun _ => Take.keeps_pure _

theorem discardWaiters (s : State) (c : Nat) (hs : P s) : P (s.discardWaiters c) := by
  have hq : ∀ (l : List Nat) (g : State → Nat → List Nat) (s : State), P s →
      P (l.foldl (fun s n => s.setQueueOf n (g s n)) s) := by
    intro l g
    induction l with
    | nil => intro s hs; exact hs
    | cons n l ih => intro s hs; exact ih _ (h.setQueueOf _ _ _ hs)
  have hr : ∀ (l : List Nat) (s : State), P s →
      P (l.foldl (fun s id => s.schedRemove (.waiter id)) s) := by
    intro l
    induction l with
    | nil => intro s hs; exact hs
    | cons n l ih => intro s hs; exact ih _ (h.remove _ _ hs)
  have hf : ∀ (t : Tab Waiter) (f : Nat × Waiter → Bool) (lo : Nat), Tab.risingFrom lo t = true →
      Tab.risingFrom lo (t.filter f) = true := by
    intro t f
    induction t with
    | nil => intro lo _; rfl
    | cons e t ih =>
      intro lo hw
      obtain ⟨k, v⟩ := e
      simp only [Tab.risingFrom, Bool.and_eq_true, decide_eq_true_eq] at hw
      rw [List.filter_cons]
      split
      · simp only [Tab.risingFrom, Bool.and_eq_true, decide_eq_true_eq]
        exact ⟨hw.1, ih _ hw.2⟩
      · exact Tab.risingFrom_mono (by omega) (ih _ hw.2)
  exact h.setVol _ _ _ (hr _ _ (hq _ (fun s n => _) _ (h.pool s _ hs fun hw => hf _ _ 0 hw)))

theorem keeps_settle {α : Type} (form : SettleForm) (c : Nat) (e : SessEntry) {finish : Take α}
    (hf : Take.Keeps P finish) : Take.Keeps P (settle form c e finish) :=
  Take.keeps_bind (Take.keeps_modify fun s hs => h.commit s _ hs) fun _ =>
    Take.keeps_tryCatch
      (Take.keeps_bind Take.keeps_get fun _ => Take.keeps_bind (h.keeps_settleRecords form c _) fun _ =>
        Take.keeps_bind hf fun _ => Take.keeps_pure _)
      fun e => Take.keeps_bind (Take.keeps_modify fun s hs => h.discardWaiters s c hs) fun _ =>
        Take.keeps_throw e

theorem freeSession (s : State) (c : Nat) (hs : P s) : P (s.freeSession c) :=
  h.driveLines _ (h.setNoticesOf _ _ _ (h.setVol _ _ _ (h.remove _ _ (h.commit _ _ hs)))
    fun _ => by simp)

theorem keeps_settleRelease (c : Nat) (e : SessEntry) : Take.Keeps P (settleRelease c e) :=
  Take.keeps_discard (h.keeps_settle _ _ _ (Take.keeps_modify fun s hs => h.freeSession s c hs))

theorem lapseSession (s : State) (c : Nat) (e : SessEntry) (hs : P s) : P (s.lapseSession c e) :=
  h.setVol _ _ _ (h.dropDeadline _ _ (h.commit _ _ hs))

theorem keeps_lapse (c : Nat) (e : SessEntry) : Take.Keeps P (lapse c e) := by
  unfold lapse
  split
  · exact Take.keeps_bind (h.keeps_settleRelease c e) fun _ => Take.keeps_pure _
  · exact Take.keeps_bind (Take.keeps_discard
      (h.keeps_settle _ _ _ (Take.keeps_modify fun s hs => h.lapseSession s c e hs)))
      fun _ => Take.keeps_pure _

theorem keeps_liveEntry (c : Nat) : Take.Keeps P (liveEntry c) :=
  Take.keeps_bind Take.keeps_get fun s => Take.keeps_bind (h.keeps_readSession c) fun o => by
    cases o with
    | none => exact Take.keeps_pure _
    | some e =>
      exact Take.keeps_ite (Take.keeps_pure _) (Take.keeps_ite (Take.keeps_ite (Take.keeps_pure _)
        (Take.keeps_bind (h.keeps_lapse c e) fun _ => Take.keeps_pure _)) (Take.keeps_pure _))

theorem keeps_checkSession (f : Frame) : Take.Keeps P (checkSession f) :=
  Take.keeps_ite (Take.keeps_pure _) (Take.keeps_bind (h.keeps_liveEntry _) fun o => by
    cases o with
    | none => exact Take.keeps_pure _
    | some e =>
      exact Take.keeps_ite (Take.keeps_pure _) (Take.keeps_ite (Take.keeps_pure _)
        (Take.keeps_ite (Take.keeps_pure _)
          (Take.keeps_bind (Take.keeps_modify fun s hs => h.refresh s _ e hs) fun _ =>
            Take.keeps_pure _))))

theorem keeps_sessionStep (need : Need) (f : Frame) : Take.Keeps P (sessionStep need f) := by
  unfold sessionStep
  split
  · exact Take.keeps_pure _
  · exact h.keeps_checkSession f
  · exact Take.keeps_ite (Take.keeps_pure _) (h.keeps_checkSession f)
  · exact Take.keeps_bind Take.keeps_get fun _ => Take.keeps_ite (h.keeps_checkSession f)
      (Take.keeps_ite (Take.keeps_pure _) (Take.keeps_pure _))

omit h in
theorem keeps_judgedWith (m : Marks) (f : Frame) {session : Take (Option Status)} {work : Take Reply}
    (h1 : Take.Keeps P session) (h2 : Take.Keeps P work) :
    Take.Keeps P (judgedWith m f session work) :=
  Take.keeps_bind Take.keeps_get fun _ => Take.keeps_ite (Take.keeps_pure _)
    (Take.keeps_ite (Take.keeps_pure _) (Take.keeps_bind h1 fun o => by
      cases o with
      | some st => exact Take.keeps_pure _
      | none => exact Take.keeps_ite (Take.keeps_pure _) h2))

theorem keeps_judged (m : Marks) (f : Frame) {work : Take Reply} (h2 : Take.Keeps P work) :
    Take.Keeps P (judged m f work) := keeps_judgedWith m f (h.keeps_sessionStep _ f) h2

end Steady

end Sys2Proof.Machine
end

