-- ==== Sys2Proof/Laws/Works.lean ====
section
/-! SUPPORT. The work of every command keeps what `Steady` keeps: the frame commands, the events, the internal requests and
the restart sweep. -/

namespace Sys2Proof.Machine
namespace Steady
variable {P : State → Prop} (h : Steady P)
include h

/-! ### The directory (chapter 1) -/

theorem keeps_keyUnused (k : Key) : Take.Keeps P (keyUnused k) :=
  Take.keeps_bind Take.keeps_get fun s => by
    split
    · exact Take.keeps_pure _
    · exact Take.keeps_ite (Take.keeps_pure _)
        (h.keeps_touch_bind (Take.keeps_pure _) (Take.keeps_pure _) fun b => h.keeps_close_pure b _)

theorem keeps_createIn (n : Nat) (r : Rec) : Take.Keeps P (createIn n r) :=
  Take.keeps_bind (h.keeps_checkFreeSlot n) fun _ =>
    Take.keeps_ite (h.keeps_close_pure _ _) (Take.keeps_pure _)

theorem keeps_createWork (f : Frame) : Take.Keeps P (createWork f) :=
  Take.keeps_bind (h.keeps_readControl lawful_zone) fun _ => Take.keeps_bind Take.keeps_get fun _ =>
    Take.keeps_ite (Take.keeps_pure _) (Take.keeps_ite (Take.keeps_pure _)
      (Take.keeps_bind (h.keeps_keyUnused _) fun o => by
        cases o with
        | some st => exact Take.keeps_pure _
        | none =>
          exact Take.keeps_bind Take.keeps_get fun s => by
            split
            · exact Take.keeps_pure _
            · exact Take.keeps_ite (Take.keeps_pure _) (h.keeps_createIn _ _)))

theorem keeps_retireRecord (k : Key) : Take.Keeps P (retireRecord k) :=
  Take.keeps_bind Take.keeps_get fun s => by
    split
    · exact Take.keeps_pure _
    · exact Take.keeps_ite (Take.keeps_pure _)
        (h.keeps_touch_bind (Take.keeps_pure _) (Take.keeps_pure _) fun b =>
          Take.keeps_ite (h.keeps_close_pure _ _) (h.keeps_close_pure _ _))

theorem keeps_retireWork (f : Frame) : Take.Keeps P (retireWork f) :=
  Take.keeps_bind (h.keeps_readControl lawful_zone) fun _ => Take.keeps_bind Take.keeps_get fun _ =>
    Take.keeps_ite (Take.keeps_pure _) (Take.keeps_ite (Take.keeps_pure _) (h.keeps_retireRecord _))

theorem keeps_showRecord (n : Nat) : Take.Keeps P (showRecord n) :=
  Take.keeps_bind Take.keeps_get fun _ => Take.keeps_bind (h.keeps_readWords n _) fun _ =>
    Take.keeps_pure _

theorem keeps_lookupRecord (k : Key) (n : Nat) : Take.Keeps P (lookupRecord k n) :=
  Take.keeps_bind Take.keeps_get fun s => Take.keeps_ite
    (Take.keeps_bind (h.keeps_showRecord n) fun o => by cases o <;> exact Take.keeps_pure _)
    (h.keeps_touch_bind (Take.keeps_pure _) (Take.keeps_pure _) fun b => h.keeps_close_pure b _)

theorem keeps_lookupWork (f : Frame) : Take.Keeps P (lookupWork f) :=
  Take.keeps_bind Take.keeps_get fun s => Take.keeps_ite (Take.keeps_pure _) (by
    split
    · exact Take.keeps_pure _
    · exact Take.keeps_ite (Take.keeps_pure _) (h.keeps_lookupRecord _ _))

theorem keeps_listRecord (k : Key) (e : IndexEntry) : Take.Keeps P (listRecord k e) :=
  Take.keeps_bind Take.keeps_get fun s => Take.keeps_ite (Take.keeps_pure _) (Take.keeps_ite
    (Take.keeps_bind (h.keeps_showRecord _) fun o => by cases o <;> exact Take.keeps_pure _)
    (h.keeps_touch_bind (Take.keeps_bind Take.keeps_get fun _ => Take.keeps_pure _) (Take.keeps_pure _)
      fun b => h.keeps_close_pure b _))

theorem keeps_enumWalk : ∀ (es : List (Nat × IndexEntry)) (left : Nat), Take.Keeps P (enumWalk es left)
  | [], _ => Take.keeps_pure _
  | (k, e) :: es, left => Take.keeps_bind (h.keeps_listRecord _ e) fun o => by
    split
    · exact keeps_enumWalk es left
    · exact Take.keeps_pure _
    · exact Take.keeps_bind (keeps_enumWalk es _) fun _ => Take.keeps_pure _

theorem keeps_enumerateWork (f : Frame) : Take.Keeps P (enumerateWork f) :=
  Take.keeps_bind Take.keeps_get fun _ => Take.keeps_ite (Take.keeps_pure _)
    (Take.keeps_ite (Take.keeps_pure _)
      (Take.keeps_bind (h.keeps_enumWalk _ _) fun _ => Take.keeps_pure _))

/-! ### Grants (chapter 2) -/

theorem keeps_prepareRecord (k : Key) (tok : Option Token) (l : List Nat) :
    Take.Keeps P (prepareRecord k tok l) :=
  Take.keeps_bind (h.keeps_readControl lawful_zone) fun _ => Take.keeps_bind Take.keeps_get fun s =>
    Take.keeps_ite (Take.keeps_pure _) (by
      split
      · exact Take.keeps_pure _
      · exact Take.keeps_bind (h.keeps_checkFreeSlot _) fun _ =>
          Take.keeps_ite (Take.keeps_pure _) (Take.keeps_pure _))

theorem keeps_locate (k : Key) (tok : Option Token) (l : List Nat) : Take.Keeps P (locate k tok l) :=
  Take.keeps_bind Take.keeps_get fun s => by
    split
    · exact h.keeps_prepareRecord k tok l
    · exact Take.keeps_ite (Take.keeps_pure _)
        (h.keeps_touch_bind (Take.keeps_pure _) (h.keeps_prepareRecord k tok l) fun b =>
          Take.keeps_pure _)

theorem keeps_closeRefused (b : Bench) : Take.Keeps P (closeRefused b) :=
  Take.keeps_ite (Take.keeps_pure _) (h.keeps_closeBench b)

theorem keeps_refused_pure {β : Type} (b : Bench) (x : β) :
    Take.Keeps P (do closeRefused b; pure x : Take β) :=
  Take.keeps_bind (h.keeps_closeRefused b) fun _ => Take.keeps_pure _

theorem enqueue (s : State) (id : Nat) (w : Waiter) (hs : P s) : P (s.enqueue id w) :=
  h.insert _ _ _ _ (h.setVol _ _ _ (h.setQueueOf _ _ _ (h.pool s _ hs fun hw => Tab.rising_put hw _ _)))

theorem keeps_queueRequest (id : Nat) (w : Waiter) : Take.Keeps P (queueRequest id w) :=
  Take.keeps_bind Take.keeps_get fun _ => Take.keeps_ite
    (Take.keeps_bind (h.keeps_readControl (lawful_session _)) fun _ =>
      Take.keeps_bind (Take.keeps_modify fun s hs => h.commit _ _ (h.enqueue s id w hs)) fun _ =>
        Take.keeps_pure _)
    (Take.keeps_bind (Take.keeps_modify fun s hs => h.enqueue s id w hs) fun _ => Take.keeps_pure _)

theorem keeps_waitRequest (b : Bench) (c : Nat) (m : Mode) (t w : Term) :
    Take.Keeps P (waitRequest b c m t w) :=
  Take.keeps_bind (h.keeps_readControl lawful_zone) fun _ => Take.keeps_bind Take.keeps_get fun s =>
    Take.keeps_ite (Take.keeps_pure _) (by
      split
      · exact Take.keeps_pure _
      · exact Take.keeps_ite (Take.keeps_pure _) (h.keeps_queueRequest _ _))

theorem keeps_acquireOn (b : Bench) (c : Nat) (m : Mode) (t w : Term) :
    Take.Keeps P (acquireOn b c m t w) :=
  Take.keeps_bind Take.keeps_get fun _ => Take.keeps_ite (h.keeps_refused_pure b _)
    (Take.keeps_ite (h.keeps_refused_pure b _) (Take.keeps_ite (h.keeps_close_pure _ _)
      (Take.keeps_ite (h.keeps_refused_pure b _)
        (Take.keeps_bind (h.keeps_closeRefused b) fun _ => h.keeps_waitRequest b c m _ w))))

theorem keeps_acquireWork (f : Frame) : Take.Keeps P (acquireWork f) :=
  Take.keeps_ite (Take.keeps_pure _) (by
    split
    · exact Take.keeps_pure _
    · exact Take.keeps_bind (h.keeps_locate _ _ _) fun o => by
        cases o with
        | error st => exact Take.keeps_pure _
        | ok b => exact h.keeps_acquireOn b _ _ _ _)

theorem handOutsBefore (s : State) (os : List Out) (hs : P s) : P (s.handOutsBefore os) :=
  h.mon _ _ (h.handOuts _ os (h.mon s _ hs fun hb => hb)) fun hb => by
    rw [State.countsBounded, State.handOuts_mon] at hb
    exact hb

theorem keeps_orHandOver {β : Type} (cs : List Change) {work : Take β} (hw : Take.Keeps P work) :
    Take.Keeps P (orHandOver cs work) :=
  Take.keeps_tryCatch hw fun e =>
    Take.keeps_bind (Take.keeps_modify fun s hs => h.handOutsBefore s _ hs) fun _ => Take.keeps_throw e

theorem keeps_locateHeld (k : Key) (tok : Option Token) (l : List Nat) (past : List Change) :
    Take.Keeps P (locateHeld k tok l past) :=
  have hp : ∀ cs, Take.Keeps P (orHandOver cs (prepareRecord k tok l)) := fun cs =>
    h.keeps_orHandOver cs (h.keeps_prepareRecord k tok l)
  Take.keeps_bind Take.keeps_get fun s => by
    split
    · exact Take.keeps_bind (hp past) fun _ => Take.keeps_pure _
    · refine Take.keeps_ite (Take.keeps_pure _) (Take.keeps_bind (h.keeps_touchHeld _ tok) fun r => ?_)
      obtain ⟨t, outs⟩ := r
      cases t with
      | quarantined => exact Take.keeps_pure _
      | gone => exact Take.keeps_bind (hp _) fun _ => Take.keeps_pure _
      | held b => exact Take.keeps_pure _

theorem keeps_closeAll : ∀ cs : List Change, Take.Keeps P (closeAll cs)
  | [] => Take.keeps_pure _
  | .committed outs :: cs =>
    Take.keeps_bind (h.keeps_orHandOver cs (h.keeps_deliver outs)) fun _ => keeps_closeAll cs
  | .inHand b :: cs =>
    Take.keeps_bind (h.keeps_orHandOver cs (h.keeps_closeRefused b)) fun _ => keeps_closeAll cs

theorem keeps_examine (c : Nat) (t : Term) : ∀ (l : List (Key × Mode)) (done : List SetItem)
    (past : List Change), Take.Keeps P (examine c t l done past)
  | [], _, _ => Take.keeps_pure _
  | (k, m) :: l, done, past => Take.keeps_bind (h.keeps_locateHeld _ _ _ past) fun o => by
    obtain ⟨r, past⟩ := o
    cases r with
    | error st => exact Take.keeps_bind (h.keeps_closeAll _) fun _ => Take.keeps_pure _
    | ok b =>
      dsimp only
      split
      · exact Take.keeps_bind (h.keeps_closeAll _) fun _ => Take.keeps_pure _
      · exact keeps_examine c t l _ _

theorem keeps_grantSet (c : Nat) (l : List SetItem) (past : List Change) :
    Take.Keeps P (grantSet c l past) :=
  Take.keeps_bind Take.keeps_get fun _ => Take.keeps_bind
    (h.keeps_orHandOver past (h.keeps_closeBenches _)) fun _ =>
      Take.keeps_bind (h.keeps_deliver _) fun _ => Take.keeps_pure _

theorem keeps_acquireSetWork (f : Frame) : Take.Keeps P (acquireSetWork f) :=
  Take.keeps_ite (Take.keeps_pure _) (Take.keeps_ite (Take.keeps_pure _) (by
    split
    · exact Take.keeps_pure _
    · exact Take.keeps_bind (h.keeps_examine _ _ _ _ _) fun o => by
        cases o with
        | error r => exact Take.keeps_pure _
        | ok l => exact h.keeps_grantSet _ l.1 l.2))

theorem keeps_locateGrant (k : Key) (t : Token) : Take.Keeps P (locateGrant k t) :=
  Take.keeps_bind Take.keeps_get fun s => Take.keeps_ite (Take.keeps_pure _)
    (Take.keeps_ite (Take.keeps_pure _) (by
      split
      · exact Take.keeps_pure _
      · exact Take.keeps_ite (Take.keeps_pure _)
          (h.keeps_touch_bind (Take.keeps_pure _) (Take.keeps_pure _) fun _ => Take.keeps_pure _)))

theorem keeps_onGrant (f : Frame) {work : Bench → Grant → Take Reply}
    (hw : ∀ b g, Take.Keeps P (work b g)) : Take.Keeps P (onGrant f work) :=
  Take.keeps_bind (h.keeps_locateGrant _ _) fun o => by
    cases o with
    | error st => exact Take.keeps_pure _
    | ok b =>
      dsimp only
      split
      · exact h.keeps_close_pure b _
      · exact hw b _

theorem keeps_renewGrant (t : Term) (b : Bench) (g : Grant) : Take.Keeps P (renewGrant t b g) :=
  Take.keeps_bind Take.keeps_get fun _ => Take.keeps_ite (h.keeps_close_pure _ _) (h.keeps_close_pure _ _)

theorem keeps_releaseGrant (b : Bench) (g : Grant) : Take.Keeps P (releaseGrant b g) :=
  Take.keeps_bind Take.keeps_get fun _ => h.keeps_close_pure _ _

theorem keeps_downgradeGrant (b : Bench) (g : Grant) : Take.Keeps P (downgradeGrant b g) :=
  Take.keeps_bind Take.keeps_get fun _ => Take.keeps_ite (h.keeps_close_pure _ _) (h.keeps_close_pure _ _)

theorem keeps_expireRecord (n : Nat) (t : Token) (d : Tick) : Take.Keeps P (expireRecord n t d) :=
  Take.keeps_bind Take.keeps_get fun _ => Take.keeps_ite (Take.keeps_pure _)
    (Take.keeps_bind (h.keeps_openSlot n none) fun o => by
      cases o with
      | none => exact Take.keeps_pure _
      | some b =>
        dsimp only
        split
        · exact Take.keeps_pure _
        · exact Take.keeps_ite (Take.keeps_bind (h.keeps_freshen b) fun t => by
            cases t with
            | quarantined => exact Take.keeps_pure _
            | gone => exact Take.keeps_pure _
            | held b => exact h.keeps_closeBench b) (Take.keeps_pure _))

/-! ### Waiters (chapter 3) -/

theorem keeps_cancelOn (id c n : Nat) : Take.Keeps P (cancelOn id c n) :=
  h.keeps_touch_bind (Take.keeps_pure _) (Take.keeps_pure _) fun b => by
    dsimp only
    split
    · exact h.keeps_close_pure b _
    · exact Take.keeps_bind Take.keeps_get fun _ => h.keeps_close_pure _ _

theorem keeps_cancelWaitWork (f : Frame) : Take.Keeps P (cancelWaitWork f) :=
  Take.keeps_bind Take.keeps_get fun s => Take.keeps_ite (Take.keeps_pure _)
    (Take.keeps_ite (Take.keeps_pure _) (by
      split
      · exact Take.keeps_pure _
      · exact Take.keeps_ite (Take.keeps_pure _) (h.keeps_cancelOn _ _ _)))

theorem keeps_timeoutRecord (id : Nat) (d : Tick) : Take.Keeps P (timeoutRecord id d) :=
  Take.keeps_bind Take.keeps_get fun s => by
    split
    · exact Take.keeps_pure _
    · exact Take.keeps_ite
        (h.keeps_touch_bind (Take.keeps_pure _) (Take.keeps_pure _) fun b => h.keeps_closeBench b)
        (Take.keeps_pure _)

/-! ### Sessions (chapter 4) -/

theorem keeps_firstFreeSession : ∀ cs : List Nat, Take.Keeps P (firstFreeSession cs)
  | [] => Take.keeps_pure _
  | c :: cs => Take.keeps_bind (h.keeps_readControl (lawful_session c)) fun _ =>
      Take.keeps_ite (Take.keeps_pure _) (keeps_firstFreeSession cs)

theorem beginSession (s : State) (c : Nat) (t : Term) (hs : P s) : P (s.beginSession c t) :=
  h.placeDeadline _ _ _ _ (h.setNoticesOf _ _ _ (h.setVol _ _ _ hs) fun _ => by simp)

theorem keeps_openWith (p : PortId) (t : Term) (pol : Policy) (a : Bool) :
    Take.Keeps P (openWith p t pol a) :=
  Take.keeps_bind (h.keeps_firstFreeSession _) fun o => by
    cases o with
    | none => exact Take.keeps_pure _
    | some c =>
      exact Take.keeps_bind (h.keeps_readControl lawful_nonce) fun _ => Take.keeps_bind
        (Take.keeps_modify fun s hs => h.driveLines _ (h.beginSession _ _ _ (h.commit s _ hs))) fun _ =>
          Take.keeps_bind Take.keeps_get fun _ => Take.keeps_pure _

theorem keeps_openWork (f : Frame) : Take.Keeps P (openWork f) :=
  Take.keeps_ite (Take.keeps_pure _) (Take.keeps_ite (Take.keeps_pure _) (by
    split
    · exact h.keeps_openWith _ _ _ _
    · exact Take.keeps_pure _))

theorem keeps_closeWork (f : Frame) : Take.Keeps P (closeWork f) :=
  Take.keeps_bind (h.keeps_readControl (lawful_session _)) fun e =>
    Take.keeps_bind (h.keeps_settleRelease _ e) fun _ => Take.keeps_pure _

omit h in
theorem keeps_pingWork (f : Frame) : Take.Keeps P (pingWork f) :=
  Take.keeps_bind Take.keeps_get fun _ => Take.keeps_pure _

theorem keeps_reopen (c : Nat) (e : SessEntry) (p : PortId) : Take.Keeps P (reopen c e p) :=
  Take.keeps_bind (h.keeps_readControl lawful_nonce) fun _ => Take.keeps_bind
    (Take.keeps_modify fun s hs => h.driveLines _
      (h.placeDeadline _ _ _ _ (h.setVol _ _ _ (h.commit s _ hs)))) fun _ => Take.keeps_pure _

theorem keeps_reattachSuspect (c : Nat) (e : SessEntry) (p : PortId) :
    Take.Keeps P (reattachSuspect c e p) :=
  Take.keeps_bind Take.keeps_get fun _ => Take.keeps_bind (h.keeps_reopen c e p) fun _ =>
    Take.keeps_pure _

theorem keeps_reattachRevive (form : SettleForm) (c : Nat) (e : SessEntry) (p : PortId) :
    Take.Keeps P (reattachRevive form c e p) :=
  Take.keeps_bind Take.keeps_get fun _ =>
    Take.keeps_bind (h.keeps_settle form c e (h.keeps_reopen _ _ _)) fun _ => Take.keeps_pure _

theorem keeps_reattachWork (f : Frame) : Take.Keeps P (reattachWork f) := by
  have h1 : ∀ (e : SessEntry), Take.Keeps P (
      if e.state = .free ∨ e.nonce ≠ f.nonce then (pure (.bare .staleSession) : Take Reply)
      else if e.state = .suspect then
        (if f.args ≠ [] then pure (.bare .badArg) else reattachSuspect f.client.toNat e f.port)
      else if e.state = .lapsed then
        (if f.args ≠ [] then pure (.bare .badArg) else reattachRevive .revive f.client.toNat e f.port)
      else pure (.bare .staleSession)) := fun e =>
    Take.keeps_ite (Take.keeps_pure _) (Take.keeps_ite
      (Take.keeps_ite (Take.keeps_pure _) (h.keeps_reattachSuspect _ _ _))
      (Take.keeps_ite (Take.keeps_ite (Take.keeps_pure _) (h.keeps_reattachRevive _ _ _ _))
        (Take.keeps_pure _)))
  exact Take.keeps_ite (Take.keeps_pure _) (Take.keeps_bind (h.keeps_readControl (lawful_session _))
    fun e => Take.keeps_bind Take.keeps_get fun _ => Take.keeps_ite (Take.keeps_pure _)
      (Take.keeps_ite (h.keeps_reattachRevive _ _ _ _)
        (Take.keeps_bind (Take.keeps_ite (h.keeps_lapse _ e) (Take.keeps_pure _)) fun e1 => h1 e1)))

theorem keeps_countGrants (c : Nat) : ∀ ns : List Nat, Take.Keeps P (countGrants c ns)
  | [] => Take.keeps_pure _
  | _ :: ns => Take.keeps_bind
      (h.keeps_touch_bind (Take.keeps_pure _) (Take.keeps_pure _) fun b => h.keeps_close_pure b _)
      fun _ => Take.keeps_bind (keeps_countGrants c ns) fun _ => Take.keeps_pure _

theorem keeps_sessionStatusWork (f : Frame) : Take.Keeps P (sessionStatusWork f) := by
  have h1 : Take.Keeps P (do
      let s ← get
      let n ← countGrants (byteAt f.args 0).toNat (s.grantSlots (byteAt f.args 0).toNat)
      let s ← get
      pure (.ok (statusPayload (s.session (byteAt f.args 0).toNat) n
        (s.vol (byteAt f.args 0).toNat).waitCount (s.noticesOf (byteAt f.args 0).toNat))) : Take Reply) :=
    Take.keeps_bind Take.keeps_get fun _ => Take.keeps_bind (h.keeps_countGrants _ _) fun _ =>
      Take.keeps_bind Take.keeps_get fun _ => Take.keeps_pure _
  exact Take.keeps_ite (Take.keeps_pure _) (Take.keeps_bind (h.keeps_readControl (lawful_session _))
    fun e => Take.keeps_bind Take.keeps_get fun _ => Take.keeps_ite
      (Take.keeps_bind (Take.keeps_discard (h.keeps_lapse _ e)) fun _ => h1) h1)

theorem keeps_dismissWork (f : Frame) : Take.Keeps P (dismissWork f) :=
  Take.keeps_ite (Take.keeps_pure _) (Take.keeps_bind (h.keeps_readControl (lawful_session _))
    fun e => Take.keeps_ite (Take.keeps_pure _)
      (Take.keeps_bind (h.keeps_settleRelease _ e) fun _ => Take.keeps_pure _))

theorem requestLapse (s : State) (k : SessKind) (c : Nat) (b : Bool) (hs : P s) :
    P (s.requestLapse k c b) := by
  cases k <;> exact h.setVol _ _ _ hs

theorem keeps_sessionEvent (k : SessKind) (st : SessState) (c : Nat) (d : Tick) :
    Take.Keeps P (sessionEvent k st c d) :=
  Take.keeps_bind (h.keeps_readSession c) fun o => by
    cases o with
    | none => exact Take.keeps_pure _
    | some e =>
      exact Take.keeps_bind Take.keeps_get fun _ => Take.keeps_ite
        (Take.keeps_modify fun s hs => h.requestLapse s k c true hs) (Take.keeps_pure _)

theorem keeps_lapseWork (k : SessKind) (c : Nat) : Take.Keeps P (lapseWork k c) :=
  Take.keeps_bind (h.keeps_readControl (lawful_session _)) fun e => Take.keeps_bind Take.keeps_get
    fun _ => Take.keeps_ite (Take.keeps_discard (h.keeps_lapse c e)) (Take.keeps_pure _)

/-! ### Notices, zones and supervisor control (chapters 6 and 7) -/

theorem keeps_fetchWork (f : Frame) : Take.Keeps P (fetchWork f) :=
  Take.keeps_get_bind fun s hs => Take.keeps_ite (Take.keeps_pure _)
    (Take.keeps_bind (Take.keeps_set (h.driveLines _ (h.setNoticesOf _ _ _ hs fun hb => by
      have hq : (s.noticesOf f.client.toNat).queue.length ≤ 16 := by
        unfold State.noticesOf Tab.get
        cases hf : Tab.find? s.main.notices f.client.toNat with
        | none => simp
        | some q => exact (hb _ (Tab.mem_of_find? hf)).1
      simp only [NoticeQueue.fetched, List.length_drop]
      omega))) fun _ => Take.keeps_pure _)

theorem keeps_attentionWork (f : Frame) : Take.Keeps P (attentionWork f) := by
  unfold attentionWork
  split
  · exact Take.keeps_pure _
  · exact Take.keeps_bind (h.keeps_readControl (lawful_session _)) fun _ => Take.keeps_ite
      (Take.keeps_bind (Take.keeps_modify fun s hs => h.driveLines s hs) fun _ => Take.keeps_pure _)
      (Take.keeps_bind (Take.keeps_modify fun s hs => h.driveLines _ (h.commit s _ hs)) fun _ =>
        Take.keeps_pure _)

theorem keeps_commit_pure {β : Type} (c : Commit) (x : β) :
    Take.Keeps P (do modify fun s => s.commit c; pure x : Take β) :=
  Take.keeps_bind (Take.keeps_modify fun s hs => h.commit s c hs) fun _ => Take.keeps_pure _

theorem keeps_zoneSetWork (f : Frame) : Take.Keeps P (zoneSetWork f) := by
  unfold zoneSetWork
  split
  · exact Take.keeps_pure _
  · exact Take.keeps_bind (h.keeps_readControl lawful_zone) fun _ => Take.keeps_bind Take.keeps_get
      fun _ => Take.keeps_ite (Take.keeps_pure _) (Take.keeps_ite (Take.keeps_pure _)
        (h.keeps_commit_pure _ _))

theorem keeps_zoneFreezeWork : Take.Keeps P zoneFreezeWork :=
  Take.keeps_bind (h.keeps_readControl lawful_zone) fun _ => Take.keeps_ite (Take.keeps_pure _)
    (h.keeps_commit_pure _ _)

theorem keeps_zoneReadWork : Take.Keeps P zoneReadWork :=
  Take.keeps_bind (h.keeps_readControl lawful_zone) fun _ => Take.keeps_pure _

theorem keeps_forceReleaseWork (f : Frame) : Take.Keeps P (forceReleaseWork f) :=
  Take.keeps_bind (h.keeps_locateGrant _ _) fun o => by
    cases o with
    | error st => exact Take.keeps_pure _
    | ok b =>
      dsimp only
      split
      · exact h.keeps_close_pure b _
      · exact Take.keeps_bind Take.keeps_get fun _ => h.keeps_close_pure _ _

theorem freeSlotsFrom : ∀ (k n : Nat) (s : State), P s → P (s.freeSlotsFrom k n)
  | 0, _, _, hs => hs
  | k + 1, n, _, hs => freeSlotsFrom k (n + 4) _ (h.commit _ _ hs)

theorem freeAllSessions (s : State) (hs : P s) : P s.freeAllSessions := by
  have aux : ∀ (l : List Nat) (s : State), P s →
      P (l.foldl (fun s c => s.commit { session := some (c, SessEntry.free) }) s) := by
    intro l
    induction l with
    | nil => intro s hs; exact hs
    | cons c l ih => intro s hs; exact ih _ (h.commit _ _ hs)
  exact aux _ s hs

theorem discardVolatile (s : State) (hs : P s) : P s.discardVolatile :=
  h.attn _ _ (h.audit _ _ (h.quar _ _ (h.free _ _ (h.index _ _ (h.sessV _ _ (h.notices _ _
    (h.clear _ (h.queues _ _ (h.pool _ _ hs fun _ => rfl) fun _ => rfl)) (fun _ => rfl)
    (fun _ _ he => nomatch he)) fun _ => rfl) fun _ => rfl)) fun _ => rfl))

theorem freeAllSlots (s : State) (hs : P s) : P s.freeAllSlots := by
  unfold State.freeAllSlots
  exact h.freeSlotsFrom _ _ _ hs

theorem endFault (s : State) (hs : P s) :
    P (s.setMon { s.main.mon with fault := false, lost := 0, replayFailed := false }) :=
  h.mon _ _ hs fun hb => hb

theorem wipeRest (s : State) (fl : StoreFlags) (hs : P s) : P (s.wipeRest fl) := by
  unfold State.wipeRest
  exact h.endFault _ (h.commit _ _ (h.freeAllSessions _ (h.freeAllSlots _ (h.discardVolatile s hs))))

theorem wipeInFault (s : State) (fl : Option StoreFlags) (hs : P s) : P (s.wipeInFault fl) :=
  h.wipeRest _ _ (h.commitOver _ _ (h.read lawful_nonce _ (h.read lawful_token _ (h.read lawful_zone s hs))))

theorem wipe (s : State) (hs : P s) : P s.wipe := by
  have h1 := h.read lawful_flags s hs
  unfold State.wipe
  dsimp only
  split
  · exact h.wipeInFault _ _ h1
  · split
    · exact h.wipeInFault _ _ h1
    · exact h.wipeRest _ _ (h.commit _ _ h1)

theorem keeps_wipeWork : Take.Keeps P wipeWork :=
  Take.keeps_bind (Take.keeps_modify fun s hs => h.wipe s hs) fun _ => Take.keeps_pure _

theorem keeps_wipeSession (f : Frame) : Take.Keeps P (wipeSession f) :=
  Take.keeps_tryCatch (h.keeps_sessionStep _ f) fun _ => h.keeps_sessionStep _ f

/-! ### The store and the audit (chapters 8 and 9) -/

theorem keeps_storeStatusWork : Take.Keeps P storeStatusWork :=
  Take.keeps_get_bind fun s hs => Take.keeps_ite
    (Take.keeps_bind (Take.keeps_set (h.read lawful_flags s hs)) fun _ => Take.keeps_pure _)
    (Take.keeps_bind (h.keeps_readControl lawful_flags) fun _ => Take.keeps_bind Take.keeps_get fun _ =>
      Take.keeps_pure _)

theorem keeps_storeClearWork : Take.Keeps P storeClearWork :=
  Take.keeps_bind (h.keeps_readControl lawful_flags) fun _ => Take.keeps_bind
    (Take.keeps_modify fun s hs => h.mon s _ hs fun _ => ⟨Nat.zero_le _, Nat.zero_le _⟩) fun _ =>
      Take.keeps_ite (h.keeps_commit_pure _ _) (Take.keeps_pure _)

theorem keeps_scrubControlWork (f : Frame) : Take.Keeps P (scrubControlWork f) :=
  Take.keeps_get_bind fun s hs => Take.keeps_bind
    (Take.keeps_set (h.taken _ _ (h.mon s _ hs fun hb => hb))) fun _ => Take.keeps_pure _

theorem reclaim (s : State) (n : Nat) (key : Option Key) (hs : P s) : P (s.reclaim n key) := by
  have h1 := h.markFree _ n true (h.quar (s.commit { images := [freedImage s.store n] })
    (Tab.del s.main.quar n) (h.commit s _ hs) fun hw => Tab.rising_del hw n)
  unfold State.reclaim
  dsimp only
  split
  · exact h.told _ _ (h.unindex _ _ h1)
  · exact h1

theorem keeps_reclaimWork (f : Frame) : Take.Keeps P (reclaimWork f) :=
  Take.keeps_get_bind fun s hs => Take.keeps_ite (Take.keeps_pure _) (by
    split
    · exact Take.keeps_pure _
    · exact Take.keeps_bind (Take.keeps_set (h.reclaim s _ _ hs)) fun _ => Take.keeps_pure _)

omit h in
theorem keeps_quarantineListWork (f : Frame) : Take.Keeps P (quarantineListWork f) :=
  Take.keeps_bind Take.keeps_get fun _ => Take.keeps_ite (Take.keeps_pure _) (Take.keeps_pure _)

theorem keeps_touchOnly (n : Nat) : Take.Keeps P (touchOnly n) :=
  h.keeps_touch_bind (Take.keeps_pure _) (Take.keeps_pure _) fun b => h.keeps_closeBench b

theorem keeps_scrubWork : Take.Keeps P scrubWork :=
  Take.keeps_bind Take.keeps_get fun _ => Take.keeps_bind
    (Take.keeps_bind Take.keeps_get fun _ => Take.keeps_ite
      (Take.keeps_discard (h.keeps_checkFreeSlot _))
      (Take.keeps_ite (Take.keeps_pure _) (h.keeps_touchOnly _))) fun _ =>
    Take.keeps_modify fun s hs => h.mon s _ hs fun hb => hb

theorem keeps_auditStartWork (f : Frame) : Take.Keeps P (auditStartWork f) :=
  Take.keeps_get_bind fun s hs => Take.keeps_ite (Take.keeps_pure _) (Take.keeps_ite (Take.keeps_pure _)
    (Take.keeps_bind (Take.keeps_set (h.audit s _ hs)) fun _ => Take.keeps_pure _))

theorem keeps_auditSuspendWork : Take.Keeps P auditSuspendWork :=
  Take.keeps_get_bind fun s hs => Take.keeps_ite
    (Take.keeps_bind (Take.keeps_set (h.audit s _ hs)) fun _ => Take.keeps_pure _) (Take.keeps_pure _)

theorem keeps_auditResumeWork : Take.Keeps P auditResumeWork :=
  Take.keeps_get_bind fun s hs => Take.keeps_ite
    (Take.keeps_bind (Take.keeps_set (h.audit s _ hs)) fun _ => Take.keeps_pure _) (Take.keeps_pure _)

theorem keeps_auditImageOf (k : Key) (e : IndexEntry) : Take.Keeps P (auditImageOf k e) :=
  Take.keeps_ite (Take.keeps_pure _) (h.keeps_touch_bind
    (Take.keeps_bind Take.keeps_get fun _ => Take.keeps_pure _) (Take.keeps_pure _)
    fun b => h.keeps_close_pure b _)

theorem keeps_auditStepWork : Take.Keeps P auditStepWork :=
  Take.keeps_get_bind fun s hs => by
    split
    · exact Take.keeps_set (h.audit s _ hs)
    · exact Take.keeps_bind (h.keeps_auditImageOf _ _) fun _ =>
        Take.keeps_modify fun s hs => h.audit s _ hs

end Steady

/-- A frame command that is taken answers the state that its work leaves with the response in the port's buffer, and
its work keeps what `Steady` keeps (R183 to R186). -/
theorem exec_frame {P : State → Prop} (h : Steady P) {i : Instr} {cmd : Byte} {f : Frame} {s : State}
    (hi : frameOf i = some (cmd, f)) (ho : s.offers i f.port) (hs : P (s.accept f.port)) :
    ∃ s1 r, exec i s = .next (s1.respond f.port cmd r) ∧ P s1 := by
  have key : ∀ {work : Take Reply}, Take.Keeps P work →
      ∃ s1 r, Host.Outcome.next (s.takeFrame i cmd f work) =
        (.next (s1.respond f.port cmd r) : Answer) ∧ P s1 := by
    intro work hw
    have h1 := hw _ hs
    rw [takeFrame_offers ho]
    unfold Take.fin at h1
    cases hk : work (s.accept f.port) with
    | ok r s1 => rw [hk] at h1; exact ⟨s1, r, rfl, h1⟩
    | error e s1 => rw [hk] at h1; exact ⟨s1, .bare .storeFault, rfl, h1⟩
  have pure' : ∀ r : Reply, Take.Keeps P (pure r : Take Reply) := fun r => Take.keeps_pure r
  cases i <;> simp only [frameOf, Option.some.injEq, Prod.mk.injEq, reduceCtorEq] at hi <;>
    obtain ⟨rfl, rfl⟩ := hi
  case info => exact key (h.keeps_judged _ _ (Take.keeps_bind Take.keeps_get fun _ => pure' _))
  case time => exact key (h.keeps_judged _ _ (Take.keeps_bind Take.keeps_get fun _ => pure' _))
  case openSession => exact key (Steady.keeps_judgedWith _ _ (Take.keeps_pure _) (h.keeps_openWork _))
  case close => exact key (h.keeps_judged _ _ (h.keeps_closeWork _))
  case ping => exact key (h.keeps_judged _ _ (Steady.keeps_pingWork _))
  case reattach => exact key (Steady.keeps_judgedWith _ _ (Take.keeps_pure _) (h.keeps_reattachWork _))
  case sessionStatus => exact key (h.keeps_judged _ _ (h.keeps_sessionStatusWork _))
  case create => exact key (h.keeps_judged _ _ (h.keeps_createWork _))
  case retire => exact key (h.keeps_judged _ _ (h.keeps_retireWork _))
  case lookup => exact key (h.keeps_judged _ _ (h.keeps_lookupWork _))
  case enumerate => exact key (h.keeps_judged _ _ (h.keeps_enumerateWork _))
  case acquire => exact key (h.keeps_judged _ _ (h.keeps_acquireWork _))
  case acquireSet => exact key (h.keeps_judged _ _ (h.keeps_acquireSetWork _))
  case renew => exact key (h.keeps_judged _ _ (h.keeps_onGrant _ (h.keeps_renewGrant _)))
  case release => exact key (h.keeps_judged _ _ (h.keeps_onGrant _ h.keeps_releaseGrant))
  case downgrade => exact key (h.keeps_judged _ _ (h.keeps_onGrant _ h.keeps_downgradeGrant))
  case cancelWait => exact key (h.keeps_judged _ _ (h.keeps_cancelWaitWork _))
  case fetchNotices => exact key (h.keeps_judged _ _ (h.keeps_fetchWork _))
  case attention => exact key (h.keeps_judged _ _ (h.keeps_attentionWork _))
  case zoneSet => exact key (h.keeps_judged _ _ (h.keeps_zoneSetWork _))
  case zoneFreeze => exact key (h.keeps_judged _ _ h.keeps_zoneFreezeWork)
  case zoneRead => exact key (h.keeps_judged _ _ h.keeps_zoneReadWork)
  case forceRelease => exact key (h.keeps_judged _ _ (h.keeps_forceReleaseWork _))
  case dismiss => exact key (h.keeps_judged _ _ (h.keeps_dismissWork _))
  case wipe => exact key (Steady.keeps_judgedWith _ _ (h.keeps_wipeSession _) h.keeps_wipeWork)
  case auditStart => exact key (h.keeps_judged _ _ (h.keeps_auditStartWork _))
  case auditSuspend => exact key (h.keeps_judged _ _ h.keeps_auditSuspendWork)
  case auditResume => exact key (h.keeps_judged _ _ h.keeps_auditResumeWork)
  case auditRead => exact key (h.keeps_judged _ _ (Take.keeps_bind Take.keeps_get fun _ => pure' _))
  case storeStatus => exact key (h.keeps_judged _ _ h.keeps_storeStatusWork)
  case storeClear => exact key (h.keeps_judged _ _ h.keeps_storeClearWork)
  case scrubControl => exact key (h.keeps_judged _ _ (h.keeps_scrubControlWork _))
  case reclaim => exact key (h.keeps_judged _ _ (h.keeps_reclaimWork _))
  case quarantineList => exact key (h.keeps_judged _ _ (Steady.keeps_quarantineListWork _))
  case unknownCommand => exact key (pure' _)

end Sys2Proof.Machine
end

