-- ==== Sys2Proof/Laws/Events.lean ====
section
/-! SUPPORT. The events, the internal requests, the stages of the restart sweep and the work in progress that a main
reset stops keep what `Steady` keeps. -/

namespace Sys2Proof.Machine
namespace Steady
variable {P : State → Prop} (h : Steady P)
include h

/-! ### Events and internal requests -/

theorem takeGrantExpiry (n : Nat) (t : Token) (d : Tick) (s : State) (hs : P s) :
    P (Machine.takeGrantExpiry n t d s) := by
  unfold Machine.takeGrantExpiry
  split
  · exact hs
  · split
    · exact State.keeps_run (h.keeps_expireRecord n t d) (h.remove _ _ hs)
    · exact hs

theorem takeWaitDeadline (id : Nat) (d : Tick) (s : State) (hs : P s) :
    P (Machine.takeWaitDeadline id d s) := by
  unfold Machine.takeWaitDeadline
  split
  · exact hs
  · split
    · exact State.keeps_run (h.keeps_timeoutRecord id d) (h.remove _ _ hs)
    · exact hs

theorem takeHeartbeat (c : Nat) (d : Tick) (s : State) (hs : P s) : P (Machine.takeHeartbeat c d s) := by
  unfold Machine.takeHeartbeat
  split
  · exact hs
  · split
    · exact State.keeps_run (h.keeps_sessionEvent _ _ c d) (h.remove _ _ hs)
    · exact hs

theorem takeGrace (c : Nat) (d : Tick) (s : State) (hs : P s) : P (Machine.takeGrace c d s) := by
  unfold Machine.takeGrace
  split
  · exact hs
  · split
    · exact State.keeps_run (h.keeps_sessionEvent _ _ c d) (h.remove _ _ hs)
    · exact hs

theorem takeLapse (k : SessKind) (c : Nat) (s : State) (hs : P s) : P (Machine.takeLapse k c s) := by
  unfold Machine.takeLapse
  split
  · exact State.keeps_run (h.keeps_lapseWork k c) (h.taken _ _ (h.requestLapse _ _ _ _ hs))
  · exact hs

theorem takeScrubPending (s : State) (hs : P s) : P (Machine.takeScrubPending s) := by
  unfold Machine.takeScrubPending
  split
  · exact h.mon _ _ hs fun hb => hb
  · exact hs

theorem takeScrubStep (s : State) (hs : P s) : P (Machine.takeScrubStep s) := by
  unfold Machine.takeScrubStep
  split
  · exact State.keeps_run h.keeps_scrubWork (h.taken _ _ (h.mon _ _ hs fun hb => hb))
  · exact hs

theorem takeAuditStep (s : State) (hs : P s) : P (Machine.takeAuditStep s) := by
  unfold Machine.takeAuditStep
  split
  · exact State.keeps_run h.keeps_auditStepWork hs
  · exact hs

/-! ### The restart sweep (R168 to R173) -/

omit h in
theorem foldl_keeps {α : Type} {g : State → α → State} (hg : ∀ s a, P s → P (g s a)) :
    ∀ (l : List α) (s : State), P s → P (l.foldl g s)
  | [], _, hs => hs
  | a :: l, s, hs => foldl_keeps hg l _ (hg s a hs)

theorem sweepSession (s : State) (c : Nat) (hs : P s) : P (s.sweepSession c) := by
  have h1 := h.read (lawful_session c) s hs
  unfold State.sweepSession
  dsimp only
  split
  · exact h1
  · exact h.mon _ _ h1 fun hb => hb

theorem sweepStage1 (s : State) (hs : P s) : P s.sweepStage1 := by
  have h1 := h.read lawful_flags _ (h.read lawful_nonce _ (h.read lawful_token _ (h.read lawful_zone _
    (foldl_keeps (fun s c => h.sweepSession s c) (List.range Config.sessions) s hs))))
  unfold State.sweepStage1
  dsimp only
  split
  · exact h1
  · exact h.enterFault _ _ h1

theorem replay (s : State) (hs : P s) : P s.replay := by
  have h1 := h.logWords _ .intent 0 2 s.store.intent.marker.c2.ecc
    (h.logWords s .intent 0 1 s.store.intent.marker.c1.ecc hs)
  have hf : ∀ s, P s → P s.failReplay := fun s hs => h.mon _ _ hs fun hb => hb
  have hp : ∀ (l : List (Nat × List Ecc)) (s : State), P s → P (s.logPlaces l) := by
    intro l s hs
    unfold State.logPlaces
    exact foldl_keeps (fun s p => h.logWords s _ _ _ _) l s hs
  have hi : ∀ w, OnIntent w → KeepsCanonical w := by
    rintro w ⟨g, rfl⟩
    exact keepsCanonical_onIntent g
  unfold State.replay
  dsimp only
  split
  · split
    · refine h.writes _ _ (hp _ _ h1) fun w hw => ?_
      rcases List.mem_append.1 hw with hw | hw
      · exact keepsCanonical_targets _ w hw
      · exact hi w (onIntent_marker _ w hw)
    · exact hf _ (hp _ _ h1)
  · split
    · exact h1
    · exact h.writes _ _ h1 fun w hw => hi w (onIntent_markerMends _ w hw)

theorem sweepStage3 (s : State) (hs : P s) : P s.sweepStage3 := by
  unfold State.sweepStage3
  split
  · exact hs
  · split
    · exact hs
    · split
      · exact h.commit _ _ (h.freeAllSessions _ (h.freeAllSlots _ hs))
      · exact hs

theorem sweepRead (s : State) (n : Nat) (hs : P s) : P (s.sweepRead n).1 := by
  unfold State.sweepRead
  split
  · exact h.readSlot _ _ _ hs
  · exact h.readSlot _ _ _ hs

theorem sweepCommit (s : State) (n : Nat) (r : Rec) (hs : P s) : P (s.sweepCommit n r) := by
  unfold State.sweepCommit
  split
  · exact h.commitIdent _ _ _ hs
  · exact h.commit _ _ hs

theorem sweepQuarantine (s : State) (n : Nat) (hs : P s) : P (s.sweepQuarantine n) :=
  h.commitIdent _ _ _ (h.handOuts _ _ hs)

theorem stage4Slot (sett : List (Nat × Action)) (s : State) (n : Nat) (hs : P s) :
    P (State.stage4Slot sett s n) := by
  have h1 := h.sweepRead s n hs
  unfold State.stage4Slot
  dsimp only
  split
  · exact h.commitIdent _ _ _ h1
  · split
    · exact h1
    · split
      · exact h.sweepQuarantine _ _ h1
      · unfold State.stage4Record
        dsimp only
        split
        · exact h1
        · exact h.sweepCommit _ _ _ (h.handOuts _ _ h1)

theorem sweepStage4 (s : State) (hs : P s) : P s.sweepStage4 := by
  unfold State.sweepStage4
  split
  · exact hs
  · exact h.driveLines _ (foldl_keeps (fun s p => h.commit s _) _ _
      (foldl_keeps (fun s n => h.stage4Slot _ s n) _ _ hs))

theorem stage5Lost (s : State) (n : Nat) (hs : P s) : P (s.stage5Lost n) :=
  h.quar (s.commitIdent n IdWord.lost) _ (h.commitIdent s n _ hs) fun hw => Tab.rising_put hw n none

theorem stage5Quarantined (s : State) (n : Nat) (k : Key) (hs : P s) : P (s.stage5Quarantined n k) :=
  h.index (s.setQuar (Tab.put s.main.quar n (some k))) _ (h.setQuar_put s n (some k) hs)
    fun hw => Tab.rising_put hw _ _

theorem stage5Record (s : State) (n : Nat) (r : Rec) (hs : P s) : P (s.stage5Record n r) := by
  unfold State.stage5Record
  dsimp only
  split
  · exact h.markFree _ _ _ (h.sweepCommit _ _ _ (h.handOuts _ _ hs))
  · refine h.handOuts _ _ (h.indexRecord _ _ _ ?_)
    split
    · exact h.handOuts _ _ hs
    · exact h.sweepCommit _ _ _ (h.handOuts _ _ hs)

theorem stage5Slot (s : State) (n : Nat) (hs : P s) : P (s.stage5Slot n) := by
  have h1 := h.sweepRead s n hs
  unfold State.stage5Slot
  dsimp only
  split
  · exact h.stage5Lost _ _ h1
  · split
    · exact h.markFree _ _ _ h1
    · split
      · split
        · exact h.setQuar_put _ _ _ h1
        · exact h.stage5Lost _ _ h1
      · split
        · exact h.stage5Lost _ _ h1
        · split
          · exact h.stage5Quarantined _ _ _ h1
          · split
            · exact h.stage5Quarantined _ _ _ (h.sweepQuarantine _ _ h1)
            · exact h.stage5Record _ _ _ h1

theorem stage5Fault (s : State) (n : Nat) (hs : P s) : P (s.stage5Fault n) := by
  have h1 := h.sweepRead s n hs
  unfold State.stage5Fault
  dsimp only
  split
  · exact h1
  · split
    · exact h.markFree _ _ _ h1
    · split
      · exact h.setQuar_put _ _ _ h1
      · split
        · split
          · exact h.setQuar_put _ _ _ h1
          · exact h.stage5Quarantined _ _ _ h1
        · split
          · exact h1
          · exact h.handOuts _ _ (h.setIndex_put _ _ _ h1)

theorem sweepStage5 (s : State) (hs : P s) : P s.sweepStage5 := by
  unfold State.sweepStage5
  split
  · exact foldl_keeps (fun s n => h.stage5Fault s n) _ _ hs
  · exact foldl_keeps (fun s n => h.stage5Slot s n) _ _ hs

theorem markRestarted (s : State) (c : Nat) (hs : P s) : P (s.markRestarted c) :=
  h.setNoticesOf _ _ _ (h.setVol _ _ _ hs) fun hb => by
    have hq : (s.noticesOf c).queue.length ≤ 16 := by
      unfold State.noticesOf Tab.get
      cases hf : Tab.find? s.main.notices c with
      | none => simp
      | some q => exact (hb _ (Tab.mem_of_find? hf)).1
    exact ⟨hq, Nat.zero_le _⟩

theorem stage6Session (s : State) (c : Nat) (hs : P s) : P (s.stage6Session c) := by
  unfold State.stage6Session
  dsimp only
  have h1 : P (if stage6Entry (s.session c) = s.session c then s
      else s.commit { session := some (c, stage6Entry (s.session c)) }) := by
    split
    · exact hs
    · exact h.commit _ _ hs
  split
  · exact hs
  · split
    · exact h.placeDeadline _ _ _ _ (h.markRestarted _ _ h1)
    · exact h.markRestarted _ _ h1

theorem stage6Fault (s : State) (c : Nat) (hs : P s) : P (s.stage6Fault c) := by
  have h1 := h.markRestarted s c hs
  unfold State.stage6Fault
  dsimp only
  split
  · exact hs
  · split
    · exact h.placeDeadline _ _ _ _ h1
    · split
      · exact h.placeDeadline _ _ _ _ h1
      · exact h1

theorem sweepStage6 (s : State) (hs : P s) : P s.sweepStage6 := by
  unfold State.sweepStage6
  split
  · exact foldl_keeps (fun s n => h.stage6Fault s n) _ _ hs
  · exact foldl_keeps (fun s n => h.stage6Session s n) _ _ hs

/-- The six stages of the restart sweep, before the part becomes READY. -/
theorem stages (s : State) (hs : P s) :
    P s.sweepStage1.replay.sweepStage3.sweepStage4.sweepStage5.sweepStage6 :=
  h.sweepStage6 _ (h.sweepStage5 _ (h.sweepStage4 _ (h.sweepStage3 _ (h.replay _ (h.sweepStage1 _ hs)))))

/-- The restart sweep keeps a law that also the end of the sweep keeps. -/
theorem takeSweep (hr : ∀ s, P s → P (State.becomeReady s)) (s : State) (hs : P s) :
    P (Machine.takeSweep s) := by
  unfold Machine.takeSweep
  split
  · unfold State.sweep
    exact hr _ (h.stages s hs)
  · exact hs

end Steady

/-! ### The work in progress that a main reset stops (R166) -/

theorem exec_takeOf {i : Instr} {cmd : Byte} {f : Frame} (hi : frameOf i = some (cmd, f)) (s : State) :
    exec i s = .next (takeOf i s) := by
  cases i <;> simp only [frameOf, reduceCtorEq] at hi <;> rfl

theorem takeOf_other {i : Instr} (hi : frameOf i = none) (s : State) : takeOf i s = s := by
  cases i <;> simp only [frameOf, reduceCtorEq] at hi <;> rfl

/-- A frame command without its occasion changes nothing (log 1). -/
theorem exec_frame_idle {i : Instr} {cmd : Byte} {f : Frame} {s : State}
    (hi : frameOf i = some (cmd, f)) (ho : ¬ s.offers i f.port) : exec i s = .next s := by
  rw [exec_takeOf hi]
  congr 1
  cases i <;> simp only [frameOf, Option.some.injEq, Prod.mk.injEq, reduceCtorEq] at hi <;>
    obtain ⟨rfl, rfl⟩ := hi
  case unknownCommand => rw [takeOf, takeUnknown]; exact takeFrame_not_offers ho
  all_goals exact takeFrame_not_offers ho

/-- The work of a take keeps a law that also the port updates and the end of the sweep keep. -/
theorem Steady.work {P : State → Prop} (h : Steady P) (hp : ∀ s p x, P s → P (State.setPort s p x))
    (ha : ∀ s x, P s → P (State.setArbiter s x)) (hr : ∀ s, P s → P (State.becomeReady s))
    (w : Work) (s : State) (hs : P s) : P (s.work w) := by
  cases w with
  | idle => exact hs
  | frame =>
    simp only [State.work, State.workFrame]
    split
    · exact hs
    · split
      · exact hs
      · rename_i i _
        cases hi : frameOf i with
        | none => rw [takeOf_other hi]; exact hs
        | some q =>
          obtain ⟨cmd, f⟩ := q
          by_cases ho : s.offers i f.port
          · obtain ⟨s1, r, h1, h2⟩ := exec_frame h hi ho (h.taken _ _ (hp _ _ _ (ha _ _ hs)))
            rw [exec_takeOf hi] at h1
            rw [Host.Outcome.next.inj h1]
            exact hp _ _ _ h2
          · have h1 := exec_frame_idle hi ho
            rw [exec_takeOf hi] at h1
            rw [Host.Outcome.next.inj h1]
            exact hs
  | directoryEvent =>
    simp only [State.work, State.workDirectoryEvent]
    split
    · exact hs
    · split
      · exact h.takeGrantExpiry _ _ _ _ hs
      · exact h.takeWaitDeadline _ _ _ hs
      · exact hs
  | sessionEvent =>
    simp only [State.work, State.workSessionEvent]
    split
    · exact hs
    · split
      · exact h.takeHeartbeat _ _ _ hs
      · exact h.takeGrace _ _ _ hs
      · exact hs
  | lapse k c => exact h.takeLapse k c s hs
  | scrubStep => exact h.takeScrubStep s hs
  | auditStep => exact h.takeAuditStep s hs
  | sweep => exact h.takeSweep hr s hs

end Sys2Proof.Machine
end

