-- ==== Sys2Proof/Tests/Slice0.lean ====
section
/-! SUPPORT. The tests: the well-formedness smoke, the frame encoding, the checksums, one step of each command on a
small state, and for every statement with hypotheses a concrete state and operands that meet them together.
Expected values are those of the spec's rules, computed by hand. -/

namespace Sys2Proof.Tests

set_option Elab.async false
open Sys2Proof Sys2Proof.Machine

/-! ### Well-formedness: each check refuses an ill-formed command -/

def frame (p : PortId) (client : Byte) (nonce : Nonce) (args : List Byte) : Frame :=
  { port := p, client := client, nonce := nonce, args := args }

theorem test_wf_frame_longest : (Instr.zoneSet (frame .a 0xFF 0 (List.replicate 58 0))).wf = true := by decide +kernel
theorem test_wf_frame_too_long : (Instr.zoneSet (frame .a 0xFF 0 (List.replicate 59 0))).wf = false := by decide +kernel
theorem test_wf_unknown_is_listed : (Instr.unknownCommand 0x30 (frame .a 0xFF 0 [])).wf = false := by decide +kernel
theorem test_wf_unknown : (Instr.unknownCommand 0x33 (frame .a 0xFF 0 [])).wf = false ∧
    (Instr.unknownCommand 0x35 (frame .a 0xFF 0 [])).wf = true := by decide +kernel
theorem test_wf_address : (Instr.statusRead .c 0x40 true 1).wf = false ∧
    (Instr.statusRead .c 0x3F true 1).wf = true := by decide +kernel
theorem test_wf_slot : (Instr.grantExpiryEvent 1024 1 0).wf = false := by decide +kernel
theorem test_wf_token : (Instr.entryFallsDue (.grant 0 0)).wf = false := by decide +kernel
theorem test_wf_waiter : (Instr.waitDeadlineEvent 128 0).wf = false := by decide +kernel
theorem test_wf_session : (Instr.lapseRequest .grace 16).wf = false := by decide +kernel
theorem test_wf_work : (Instr.vddLoss (.lapse .grace 16) 0).wf = false := by decide +kernel

/-! ### Checksums and frames (R157, R187, 11.8) -/

/-- The nine ASCII characters "123456789". -/
def digits : List Byte := [0x31, 0x32, 0x33, 0x34, 0x35, 0x36, 0x37, 0x38, 0x39]

theorem test_crc8 : crc8 digits = 0xF4 := by decide +kernel
theorem test_crc32 : crc32Finish (crc32Fold crc32Start digits) = 0xCBF43926#32 := by decide +kernel

/-! ### Small states -/

/-- The block of a record whose ten words are good. -/
def good (r : Rec) : Block SlotImg := { val := r.image, ecc := tenGood }

/-- A grant. -/
def grant (client : Nat) (m : Mode) (token : Token) (expiry : Tick) : Grant :=
  { client := client, mode := m, gstate := .live, token := token, expiry := expiry, term := 500 }

/-- A PINNED record of zone 0 with a share limit of 2, default term 100 and max term 1000. -/
def record (k : Key) (gs : List Grant) : Rec :=
  { key := k, zone := 0, state := summaryOf gs, persist := .pinned, defTerm := 100, maxTerm := 1000,
    share := 2, gen := 3, grants := gs }

/-- A TRANSIENT record. -/
def passing (k : Key) (gs : List Grant) : Rec := { record k gs with persist := .transient }

/-- A record put into a slot, with its place in the key index. -/
def hold (n : Nat) (r : Rec) (s : State) : State :=
  ((s.setStore (s.store.setSlot n (good r))).indexRecord n r).markFree n false

/-- A LIVE grant's schedule entry. -/
def timed (n : Nat) (g : Grant) (s : State) : State := s.schedInsert .grantExpiry (.grant n g.token) g.expiry

/-- A waiter put into the pool, its queue and the schedule. -/
def wait (id : Nat) (w : Waiter) (s : State) : State := s.enqueue id w

/-- A session put into the Session Table. -/
def session (c : Nat) (e : SessEntry) (s : State) : State :=
  s.setStore (s.store.setSession c (Copies.two e))

/-- A session's deadline with its schedule entry. -/
def beats (k : Kind) (c : Nat) (d : Tick) (s : State) : State := s.placeDeadline k c d

/-- An OPEN session entry. -/
def opened (p : PortId) (nonce : Nonce) (pol : Policy) (attn : Bool) : SessEntry :=
  { state := .opened, action := .none, port := some p, nonce := nonce, hbTerm := 64, policy := pol,
    attention := attn, waitsHeld := false, waitsLost := false }

/-- The zone map: zone 1 from key 4096 up makes records of itself; zone 0 does not. -/
def map : ZoneMap :=
  { ZoneMap.por with
    b1 := { on := true, key := 4096 }
    z1 := { supOnly := true, autoCreate := true, waits := false, share := 3, defTerm := 20, maxTerm := 60 } }

def sevens (m : ZoneMap) : Copies ZoneMap := { c1 := { val := m, ecc := sevenGood }, c2 := { val := m, ecc := sevenGood } }

/-- A READY part at tick 1000 with supervisor port C, a clear fresh-start flag, and sessions 0 (port A, HOLD) and 1
(port B, RELEASE, attention enabled) OPEN. -/
def ready : State :=
  { State.reset with
    power := { State.reset.power with state := .ready, firstStart := false, vdd := true, supsel := 3 }
    tb := { tick := 1000, phase := 5 }
    store := { Store.por with
               zone := sevens map, token := Copies.two 50, nonce := Copies.two 20,
               flags := Copies.two { fresh := false, wiping := false } }
    main := { Main.empty with supPort := some .c, free := BitVec.allOnes 1024 } }
  |> session 0 (opened .a 7 .hold false) |> session 1 (opened .b 9 .release true)
  |> beats .heartbeat 1 1050 |> beats .heartbeat 0 1040

/-- Records: key 5 VACANT in slot 0; key 6 held EXCLUSIVE by session 0 in slot 1; key 7 held SHARED by session 1 in
slot 2; key 8, TRANSIENT, held EXCLUSIVE by session 0 in slot 3; key 9 held EXCLUSIVE by session 0 in slot
4 with session 1 waiting for it EXCLUSIVE; key 10 QUARANTINED in slot 5. The audit walks. -/
def busy : State :=
  ready
  |> (fun s => (s.setStore (s.store.setSlot 5
      { good { record 10 [] with state := .quarantined } with
        ecc := tenGood.set 1 .double })).listQuarantined 5 (some 10) true)
  |> session 1 { opened .b 9 .release true with waitsHeld := true }
  |> hold 0 (record 5 [])
  |> hold 1 (record 6 [grant 0 .exclusive 40 2000]) |> timed 1 (grant 0 .exclusive 40 2000)
  |> hold 2 (record 7 [grant 1 .shared 41 2100]) |> timed 2 (grant 1 .shared 41 2100)
  |> hold 3 (passing 8 [grant 0 .exclusive 42 2200]) |> timed 3 (grant 0 .exclusive 42 2200)
  |> hold 4 (record 9 [grant 0 .exclusive 43 2300]) |> timed 4 (grant 0 .exclusive 43 2300)
  |> wait 0 { client := 1, slot := 4, mode := .exclusive, term := 300, deadline := 3000 }
  |> (State.setAudit · { Audit.idle with
      state := .running, low := 1, high := 100, cursor := 9, stepPending := true })

/-- A state with the frame of a command held on its port and at the head of the arbiter's list. -/
def offering (i : Instr) (s : State) : State :=
  match frameOf i with
  | none => s
  | some (cmd, f) =>
    (s.setPort f.port { s.port f.port with
      state := .frameHeld, cmdBuf := frameBytes cmd f, received := (frameBytes cmd f).length }).setArbiter
      [f.port]

/-- The state after the session step of a frame that passes it. -/
def passed (s : State) (f : Frame) : Option SessEntry → State
  | none => s.accept f.port
  | some e => (s.accept f.port).refresh f.client.toNat e

/-- `takenTo`, evaluated: the frame is at the head of the list and passes the common checks, with the session named
or with none. -/
def passesWith (s : State) (i : Instr) (f : Frame) (o : Option SessEntry) : Bool :=
  match marksOf i, frameOf i with
  | some m, some (_, f') =>
    decide (f' = f) && decide (s.offers i f.port) &&
      (!m.supervisor || decide (s.main.supPort = some f.port)) && (!s.main.mon.fault || m.inFault) &&
      decide (f.args.length = m.args) &&
      (match o, m.need with
        | none, .skip => true
        | none, .may => decide (f.client = noClient)
        | none, .orSupervisor => decide (f.client = noClient ∧ s.main.supPort = some f.port)
        | none, .needs => false
        | some _, .skip => false
        | some e, _ => decide ((s.accept f.port).passes f e))
  | _, _ => false

theorem takenTo_of {s : State} {i : Instr} {f : Frame} {o : Option SessEntry}
    (h : passesWith s i f o = true) : s.takenTo i f (passed s f o) := by
  unfold passesWith at h
  split at h
  · rename_i m cmd f' hm hf
    simp only [Bool.and_eq_true, decide_eq_true_eq, Bool.or_eq_true, Bool.not_eq_true'] at h
    obtain ⟨⟨⟨⟨⟨rfl, ho⟩, hs⟩, hi⟩, ha⟩, hn⟩ := h
    refine ⟨m, cmd, hf, hm, ho, fun h => hs.resolve_left (by simp [h]),
      fun h => hi.resolve_left (by simp [h]), ?_, ha⟩
    unfold State.checkedTo
    cases o with
    | none =>
      cases hq : m.need <;> simp only [hq, decide_eq_true_eq, Bool.false_eq_true] at hn
      · exact .inl ⟨hn, rfl⟩
      · exact .inl ⟨hn.1, hn.2, rfl⟩
      · rfl
    | some e =>
      cases hq : m.need <;> simp only [hq, decide_eq_true_eq, Bool.false_eq_true] at hn
      · exact ⟨e, hn, rfl⟩
      · exact .inr ⟨e, hn, rfl⟩
      · exact .inr ⟨e, hn, rfl⟩
  · cases h

/-- `between`, evaluated. -/
theorem between_of {s : State}
    (h : (s.store.canonical && s.main.canonical && decide (s.cut = none)) = true) : s.between := by
  simp only [Bool.and_eq_true, decide_eq_true_eq] at h
  exact ⟨h.1.1, h.1.2, h.2⟩

/-- `atRest`, evaluated. -/
def rests (s : State) (k : Key) (n : Nat) : Bool :=
  (match s.lookup k with
    | some e => e.slot == n && !e.quarantined
    | none => false) &&
    decide ((s.store.slot n).ecc = tenGood) && decide ((s.waitersOf n).map Prod.fst = s.queueOf n) &&
    decide ((s.bench n none).lazyExpiry s.now = s.bench n none) && !(s.bench n none).toRetire

theorem atRest_of {s : State} {k : Key} {n : Nat} (h : rests s k n = true) : s.atRest k n := by
  unfold rests at h
  simp only [Bool.and_eq_true, decide_eq_true_eq, Bool.not_eq_true'] at h
  obtain ⟨⟨⟨⟨h1, h2⟩, h3⟩, h4⟩, h5⟩ := h
  refine ⟨?_, h2, h3, h4, h5⟩
  cases hl : s.lookup k with
  | none => rw [hl] at h1; cases h1
  | some e =>
    rw [hl] at h1
    obtain ⟨slot, q, hs⟩ := e
    simp only [Bool.and_eq_true, beq_iff_eq, Bool.not_eq_true'] at h1
    obtain ⟨rfl, rfl⟩ := h1
    exact ⟨hs, rfl⟩

theorem ready_between : ready.between := between_of (by decide +kernel)
theorem busy_between : busy.between := between_of (by decide +kernel)
theorem busy_rests : rests busy 5 0 = true ∧ rests busy 6 1 = true ∧ rests busy 7 2 = true ∧
    rests busy 8 3 = true ∧ rests busy 9 4 = true := by decide +kernel
theorem busy_laws : busy.noticesBounded ∧ busy.countsBounded := by
  constructor
  · unfold State.noticesBounded; decide +kernel
  · unfold State.countsBounded; decide +kernel

/-! ### What the witnesses are made of -/

def e0 : SessEntry := opened .a 7 .hold false
def e1 : SessEntry := { opened .b 9 .release true with waitsHeld := true }
def by0 (args : List Byte) : Frame := frame .a 0 7 args
def by1 (args : List Byte) : Frame := frame .b 1 9 args
def bySup (args : List Byte) : Frame := frame .c 0xFF 0 args
def byNone (args : List Byte) : Frame := frame .a 0xFF 0 args

/-- The state after the common checks on the frame of a command. -/
def taken (i : Instr) (f : Frame) (o : Option SessEntry) (s : State) : State := passed (offering i s) f o

theorem between_offering {s : State} (h : s.between) (i : Instr) : (offering i s).between := by
  unfold offering
  split
  · exact h
  · exact ⟨h.1, h.2, h.3⟩

/-! ### The queue and the laws of every state -/

theorem witness_StepTakesTheFront : ∃ c rest s, (State.setPending busy [.scrubStep]).pending = c :: rest ∧
    State.pending s = [] := ⟨.scrubStep, [], busy, by decide +kernel⟩
theorem witness_EveryCommandAnswersAState : ∃ (s : State) (i : Instr) (cmd : Byte) (f : Frame),
    s.cut = none ∧ (∀ x, i ≠ .retainedPor x) ∧ i ≠ .vbatLoss ∧ frameOf i = some (cmd, f) ∧
    ¬ s.offers i f.port :=
  ⟨busy, .ping (by0 []), 0x12, by0 [], rfl, fun _ => by simp, by simp, rfl, by decide +kernel⟩
theorem witness_CanonicalFormKept : ∃ s t : State, s.between ∧ step s = .next t :=
  ⟨busy, busy, busy_between, rfl⟩
theorem witness_CountsStayInRange : ∃ s t : State, s.noticesBounded ∧ s.countsBounded ∧ step s = .next t :=
  ⟨busy, busy, busy_laws.1, busy_laws.2, rfl⟩
theorem agrees_offering : (offering (.ping (by0 [])) busy).arbiterAgrees := by
  refine ⟨by decide +kernel, fun p => ?_⟩
  cases p <;> decide +kernel
theorem witness_ArbiterNamesHeldFrames : ∃ s t : State, s.arbiterAgrees ∧ step s = .next t :=
  ⟨_, _, agrees_offering, rfl⟩
theorem busy_schedule : busy.scheduleOk := by
  unfold State.scheduleOk
  decide +kernel
theorem witness_ScheduleStaysOrdered : ∃ s t : State, s.scheduleOk ∧ step s = .next t :=
  ⟨busy, busy, busy_schedule, rfl⟩

/-- The holding rules, evaluated. -/
def keepsRules (r : Rec) : Bool :=
  decide ((∀ g ∈ r.grants, g.mode = .exclusive → r.grants = [g]) ∧
    (r.grants ≠ [] → r.grants.length ≤ r.share) ∧ (r.grants.map Grant.client).Nodup ∧
    r.state = summaryOf r.grants ∧ 1 ≤ r.share)

/-- `Store.recordsSound`, evaluated over the slots that the table lists. -/
def rulesKept (st : Store) (v : Token) (m : ZoneMap) : Bool :=
  decide (st.token.value = some v) && decide (v ≠ 0) && decide (st.zone.value = some m) &&
    [m.z0, m.z1, m.z2, m.z3].all (fun z => 1 ≤ z.share) &&
    st.slots.all fun e => !e.2.val.ident.holdsRecord ||
      (keepsRules e.2.val.record && e.2.val.record.grants.all fun g => g.token.toNat < v.toNat)

theorem slot_listed {st : Store} {n : Nat} (h : (st.slot n).val.ident.holdsRecord = true) :
    (n, st.slot n) ∈ st.slots := by
  unfold Store.slot Tab.get at *
  cases hq : Tab.find? st.slots n with
  | none => rw [hq] at h; cases h
  | some b => exact Tab.mem_of_find? hq

theorem recordsSound_of {st : Store} {v : Token} {m : ZoneMap} (h : rulesKept st v m = true) :
    st.recordsSound := by
  unfold rulesKept at h
  simp only [Bool.and_eq_true, decide_eq_true_eq, List.all_eq_true, Bool.or_eq_true,
    Bool.not_eq_true'] at h
  obtain ⟨⟨⟨⟨hv, h0⟩, hm⟩, hz⟩, hs⟩ := h
  have at_ : ∀ n, (st.slot n).val.ident.holdsRecord = true → _ := fun n hn =>
    (hs _ (slot_listed hn)).resolve_left (by simp [hn])
  refine ⟨fun n _ hn => ?_, fun n w _ hn hw g hg => ?_, fun w hw => ?_, fun w z hw => ?_⟩
  · obtain ⟨a, b, c, d, e⟩ := of_decide_eq_true (at_ n hn).1
    exact ⟨a, b, c, d, e⟩
  · rw [hv] at hw; cases hw
    exact (at_ n hn).2 g hg
  · rw [hv] at hw; cases hw; exact h0
  · rw [hm] at hw; cases hw
    unfold ZoneMap.attr
    split
    · exact hz _ (by simp)
    · split
      · exact hz _ (by simp)
      · split <;> exact hz _ (by simp)

/-- `State.sound` but for its records, evaluated. -/
def agrees (s : State) : Bool :=
  decide (∀ n, n < Config.slots → s.isFree n = true → (s.store.slot n).val.ident.inUse = false) &&
  (s.main.quar.all fun q => decide (q.1 < Config.slots) && !s.isFree q.1 &&
    !(s.store.slot q.1).val.ident.holdsRecord &&
    (match q.2 with
      | none => true
      | some k => (s.lookup k).any fun e => e.slot == q.1 && e.quarantined)) &&
  decide (∀ n, n < Config.slots → s.isFree n = true ∨ Tab.find? s.main.quar n ≠ none ∨
    ((s.store.slot n).val.ident.holdsRecord = true ∧
      ((s.store.slot n).val.ident.key.any fun k =>
        (s.lookup k).any fun e => e.slot == n && !e.quarantined) = true)) &&
  (s.main.index.all fun e => decide (e.1 < 2 ^ 32) &&
    (if e.2.quarantined then
      decide (Tab.find? s.main.quar e.2.slot = some (some (BitVec.ofNat 32 e.1)))
    else decide (e.2.slot < Config.slots) && !s.isFree e.2.slot &&
      (Tab.find? s.main.quar e.2.slot).isNone &&
      decide ((s.store.slot e.2.slot).val.ident.key = some (BitVec.ofNat 32 e.1)))) &&
  (s.main.queues.all fun q => decide q.2.Nodup &&
    q.2.all fun id => (s.waiter id).any fun w => w.slot == q.1) &&
  (s.main.pool.all fun p => decide (p.1 < Config.waiters) && (s.queueOf p.2.slot).contains p.1 &&
    decide (p.2.slot < Config.slots) && !s.isFree p.2.slot && (Tab.find? s.main.quar p.2.slot).isNone) &&
  (s.main.sched.all fun e => match e.ref with
    | .grant n _ => decide (n < Config.slots)
    | .waiter _ => true
    | .session _ => true) &&
  decide (s.main.mon.cursor < Config.slots)

theorem sound_of {s : State} {v : Token} {m : ZoneMap} (hr : rulesKept s.store v m = true)
    (h : agrees s = true) : s.sound := by
  unfold agrees at h
  simp only [Bool.and_eq_true, decide_eq_true_eq, List.all_eq_true] at h
  obtain ⟨⟨⟨⟨⟨⟨⟨hf, hq⟩, hh⟩, hi⟩, hu⟩, hp⟩, hs⟩, hc⟩ := h
  have key_of : ∀ {o : Option IndexEntry} {n : Nat} {b : Bool},
      (o.any fun e => e.slot == n && (e.quarantined == b)) = true →
      ∃ h, o = some { slot := n, quarantined := b, holders := h } := by
    intro o n b ho
    cases o with
    | none => cases ho
    | some e =>
      obtain ⟨slot, q, l⟩ := e
      simp only [Option.any_some, Bool.and_eq_true, beq_iff_eq] at ho
      obtain ⟨rfl, rfl⟩ := ho
      exact ⟨l, rfl⟩
  refine ⟨recordsSound_of hr, fun n hn => ?_, fun n key hk => ?_, fun n hn => ?_, fun e he => ?_,
    fun n => ?_, fun id w hw => ?_, fun e he n tok hr => ?_, hc⟩
  · by_cases hl : n < Config.slots
    · exact hf n hl hn
    · have : s.isFree n = false := BitVec.getLsbD_of_ge _ _ (Nat.le_of_not_lt hl)
      rw [this] at hn; cases hn
  · have := hq _ (Tab.mem_of_find? hk)
    simp only [Bool.not_eq_true'] at this
    refine ⟨this.1.1.1, this.1.1.2, this.1.2, fun k hkk => ?_⟩
    subst hkk
    exact key_of (b := true) (by simpa using this.2)
  · obtain ⟨hl, hnf, hnq⟩ := hn
    rcases hh n hl with h | h | ⟨h1, h2⟩
    · rw [hnf] at h; cases h
    · exact absurd hnq h
    · refine ⟨h1, ?_⟩
      cases hk : (s.store.slot n).val.ident.key with
      | none => rw [hk] at h2; cases h2
      | some k =>
        rw [hk] at h2
        obtain ⟨l, hl'⟩ := key_of (o := s.lookup k) (n := n) (b := false) (by simpa using h2)
        exact ⟨k, l, rfl, hl'⟩
  · obtain ⟨h1, h2⟩ := hi e he
    refine ⟨h1, fun hx => ?_, fun hx => ?_⟩
    · rw [hx] at h2; simpa using h2
    · rw [hx] at h2
      simp only [Bool.false_eq_true, if_false, Bool.and_eq_true, decide_eq_true_eq, Bool.not_eq_true',
        Option.isNone_iff_eq_none] at h2
      exact ⟨⟨h2.1.1.1, h2.1.1.2, h2.1.2⟩, h2.2⟩
  · unfold State.queueOf Tab.get
    cases hx : Tab.find? s.main.queues n with
    | none => exact ⟨List.nodup_nil, fun _ h => nomatch h⟩
    | some q =>
      obtain ⟨h1, h2⟩ := hu _ (Tab.mem_of_find? hx)
      refine ⟨h1, fun id hid => ?_⟩
      have := h2 id hid
      cases hw : s.waiter id with
      | none => rw [hw] at this; cases this
      | some w => rw [hw] at this; exact ⟨w, rfl, by simpa using this⟩
  · have := hp _ (Tab.mem_of_find? hw)
    simp only [Bool.not_eq_true', List.contains_iff_mem, Option.isNone_iff_eq_none] at this
    exact ⟨this.1.1.1.1, this.1.1.1.2, this.1.1.2, this.1.2, this.2⟩
  · have := hs e he
    rw [hr] at this
    simpa using this

theorem busy_sound : busy.sound := sound_of (v := 50) (m := map) (by decide +kernel) (by decide +kernel)

theorem witness_RecordsKeepTheHoldingRules : ∃ s t : State, s.between ∧ s.isReady ∧ ¬ s.inFault ∧ s.sound ∧
    (∀ v, s.store.token.value = some v → v.toNat + 256 < 2 ^ 48) ∧ step s = .next t ∧ t.isReady ∧
    ¬ t.inFault ∧ (s.recordOf 4).grants ≠ [] :=
  ⟨busy, busy, busy_between, by decide +kernel, by decide +kernel, busy_sound,
    fun v hv => by
      have : v = 50 := Option.some.inj (hv.symm.trans (show busy.store.token.value = some 50 from rfl))
      subst this; decide +kernel,
    rfl, by decide +kernel, by decide +kernel, by decide +kernel⟩

/-- `busy` after a main reset, its records as they were; a frame is held. -/
def rebooted : State := offering (.ping (by0 [])) (takeReset .resetHigh 3 .idle 0 (takeReset .resetLow 3 .idle 0 busy))
theorem rebooted_between : rebooted.between := between_of (by decide +kernel)
theorem rebooted_sweeps : rebooted.sweeps := ⟨by decide +kernel, by decide +kernel, false, 3, by decide +kernel⟩

theorem witness_SweepAndWipeMakeTheRecordsSound :
    (∃ s : State, s.between ∧ s.sweeps ∧ s.store.recordsSound ∧
      markerValid s.store.intent.marker = false ∧ (s.recordOf 4).grants ≠ []) ∧
    (∃ s s1 f, State.between s ∧ s.takenTo (.wipe f) f s1 ∧ s.store.recordsSound ∧
      s.main.mon.cursor < 1024 ∧ (∀ v, s.store.token.value = some v → v.toNat + 256 < 2 ^ 48) ∧
      ¬ s.inFault) ∧
    ∃ s s1 f, State.between s ∧ s.takenTo (.wipe f) f s1 ∧ s.store.recordsSound ∧
      s.main.mon.cursor < 1024 ∧ (∀ v, s.store.token.value = some v → v.toNat + 256 < 2 ^ 48) ∧
      s.inFault :=
  have low : ∀ v : Token, some 50 = some v → v.toNat + 256 < 2 ^ 48 := fun v hv => by
    cases hv; decide +kernel
  ⟨⟨rebooted, rebooted_between, rebooted_sweeps, recordsSound_of (v := 50) (m := map) (by decide +kernel),
      by decide +kernel, by decide +kernel⟩,
    ⟨offering (.wipe (bySup [])) busy, taken (.wipe (bySup [])) (bySup []) none busy, bySup [],
      between_offering busy_between _, takenTo_of (by decide +kernel), busy_sound.records,
      by decide +kernel, low, by decide +kernel⟩,
    ⟨offering (.wipe (bySup [])) (busy.enterFault 1), taken (.wipe (bySup [])) (bySup []) none (busy.enterFault 1),
      bySup [], between_offering (between_of (by decide +kernel)) _, takenTo_of (by decide +kernel),
      busy_sound.records, by decide +kernel, low, by decide +kernel⟩⟩

/-! ### Frames and ports -/

theorem witness_FrameRoundTrip : ∃ (i : Instr) (cmd : Byte) (f : Frame), i.wf = true ∧
    frameOf i = some (cmd, f) := ⟨.ping (by0 []), 0x12, by0 [], by decide +kernel⟩

/-- The PING frame of 11.8: LEN 06, CMD 12, CLIENT 03, NONCE 0A47, and its CRC-8. -/
def pingFrame : List Byte := [0x06, 0x12, 0x03, 0x0A, 0x47, 0xED]
theorem test_ping_frame : decodeFrame .b pingFrame = some (.ping (frame .b 3 0x0A47 [])) := by
  decide +kernel
theorem test_ping_frame_bad_crc : decodeFrame .b (pingFrame.set 5 0xEC) = none := by decide +kernel
theorem test_unlisted_code_is_unknown :
    decodeFrame .a (frameBytes 0x35 (by0 [])) = some (.unknownCommand 0x35 (by0 [])) := by decide +kernel
theorem witness_SoundFramesAreCommands : ∃ buf : List Byte, frameSound buf buf.length = true :=
  ⟨pingFrame, by decide +kernel⟩
theorem witness_FrameReachesTheArbiter : ∃ (s : State) (i : Instr) (cmd b : Byte) (f : Frame)
    (address : BitVec 7) (more : List Byte), i.wf = true ∧ frameOf i = some (cmd, f) ∧
    frameBytes cmd f = b :: more ∧ s.answers f.port address = true ∧ (s.port f.port).state = .idle :=
  ⟨busy, .ping (by0 []), 0x12, 6, by0 [], 0, (frameBytes 0x12 (by0 [])).tail, by decide +kernel⟩

/-- A port in a state. -/
def portIn (p : PortId) (x : PortState) (s : State) : State := s.setPort p { s.port p with state := x }

theorem witness_FrameReceptionByPortState :
    busy.answers .c 0x3D = false ∧ busy.answers .c 0x3C = true ∧ (busy.port .c).state = .idle ∧
    (∃ s : State, s.answers .a 0 = true ∧ (s.port .a).state = .responseReady) ∧
    (∃ s : State, s.answers .b 0 = true ∧ (s.port .b).state = .frameHeld) ∧
    (∃ s : State, s.answers .b 0 = true ∧ (s.port .b).state = .executing) ∧
    ∃ s : State, s.isActive ∧ s.power.resetN = true ∧ (s.port .b).state = .receiving ∧
      (s.port .b).cmdBuf = [0x06] ∧ (s.port .b).received = 1 ∧
      frameSound (([0x06] ++ pingFrame.tail).take 64) 6 = true ∧
      frameSound (([0x06] ++ [(0x12 : Byte)]).take 64) 2 = false :=
  ⟨by decide +kernel, by decide +kernel, by decide +kernel,
    ⟨portIn .a .responseReady busy, by decide +kernel⟩, ⟨portIn .b .frameHeld busy, by decide +kernel⟩,
    ⟨portIn .b .executing busy, by decide +kernel⟩,
    ⟨busy.setPort .b { Port.reset with state := .receiving, cmdBuf := [0x06], received := 1 },
      by decide +kernel⟩⟩

/-- A response of 9 bytes in a port's buffer. -/
def answered (p : PortId) (s : State) : State := s.respond p 0x11 (.bare .ok)

theorem witness_HostReads : busy.answers .a 0 = true ∧ busy.answers .c 0x3C = true ∧
    (busy.port .a).state ≠ .responseReady ∧
    (∃ s : State, s.answers .a 0 = true ∧ (s.port .a).state = .responseReady ∧
      8 < (s.port .a).respBuf.length ∧ (s.port .a).respBuf.length ≤ 9) :=
  ⟨by decide +kernel, by decide +kernel, by decide +kernel, answered .a busy, by decide +kernel⟩

/-! ### The order of checks -/

/-- The state with STORE_FAULT mode entered. -/
def failed (s : State) : State := s.enterFault 0

theorem witness_RefusedBeforeTheSession :
    (∃ (s : State) (cmd : Byte) (f : Frame), s.offers (.unknownCommand cmd f) f.port) ∧
    (∃ (s : State) (i : Instr) (cmd : Byte) (f : Frame) (m : Marks), frameOf i = some (cmd, f) ∧
      marksOf i = some m ∧ s.offers i f.port ∧ m.supervisor = true ∧ s.main.supPort ≠ some f.port) ∧
    (∃ (s : State) (i : Instr) (cmd : Byte) (f : Frame) (m : Marks), frameOf i = some (cmd, f) ∧
      marksOf i = some m ∧ s.offers i f.port ∧ (m.supervisor = true → s.main.supPort = some f.port) ∧
      s.inFault ∧ m.inFault = false) :=
  ⟨⟨offering (.unknownCommand 0x35 (by0 [])) busy, 0x35, by0 [], by decide +kernel⟩,
    ⟨offering (.storeClear (by0 [])) busy, .storeClear (by0 []), 0x8D, by0 [], _, rfl, rfl,
      by decide +kernel, rfl, by decide +kernel⟩,
    ⟨failed (offering (.storeClear (bySup [])) busy), .storeClear (bySup []), 0x8D, bySup [], _, rfl, rfl,
      by decide +kernel, fun _ => by decide +kernel, by decide +kernel, rfl⟩⟩

theorem witness_RefusedAtTheSessionOrForLength :
    (∃ (s : State) (f : Frame) (m : Marks), marksOf (.ping f) = some m ∧ s.offers (.ping f) f.port ∧
      f.client = noClient ∧ m.need = .needs) ∧
    (∃ (s : State) (f : Frame) (m : Marks), marksOf (.create f) = some m ∧ s.offers (.create f) f.port ∧
      f.client = noClient ∧ m.need = .orSupervisor ∧ s.main.supPort ≠ some f.port) ∧
    (∃ (s : State) (f : Frame), s.offers (.ping f) f.port ∧ f.client = 16) ∧
    (∃ (s : State) (f : Frame) (e : SessEntry), s.offers (.ping f) f.port ∧ f.client = 15 ∧
      (sessionWord 15).holds s e ∧ s.lapseDue 15 e = false ∧ e.state = .free) ∧
    (∃ (s : State) (f : Frame), s.offers (.ping f) f.port ∧ f.client = 0 ∧ (sessionWord 0).holds s e0 ∧
      s.lapseDue 0 e0 = false ∧ e0.nonce ≠ f.nonce) ∧
    (∃ (s : State) (f : Frame), s.offers (.ping f) f.port ∧ f.client = 0 ∧ (sessionWord 0).holds s e0 ∧
      e0.nonce = f.nonce ∧ e0.port ≠ some f.port) ∧
    ∃ (s : State) (f : Frame) (e : SessEntry), s.offers (.ping f) f.port ∧ f.client = 0 ∧
      (sessionWord 0).holds s e ∧ s.lapseDue 0 e = false ∧ e.nonce = f.nonce ∧ e.port = some f.port ∧
      e.state = .suspect :=
  ⟨⟨offering (.ping (byNone [])) busy, byNone [], _, rfl, by decide +kernel, rfl, rfl⟩,
    ⟨offering (.create (byNone [])) busy, byNone [], _, rfl, by decide +kernel, rfl, rfl, by decide +kernel⟩,
    ⟨offering (.ping (frame .a 16 7 [])) busy, frame .a 16 7 [], by decide +kernel⟩,
    ⟨offering (.ping (frame .a 15 7 [])) busy, frame .a 15 7 [], SessEntry.free, by decide +kernel⟩,
    ⟨offering (.ping (frame .a 0 8 [])) busy, frame .a 0 8 [], by decide +kernel⟩,
    ⟨offering (.ping (frame .b 0 7 [])) busy, frame .b 0 7 [], by decide +kernel⟩,
    ⟨offering (.ping (by0 [])) (session 0 { e0 with state := .suspect } busy), by0 [],
      { e0 with state := .suspect }, by decide +kernel⟩⟩

theorem witness_RefusedAtTheSessionOrForLength_lost : ∃ (s : State) (f : Frame) (m : Marks),
    marksOf (.info f) = some m ∧ s.offers (.info f) f.port ∧ (s.inFault → m.inFault = true) ∧
    m.need ≠ .skip ∧ f.client = 0 ∧ s.entryLost 0 = true ∧ (sessionWord 0).holds s e0 :=
  ⟨(offering (.info (by0 [])) busy).enterFault (lostBit 0), by0 [], _, rfl, by decide +kernel, fun _ => rfl,
    by decide +kernel, by decide +kernel, by decide +kernel, by decide +kernel⟩

theorem witness_RefusedAtTheSessionOrForLength_length : ∃ (s s1 : State) (f : Frame) (m : Marks),
    marksOf (.ping f) = some m ∧ s.offers (.ping f) f.port ∧ ¬ s.inFault ∧
    (s.accept f.port).checkedTo m.need f s1 ∧ f.args.length ≠ m.args :=
  ⟨offering (.ping (by0 [0])) busy, taken (.ping (by0 [0])) (by0 [0]) (some e0) busy, by0 [0], _, rfl,
    by decide +kernel, by decide +kernel, ⟨e0, by decide +kernel, rfl⟩, by decide +kernel⟩

/-! ### Sessions -/

theorem witness_InfoTimeAndPingAnswer :
    (∃ s s1 f, State.takenTo s (.info f) f s1) ∧ (∃ s s1 f, State.takenTo s (.time f) f s1) ∧
    ∃ (s : State) (f : Frame), s.offers (.ping f) f.port ∧ ¬ s.inFault ∧
      (s.accept f.port).passes f e0 ∧ f.args = [] :=
  ⟨⟨offering (.info (byNone [])) busy, _, byNone [], takenTo_of (o := none) (by decide +kernel)⟩,
    ⟨failed (offering (.time (by0 [])) busy), _, by0 [], takenTo_of (o := some e0) (by decide +kernel)⟩,
    ⟨offering (.ping (by0 [])) busy, by0 [], by decide +kernel⟩⟩

def openFrame (term : Term) : Frame := byNone (termBytes term ++ [2, 1])

theorem witness_OpenBeginsASession : ∃ (s : State) (f : Frame), s.between ∧
    (∀ b, b < 2 → ∃ e, (sessionWord b).holds s e ∧ e.state ≠ .free) ∧
    s.offers (.openSession f) f.port ∧ ¬ s.inFault ∧ f.client = noClient ∧ f.args.length = 5 ∧
    64 ≤ (termAt f.args 0).toNat ∧ (termAt f.args 0).toNat ≤ 1048576 ∧
    policyOf (byteAt f.args 3) = some .hold ∧ onOffOf (byteAt f.args 4) = some true ∧
    (sessionWord 2).holds s SessEntry.free ∧ nonceWord.holds s 20 :=
  ⟨offering (.openSession (openFrame 1048576)) busy, openFrame 1048576, between_offering busy_between _,
    fun b hb => by
      rcases (show b = 0 ∨ b = 1 by omega) with rfl | rfl
      · exact ⟨e0, by decide +kernel⟩
      · exact ⟨e1, by decide +kernel⟩,
    by decide +kernel⟩

/-- The two sessions of `ready` with nothing held. -/
def e1r : SessEntry := opened .b 9 .release true

theorem witness_CloseAndDismissFreeTheSession :
    (∃ s s1 f, State.between s ∧ s.takenTo (.close f) f s1 ∧ (sessionWord 0).holds s1 e0 ∧
      s1.settleSlots 0 = [] ∧ f.client.toNat = 0) ∧
    ∃ s s1 f, State.between s ∧ s.takenTo (.dismiss f) f s1 ∧ (sessionWord 1).holds s1 e1r ∧
      s1.settleSlots 1 = [] ∧ (byteAt f.args 0).toNat = 1 ∧ e1r.state ≠ .free :=
  ⟨⟨offering (.close (by0 [])) ready, taken (.close (by0 [])) (by0 []) (some e0) ready, by0 [],
      between_offering ready_between _, takenTo_of (by decide +kernel), by decide +kernel⟩,
    ⟨offering (.dismiss (bySup [1])) ready, taken (.dismiss (bySup [1])) (bySup [1]) none ready, bySup [1],
      between_offering ready_between _, takenTo_of (by decide +kernel), by decide +kernel⟩⟩

/-- Session 0 SUSPECT, with the nonce counter at its nonce. -/
def suspended : State :=
  session 0 { e0 with state := .suspect, waitsLost := true } ready
  |> fun s => s.setStore { s.store with nonce := Copies.two 7 }
/-- Session 0 LAPSED. -/
def lapsed : State := (session 0 { e0 with state := .lapsed } ready).dropDeadline 0
theorem suspended_between : suspended.between := between_of (by decide +kernel)
theorem lapsed_between : lapsed.between := between_of (by decide +kernel)

theorem witness_ReattachOpensTheSession :
    (∃ (s : State) (f : Frame) (e : SessEntry), s.between ∧ s.offers (.reattach f) f.port ∧ ¬ s.inFault ∧
      f.args = [] ∧ f.client.toNat = 0 ∧ (sessionWord 0).holds s e ∧ e.nonce = f.nonce ∧
      e.state = .suspect ∧ s.lapseDue 0 e = false ∧ nonceWord.holds s e.nonce) ∧
    ∃ (s : State) (f : Frame) (e : SessEntry), s.between ∧ s.offers (.reattach f) f.port ∧ ¬ s.inFault ∧
      f.args = [] ∧ f.client.toNat = 0 ∧ (sessionWord 0).holds s e ∧ e.nonce = f.nonce ∧
      e.state = .lapsed ∧ s.settleSlots 0 = [] ∧ s.lapseDue 0 e = false ∧ nonceWord.holds s 20 :=
  ⟨⟨offering (.reattach (frame .b 0 7 [])) suspended, frame .b 0 7 [],
      { e0 with state := .suspect, waitsLost := true }, between_offering suspended_between _,
      by decide +kernel⟩,
    ⟨offering (.reattach (frame .b 0 7 [])) lapsed, frame .b 0 7 [], { e0 with state := .lapsed },
      between_offering lapsed_between _, by decide +kernel⟩⟩

/-- Session 0 with key 6 in slot 1: LAPSED with its grant ORPHANED, and OPEN under HOLD at its heartbeat's end. -/
def orphaned : State := hold 1 (record 6 [{ grant 0 .exclusive 40 2000 with gstate := .orphaned }]) lapsed
def silentHolder : State :=
  takeAdvance (128 * 40) (ready |> hold 1 (record 6 [grant 0 .exclusive 40 2000]) |> timed 1 (grant 0 .exclusive 40 2000))
theorem orphaned_between : orphaned.between := between_of (by decide +kernel)
theorem silentHolder_between : silentHolder.between := between_of (by decide +kernel)

theorem witness_ReattachOpensTheSession_revives :
    (∃ (s : State) (f : Frame) (e : SessEntry) (g : Grant), s.between ∧
      (s.accept f.port).atRest 6 1 ∧ s.offers (.reattach f) f.port ∧ ¬ s.inFault ∧ f.args = [] ∧
      f.client.toNat = 0 ∧ (sessionWord 0).holds s e ∧ e.nonce = f.nonce ∧ s.settleSlots 0 = [1] ∧ (s.recordOf 1).grantOf 0 = some g ∧
      ((s.recordOf 1).grants.map Grant.token).Nodup ∧ (∀ p ∈ s.waitersOf 1, p.2.client ≠ 0) ∧
      e.waitsHeld = false ∧ nonceWord.holds s 20 ∧ e.state = .lapsed ∧ g.gstate = .orphaned) ∧
    ∃ (s : State) (f : Frame) (e : SessEntry) (g : Grant), s.between ∧
      (s.accept f.port).atRest 6 1 ∧ s.offers (.reattach f) f.port ∧ ¬ s.inFault ∧ f.args = [] ∧
      f.client.toNat = 0 ∧ (sessionWord 0).holds s e ∧ e.nonce = f.nonce ∧ s.settleSlots 0 = [1] ∧ (s.recordOf 1).grantOf 0 = some g ∧
      ((s.recordOf 1).grants.map Grant.token).Nodup ∧ (∀ p ∈ s.waitersOf 1, p.2.client ≠ 0) ∧
      e.waitsHeld = false ∧ nonceWord.holds s 20 ∧ e.state = .opened ∧ e.policy = .hold ∧
      s.lapseDue 0 e = true ∧ g.gstate = .live :=
  ⟨⟨offering (.reattach (frame .b 0 7 [])) orphaned, frame .b 0 7 [], { e0 with state := .lapsed },
      { grant 0 .exclusive 40 2000 with gstate := .orphaned }, between_offering orphaned_between _,
      atRest_of (by decide +kernel), by decide +kernel⟩,
    ⟨offering (.reattach (frame .b 0 7 [])) silentHolder, frame .b 0 7 [], e0, grant 0 .exclusive 40 2000,
      between_offering silentHolder_between _, atRest_of (by decide +kernel), by decide +kernel⟩⟩

theorem witness_SessionStatusReports :
    (∃ s s1 f, State.takenTo s (.sessionStatus f) f s1 ∧ (byteAt f.args 0).toNat = 16) ∧
    (∃ s s1 f, State.takenTo s (.sessionStatus f) f s1 ∧ (byteAt f.args 0).toNat = 15 ∧
      (sessionWord 15).holds s1 SessEntry.free ∧ s1.lapseDue 15 SessEntry.free = false ∧
      s1.grantSlots 15 = []) ∧
    ∃ s s1 f, State.takenTo s (.sessionStatus f) f s1 ∧ (byteAt f.args 0).toNat = 0 ∧
      (sessionWord 0).holds s1 e0 ∧ s1.lapseDue 0 e0 = false ∧ s1.grantSlots 0 = [] ∧ e0.state ≠ .free :=
  ⟨⟨offering (.sessionStatus (byNone [16])) busy, _, byNone [16], takenTo_of (o := none) (by decide +kernel),
      by decide +kernel⟩,
    ⟨offering (.sessionStatus (byNone [15])) busy,
      taken (.sessionStatus (byNone [15])) (byNone [15]) none busy, byNone [15],
      takenTo_of (by decide +kernel), by decide +kernel⟩,
    ⟨offering (.sessionStatus (byNone [0])) ready,
      taken (.sessionStatus (byNone [0])) (byNone [0]) none ready, byNone [0],
      takenTo_of (by decide +kernel), by decide +kernel⟩⟩

/-! ### The directory -/

def createFrame (k : Key) : Frame := bySup (keyBytes k ++ [4] ++ termBytes 1 ++ termBytes 0xFFFFFF)

theorem witness_CreateCommitsARecord : ∃ s s1 f, State.between s ∧ s.takenTo (.create f) f s1 ∧
    zoneWord.holds s1 map ∧ keyAt f.args 0 = 0xFFFFFFFE ∧ ¬ reservedKey 0xFFFFFFFE ∧
    s.main.supPort = some f.port ∧ s1.lookup 0xFFFFFFFE = none ∧ s1.isFree 6 = true ∧
    (∀ m, m < 6 → s1.isFree m = false) ∧ (s1.store.slot 6).ecc.head? = some .good ∧ s1.queueOf 6 = [] ∧
    (byteAt f.args 4).toNat = 4 ∧ termAt f.args 8 ≠ 0 ∧ termAt f.args 5 ≠ 0 ∧
    termAt f.args 5 ≤ termAt f.args 8 :=
  ⟨offering (.create (createFrame 0xFFFFFFFE)) busy,
    taken (.create (createFrame 0xFFFFFFFE)) (createFrame 0xFFFFFFFE) none busy, createFrame 0xFFFFFFFE,
    between_offering busy_between _, takenTo_of (by decide +kernel), by decide +kernel⟩

theorem witness_RetireFreesTheSlot :
    (∃ s s1 f, State.between s ∧ s.takenTo (.retire f) f s1 ∧ zoneWord.holds s1 map ∧
      keyAt f.args 0 = 5 ∧ (map.attr (map.classify 5)).supOnly = false ∧ s1.atRest 5 0 ∧
      (s1.recordOf 0).key = 5 ∧ (s1.recordOf 0).state = .vacant ∧ s1.queueOf 0 = []) ∧
    ∃ s s1 f, State.between s ∧ s.takenTo (.retire f) f s1 ∧ zoneWord.holds s1 map ∧
      keyAt f.args 0 = 9 ∧ s.main.supPort = some f.port ∧ s1.atRest 9 4 ∧ (s1.recordOf 4).key = 9 ∧
      (s1.recordOf 4).state ≠ .vacant :=
  ⟨⟨offering (.retire (by0 (keyBytes 5))) busy,
      taken (.retire (by0 (keyBytes 5))) (by0 (keyBytes 5)) (some e0) busy, by0 (keyBytes 5),
      between_offering busy_between _, takenTo_of (by decide +kernel), by decide +kernel, by decide +kernel,
      by decide +kernel, atRest_of (by decide +kernel), by decide +kernel⟩,
    ⟨offering (.retire (bySup (keyBytes 9))) busy,
      taken (.retire (bySup (keyBytes 9))) (bySup (keyBytes 9)) none busy, bySup (keyBytes 9),
      between_offering busy_between _, takenTo_of (by decide +kernel), by decide +kernel, by decide +kernel,
      by decide +kernel, atRest_of (by decide +kernel), by decide +kernel⟩⟩

theorem witness_LookupReports :
    (∃ s s1 f, State.takenTo s (.lookup f) f s1 ∧ reservedKey (keyAt f.args 0)) ∧
    (∃ s s1 f, State.takenTo s (.lookup f) f s1 ∧ ¬ reservedKey (keyAt f.args 0) ∧
      s1.lookup (keyAt f.args 0) = none) ∧
    (∃ s s1 f e, State.takenTo s (.lookup f) f s1 ∧ ¬ reservedKey (keyAt f.args 0) ∧
      s1.lookup (keyAt f.args 0) = some e ∧ e.quarantined = true ∧ zoneWord.holds s1 map) ∧
    (∃ s s1 f, State.takenTo s (.lookup f) f s1 ∧ ¬ reservedKey (keyAt f.args 0) ∧ ¬ s1.inFault ∧
      s1.atRest (keyAt f.args 0) 4) ∧
    ∃ s s1 f e, State.takenTo s (.lookup f) f s1 ∧ ¬ reservedKey (keyAt f.args 0) ∧ s1.inFault ∧
      s1.lookup (keyAt f.args 0) = some e ∧ e.quarantined = false ∧ (s1.store.slot e.slot).ecc = tenGood :=
  ⟨⟨offering (.lookup (byNone (keyBytes 0xFFFFFFFF))) busy, _, byNone (keyBytes 0xFFFFFFFF),
      takenTo_of (o := none) (by decide +kernel), by decide +kernel⟩,
    ⟨offering (.lookup (byNone (keyBytes 1))) busy,
      taken (.lookup (byNone (keyBytes 1))) (byNone (keyBytes 1)) none busy, byNone (keyBytes 1),
      takenTo_of (by decide +kernel), by decide +kernel⟩,
    ⟨offering (.lookup (byNone (keyBytes 10))) busy,
      taken (.lookup (byNone (keyBytes 10))) (byNone (keyBytes 10)) none busy, byNone (keyBytes 10),
      { slot := 5, quarantined := true, holders := [] }, takenTo_of (by decide +kernel), by decide +kernel⟩,
    ⟨offering (.lookup (by0 (keyBytes 9))) busy,
      taken (.lookup (by0 (keyBytes 9))) (by0 (keyBytes 9)) (some e0) busy, by0 (keyBytes 9),
      takenTo_of (by decide +kernel), by decide +kernel, by decide +kernel, atRest_of (by decide +kernel)⟩,
    ⟨offering (.lookup (byNone (keyBytes 6))) (failed busy),
      taken (.lookup (byNone (keyBytes 6))) (byNone (keyBytes 6)) none (failed busy), byNone (keyBytes 6),
      { slot := 1, quarantined := false, holders := [(0, 40)] }, takenTo_of (by decide +kernel),
      by decide +kernel⟩⟩

def enumerateFrame (start : Key) (count : Byte) : Frame := byNone (keyBytes start ++ [count])

theorem witness_EnumerateListsAPage : ∃ s s1 f, State.takenTo s (.enumerate f) f s1 ∧ ¬ s.inFault ∧
    keyAt f.args 0 = 6 ∧ (byteAt f.args 4).toNat = 3 ∧
    ∀ e ∈ s1.main.index, 6 ≤ e.1 → e.2.quarantined = true ∨ s1.atRest (BitVec.ofNat 32 e.1) e.2.slot :=
  ⟨offering (.enumerate (enumerateFrame 6 3)) busy,
    taken (.enumerate (enumerateFrame 6 3)) (enumerateFrame 6 3) none busy, enumerateFrame 6 3,
    takenTo_of (by decide +kernel), by decide +kernel, by decide +kernel, by decide +kernel,
    fun e he _ => by
      have h : ∀ e ∈ (taken (.enumerate (enumerateFrame 6 3)) (enumerateFrame 6 3) none busy).main.index,
          e.2.quarantined = true ∨ rests (taken (.enumerate (enumerateFrame 6 3)) (enumerateFrame 6 3) none
            busy) (BitVec.ofNat 32 e.1) e.2.slot = true := by decide +kernel
      exact (h e he).imp id atRest_of⟩

/-! ### Grants -/

def acquireFrame (k : Key) (m : Byte) (term wait : Term) : List Byte :=
  keyBytes k ++ [m] ++ termBytes term ++ termBytes wait

def acq0 (k : Key) (m : Byte) (term wait : Term) : Frame := by0 (acquireFrame k m term wait)
def acq1 (k : Key) (m : Byte) (term wait : Term) : Frame := by1 (acquireFrame k m term wait)

theorem witness_AcquireRefusesBadArguments :
    (∃ s s1 f, State.takenTo s (.acquire f) f s1 ∧ keyAt f.args 0 = 0xFFFFFFFF) ∧
    ∃ s s1 f, State.takenTo s (.acquire f) f s1 ∧ keyAt f.args 0 = 0xFFFFFFFE ∧ byteAt f.args 4 = 2 :=
  ⟨⟨offering (.acquire (acq0 0xFFFFFFFF 0 0 0)) busy, _, acq0 0xFFFFFFFF 0 0 0,
      takenTo_of (o := some e0) (by decide +kernel), by decide +kernel⟩,
    ⟨offering (.acquire (acq0 0xFFFFFFFE 2 0 0)) busy, _, acq0 0xFFFFFFFE 2 0 0,
      takenTo_of (o := some e0) (by decide +kernel), by decide +kernel⟩⟩

theorem admits_free {r : Rec} {c : Nat} (h : r.state = .vacant) : r.admissible c .exclusive := .inl ⟨rfl, h⟩
theorem admits_beside {r : Rec} {c : Nat}
    (h : r.state = .heldShared ∧ r.grants.length < r.share ∧ ∀ g ∈ r.grants, g.client ≠ c) :
    r.admissible c .shared := .inr ⟨rfl, .inr ⟨h.1, h.2.1⟩, h.2.2⟩

theorem holding_of {r : Rec}
    (h : (∀ g ∈ r.grants, g.mode = .exclusive → r.grants = [g]) ∧
      (r.grants ≠ [] → r.grants.length ≤ r.share) ∧ (r.grants.map Grant.client).Nodup ∧
      r.state = summaryOf r.grants ∧ 1 ≤ r.share) : r.holding := ⟨h.1, h.2.1, h.2.2.1, h.2.2.2.1, h.2.2.2.2⟩

theorem witness_AcquireGrantsAtOnce :
    (∃ s s1 f, State.between s ∧ s.takenTo (.acquire f) f s1 ∧ keyAt f.args 0 = 5 ∧
      modeOf (byteAt f.args 4) = some .exclusive ∧ s1.atRest 5 0 ∧ (s1.recordOf 0).holding ∧
      (s1.recordOf 0).grantOf f.client.toNat = none ∧ (s1.recordOf 0).admissible f.client.toNat .exclusive ∧
      s1.queueOf 0 = [] ∧ (s1.recordOf 0).termFor (termAt f.args 5) ≤ (s1.recordOf 0).maxTerm ∧
      tokenWord.holds s1 50) ∧
    ∃ s s1 f, State.between s ∧ s.takenTo (.acquire f) f s1 ∧ keyAt f.args 0 = 7 ∧
      modeOf (byteAt f.args 4) = some .shared ∧ s1.atRest 7 2 ∧ (s1.recordOf 2).holding ∧
      (s1.recordOf 2).grantOf f.client.toNat = none ∧ (s1.recordOf 2).admissible f.client.toNat .shared ∧
      s1.queueOf 2 = [] ∧ (s1.recordOf 2).termFor (termAt f.args 5) ≤ (s1.recordOf 2).maxTerm ∧
      tokenWord.holds s1 50 :=
  ⟨⟨offering (.acquire (acq0 5 0 1000 0)) busy,
      taken (.acquire (acq0 5 0 1000 0)) (acq0 5 0 1000 0) (some e0) busy, acq0 5 0 1000 0,
      between_offering busy_between _, takenTo_of (by decide +kernel), by decide +kernel, by decide +kernel,
      atRest_of (by decide +kernel), holding_of (by decide +kernel), by decide +kernel,
      admits_free (by decide +kernel), by decide +kernel⟩,
    ⟨offering (.acquire (acq0 7 1 0 9)) busy,
      taken (.acquire (acq0 7 1 0 9)) (acq0 7 1 0 9) (some e0) busy, acq0 7 1 0 9,
      between_offering busy_between _, takenTo_of (by decide +kernel), by decide +kernel, by decide +kernel,
      atRest_of (by decide +kernel), holding_of (by decide +kernel), by decide +kernel,
      admits_beside (by decide +kernel), by decide +kernel⟩⟩

theorem witness_AcquireMakesTheRecord : ∃ s s1 f, State.between s ∧ s.takenTo (.acquire f) f s1 ∧
    keyAt f.args 0 = 4096 ∧ modeOf (byteAt f.args 4) = some .shared ∧ s1.lookup 4096 = none ∧
    zoneWord.holds s1 map ∧ (map.attr (map.classify 4096)).autoCreate = true ∧ s1.isFree 6 = true ∧
    (∀ j, j < 6 → s1.isFree j = false) ∧ (s1.store.slot 6).ecc.head? = some .good ∧ s1.queueOf 6 = [] ∧
    termAt f.args 5 = 60 ∧ (map.attr (map.classify 4096)).maxTerm = 60 ∧ tokenWord.holds s1 50 :=
  ⟨offering (.acquire (acq0 4096 1 60 0)) busy,
    taken (.acquire (acq0 4096 1 60 0)) (acq0 4096 1 60 0) (some e0) busy, acq0 4096 1 60 0,
    between_offering busy_between _, takenTo_of (by decide +kernel), by decide +kernel⟩

theorem refuses_held {r : Rec} {c : Nat} (h : r.state ≠ .vacant) : ¬ r.admissible c .exclusive := by
  rintro (⟨-, h1⟩ | ⟨h1, -⟩)
  · exact h h1
  · cases h1

theorem witness_AcquireWaitsOrAnswersBusy :
    (∃ s s1 f, State.between s ∧ s.takenTo (.acquire f) f s1 ∧ keyAt f.args 0 = 6 ∧
      modeOf (byteAt f.args 4) = some .exclusive ∧ s1.atRest 6 1 ∧ (s1.recordOf 1).grantOf 1 = none ∧
      (∀ p ∈ s1.waitersOf 1, p.2.client ≠ 1) ∧ ¬ (s1.recordOf 1).admissible 1 .exclusive ∧
      termAt f.args 8 = 0) ∧
    (∃ s s1 f, State.between s ∧ s.takenTo (.acquire f) f s1 ∧ keyAt f.args 0 = 6 ∧
      modeOf (byteAt f.args 4) = some .exclusive ∧ s1.atRest 6 1 ∧ (s1.recordOf 1).grantOf 1 = none ∧
      (∀ p ∈ s1.waitersOf 1, p.2.client ≠ 1) ∧ ¬ (s1.recordOf 1).admissible 1 .exclusive ∧
      termAt f.args 8 = 700 ∧ zoneWord.holds s1 map ∧ (map.attr (s1.recordOf 1).zone).waits = true ∧
      s1.waiter 1 = none ∧ s1.waiter 0 ≠ none ∧ (s1.vol 1).waitCount = 1 ∧ (sessionWord 1).holds s1 e1) ∧
    ∃ s s1 f, State.between s ∧ s.takenTo (.acquire f) f s1 ∧ keyAt f.args 0 = 7 ∧
      modeOf (byteAt f.args 4) = some .exclusive ∧ s1.atRest 7 2 ∧ (s1.recordOf 2).grantOf 0 = none ∧
      (∀ p ∈ s1.waitersOf 2, p.2.client ≠ 0) ∧ ¬ (s1.recordOf 2).admissible 0 .exclusive ∧
      termAt f.args 8 = 1 ∧ s1.waiter 1 = none ∧ (s1.vol 0).waitCount = 0 ∧ (sessionWord 0).holds s1 e0 :=
  ⟨⟨offering (.acquire (acq1 6 0 0 0)) busy,
      taken (.acquire (acq1 6 0 0 0)) (acq1 6 0 0 0) (some e1) busy, acq1 6 0 0 0,
      between_offering busy_between _, takenTo_of (by decide +kernel), by decide +kernel, by decide +kernel,
      atRest_of (by decide +kernel), by decide +kernel, by decide +kernel, refuses_held (by decide +kernel),
      by decide +kernel⟩,
    ⟨offering (.acquire (acq1 6 0 0 700)) busy,
      taken (.acquire (acq1 6 0 0 700)) (acq1 6 0 0 700) (some e1) busy, acq1 6 0 0 700,
      between_offering busy_between _, takenTo_of (by decide +kernel), by decide +kernel, by decide +kernel,
      atRest_of (by decide +kernel), by decide +kernel, by decide +kernel, refuses_held (by decide +kernel),
      by decide +kernel⟩,
    ⟨offering (.acquire (acq0 7 0 0 1)) busy,
      taken (.acquire (acq0 7 0 0 1)) (acq0 7 0 0 1) (some e0) busy, acq0 7 0 0 1,
      between_offering busy_between _, takenTo_of (by decide +kernel), by decide +kernel, by decide +kernel,
      atRest_of (by decide +kernel), by decide +kernel, by decide +kernel, refuses_held (by decide +kernel),
      by decide +kernel⟩⟩

/-- ACQUIRE SET of keys 7 (SHARED) and 5 (EXCLUSIVE). -/
def setFrame : Frame := by0 ([2] ++ termBytes 0 ++ keyBytes 7 ++ [1] ++ keyBytes 5 ++ [0])
def setKeys : List SetKey :=
  [{ key := 7, mode := .shared, slot := 2 }, { key := 5, mode := .exclusive, slot := 0 }]

theorem witness_AcquireSetGrantsAllOrNone : ∃ s s1 f, State.between s ∧ s.takenTo (.acquireSet f) f s1 ∧
    (byteAt f.args 0).toNat = setKeys.length ∧
    (∀ p ∈ setKeys.zipIdx, keyAt f.args (4 + 5 * p.2) = p.1.key ∧
      modeOf (byteAt f.args (8 + 5 * p.2)) = some p.1.mode) ∧
    (setKeys.map SetKey.key).Nodup ∧
    (∀ x ∈ setKeys, ¬ reservedKey x.key ∧ s1.atRest x.key x.slot ∧ (s1.recordOf x.slot).holding ∧
      (s1.recordOf x.slot).grantOf f.client.toNat = none ∧
      (s1.recordOf x.slot).admissible f.client.toNat x.mode ∧ s1.queueOf x.slot = [] ∧
      (s1.recordOf x.slot).termFor (termAt f.args 1) ≤ (s1.recordOf x.slot).maxTerm) ∧
    tokenWord.holds s1 50 :=
  ⟨offering (.acquireSet setFrame) busy, taken (.acquireSet setFrame) setFrame (some e0) busy, setFrame,
    between_offering busy_between _, takenTo_of (by decide +kernel), by decide +kernel, by decide +kernel,
    by decide +kernel, fun x hx => by
      rcases List.mem_cons.1 hx with rfl | hx
      · exact ⟨by decide +kernel, atRest_of (by decide +kernel), holding_of (by decide +kernel),
          by decide +kernel, admits_beside (by decide +kernel), by decide +kernel⟩
      · rw [List.mem_singleton.1 hx]
        exact ⟨by decide +kernel, atRest_of (by decide +kernel), holding_of (by decide +kernel),
          by decide +kernel, admits_free (by decide +kernel), by decide +kernel⟩,
    by decide +kernel⟩

/-- An ACQUIRE SET of session 0 with this term and this list; and with the list's bytes as they stand. -/
def setOf (t : Term) (l : List SetKey) : Frame :=
  by0 (BitVec.ofNat 8 l.length :: (termBytes t ++ l.flatMap fun x => keyBytes x.key ++ [x.mode.code]))
def setBytes (n : Byte) (l : List Byte) : Frame := by0 (n :: (termBytes 0 ++ l))

/-- A frame of session 0 that passes the common checks of ACQUIRE SET over `busy`. -/
def setTaken (f : Frame) (P : Prop) : Prop :=
  ∃ s s1, State.takenTo s (.acquireSet f) f s1 ∧ P
theorem setTaken_of {f : Frame} {P : Prop}
    (h : passesWith (offering (.acquireSet f) busy) (.acquireSet f) f (some e0) = true) (hp : P) : setTaken f P :=
  ⟨_, _, takenTo_of h, hp⟩

theorem witness_AcquireSetGrantsAllOrNone_list :
    (∃ f, setTaken f (byteAt f.args 0 = 0)) ∧ (∃ f, setTaken f (byteAt f.args 0 = 5)) ∧
    (∃ f, setTaken f (byteAt f.args 0 = 2 ∧ keyAt f.args 4 = 5 ∧ byteAt f.args 8 = 0 ∧
      reservedKey (keyAt f.args 9))) ∧
    (∃ f, setTaken f (byteAt f.args 0 = 2 ∧ keyAt f.args 4 = 5 ∧ byteAt f.args 8 = 1 ∧
      keyAt f.args 9 = 6 ∧ byteAt f.args 13 = 2)) ∧
    ∃ f, setTaken f (byteAt f.args 0 = 2 ∧ keyAt f.args 4 = 5 ∧ byteAt f.args 8 = 0 ∧
      keyAt f.args 9 = 5 ∧ byteAt f.args 13 = 1) :=
  ⟨⟨setBytes 0 [], setTaken_of (by decide +kernel) (by decide +kernel)⟩,
    ⟨setBytes 5 (List.replicate 25 1), setTaken_of (by decide +kernel) (by decide +kernel)⟩,
    ⟨setBytes 2 (keyBytes 5 ++ [0] ++ keyBytes 0 ++ [0]), setTaken_of (by decide +kernel) (by decide +kernel)⟩,
    ⟨setBytes 2 (keyBytes 5 ++ [1] ++ keyBytes 6 ++ [2]), setTaken_of (by decide +kernel) (by decide +kernel)⟩,
    ⟨setBytes 2 (keyBytes 5 ++ [0] ++ keyBytes 5 ++ [1]), setTaken_of (by decide +kernel) (by decide +kernel)⟩⟩

/-- All that AcquireSetGrantsAllOrNone asks where key `x` fails behind the keys `before`. -/
def setFails (before : List SetKey) (x : SetKey) (st : Status) : Prop :=
  ∃ s s1 f, State.between s ∧ s.takenTo (.acquireSet f) f s1 ∧ ListsKeys f (before ++ x :: []) ∧
    zoneWord.holds s1 map ∧ (∀ n ∈ s1.freeSlots, (s1.store.slot n).ecc.head? = some .good) ∧
    (∀ y ∈ before, s1.setKeyPasses f map y) ∧ (s1.absent before).length ≤ s1.freeSlots.length ∧
    s1.setKeyFails f map ((s1.absent before).length < s1.freeSlots.length) x st

theorem setFails_of {s : State} {t : Term} {before : List SetKey} {x : SetKey} {st : Status} (hb : s.between)
    (hl : 1 ≤ (before ++ x :: []).length ∧ (before ++ x :: []).length ≤ 4 ∧
      (byteAt (setOf t (before ++ x :: [])).args 0).toNat = (before ++ x :: []).length ∧
      (∀ p ∈ (before ++ x :: []).zipIdx, keyAt (setOf t (before ++ x :: [])).args (4 + 5 * p.2) = p.1.key ∧
        modeOf (byteAt (setOf t (before ++ x :: [])).args (8 + 5 * p.2)) = some p.1.mode) ∧
      ((before ++ x :: []).map SetKey.key).Nodup ∧ ∀ y ∈ before ++ x :: [], ¬ reservedKey y.key)
    (ht : passesWith (offering (.acquireSet (setOf t (before ++ x :: []))) s)
      (.acquireSet (setOf t (before ++ x :: []))) (setOf t (before ++ x :: [])) (some e0) = true)
    (s1 : State) (hs : s1 = taken (.acquireSet (setOf t (before ++ x :: []))) (setOf t (before ++ x :: [])) (some e0) s)
    (hz : zoneWord.holds s1 map ∧ (∀ n ∈ s1.freeSlots, (s1.store.slot n).ecc.head? = some .good) ∧
      (s1.absent before).length ≤ s1.freeSlots.length)
    (hp : ∀ y ∈ before, s1.setKeyPasses (setOf t (before ++ x :: [])) map y)
    (hf : s1.setKeyFails (setOf t (before ++ x :: [])) map
      ((s1.absent before).length < s1.freeSlots.length) x st) : setFails before x st :=
  ⟨_, s1, _, between_offering hb _, by rw [hs]; exact takenTo_of ht,
    ⟨hl.1, hl.2.1, hl.2.2.1, hl.2.2.2.1, hl.2.2.2.2⟩, hz.1, hz.2.1, hp, hz.2.2, hf⟩

/-- Key 7, SHARED beside session 1's grant, and the absent keys 4096 and 4097 of the zone that makes records. -/
def seven : SetKey := { key := 7, mode := .shared, slot := 2 }
def newKey (k : Key) : SetKey := { key := k, mode := .exclusive, slot := 0 }
theorem seven_passes {s : State} {f : Frame} (h : rests s 7 2 = true)
    (hu : (s.recordOf 2).grantOf f.client.toNat = none ∧ (∀ p ∈ s.waitersOf 2, p.2.client ≠ f.client.toNat) ∧
      (s.recordOf 2).termFor (termAt f.args 1) ≤ (s.recordOf 2).maxTerm ∧ s.queueOf 2 = [])
    (hb : (s.recordOf 2).state = .heldShared ∧ (s.recordOf 2).grants.length < (s.recordOf 2).share ∧
      ∀ g ∈ (s.recordOf 2).grants, g.client ≠ f.client.toNat) : s.setKeyPasses f map seven :=
  .inr ⟨atRest_of h, ⟨hu.1, hu.2.1⟩, hu.2.2.1, admits_beside hb, hu.2.2.2⟩

/-- `busy` with one FREE slot. -/
def cramped : State := busy.setFree (BitVec.ofNat 1024 64)
theorem cramped_between : cramped.between := between_of (by decide +kernel)

theorem witness_AcquireSetGrantsAllOrNone_keys :
    setFails [seven, newKey 4096] (newKey 10) .quarantined ∧ setFails [seven, newKey 4096] (newKey 11) .notFound ∧
    setFails [seven, newKey 4096] (newKey 4097) .noSpace ∧ setFails [seven] (newKey 4096) .badArg ∧
    setFails [newKey 4096] { key := 6, mode := .shared, slot := 1 } .exists_ ∧
    setFails [] seven .badArg ∧ setFails [newKey 4096] { seven with mode := .exclusive } .busy := by
  have both : ∀ {s : State} {f : Frame}, s.setKeyPasses f map seven → s.setKeyPasses f map (newKey 4096) →
      ∀ y ∈ [seven, newKey 4096], s.setKeyPasses f map y := by
    intro s f h1 h2 y hy
    rcases List.mem_cons.1 hy with rfl | hy
    · exact h1
    · rw [List.mem_singleton.1 hy]; exact h2
  have only : ∀ {s : State} {f : Frame} {x : SetKey}, s.setKeyPasses f map x → ∀ y ∈ [x], s.setKeyPasses f map y :=
    fun h y hy => List.mem_singleton.1 hy ▸ h
  refine ⟨setFails_of (t := 0) busy_between (by decide +kernel) (by decide +kernel) _ rfl (by decide +kernel)
      (both (seven_passes (by decide +kernel) (by decide +kernel) (by decide +kernel)) (.inl (by decide +kernel)))
      (.inl ⟨_, rfl, by decide +kernel⟩), ?_, ?_, ?_, ?_, ?_, ?_⟩
  · exact setFails_of (t := 0) busy_between (by decide +kernel) (by decide +kernel) _ rfl (by decide +kernel)
      (both (seven_passes (by decide +kernel) (by decide +kernel) (by decide +kernel)) (.inl (by decide +kernel)))
      (.inr (.inl ⟨by decide +kernel, .inl (by decide +kernel)⟩))
  · exact setFails_of (t := 0) cramped_between (by decide +kernel) (by decide +kernel) _ rfl (by decide +kernel)
      (both (seven_passes (by decide +kernel) (by decide +kernel) (by decide +kernel)) (.inl (by decide +kernel)))
      (.inr (.inl ⟨by decide +kernel, .inr (.inl (by decide +kernel))⟩))
  · exact setFails_of (t := 61) busy_between (by decide +kernel) (by decide +kernel) _ rfl (by decide +kernel)
      (only (seven_passes (by decide +kernel) (by decide +kernel) (by decide +kernel)))
      (.inr (.inl ⟨by decide +kernel, .inr (.inr (by decide +kernel))⟩))
  · exact setFails_of (t := 0) busy_between (by decide +kernel) (by decide +kernel) _ rfl (by decide +kernel)
      (only (.inl (by decide +kernel)))
      (.inr (.inr ⟨atRest_of (by decide +kernel), .inl ⟨fun h => absurd h.1 (by decide +kernel), rfl⟩⟩))
  · exact setFails_of (t := 1001) busy_between (by decide +kernel) (by decide +kernel) _ rfl (by decide +kernel)
      (fun _ h => nomatch h)
      (.inr (.inr ⟨atRest_of (by decide +kernel), .inr (.inl ⟨⟨by decide +kernel, by decide +kernel⟩,
        by decide +kernel⟩)⟩))
  · exact setFails_of (t := 0) busy_between (by decide +kernel) (by decide +kernel) _ rfl (by decide +kernel)
      (only (.inl (by decide +kernel)))
      (.inr (.inr ⟨atRest_of (by decide +kernel), .inr (.inr ⟨⟨by decide +kernel, by decide +kernel⟩,
        by decide +kernel, .inl (refuses_held (by decide +kernel)), rfl⟩)⟩))

/-- The waiter of `busy`. -/
def waiter0 : Waiter := { client := 1, slot := 4, mode := .exclusive, term := 300, deadline := 3000 }

def tokenFrame (k : Key) (t : Token) : List Byte := keyBytes k ++ tokenBytes t
def renewFrame (term : Term) : Frame := by0 (tokenFrame 6 40 ++ termBytes term)

theorem witness_RenewAndDowngradeChangeTheGrant :
    (∃ s s1 f, State.between s ∧ s.takenTo (.renew f) f s1 ∧ keyAt f.args 0 = 6 ∧
      tokenAt f.args 4 = 40 ∧ s1.atRest 6 1 ∧
      (s1.recordOf 1).liveGrant f.client.toNat 40 = some (grant 0 .exclusive 40 2000) ∧
      (s1.recordOf 1).maxTerm < (s1.recordOf 1).termFor (termAt f.args 10)) ∧
    (∃ s s1 f, State.between s ∧ s.takenTo (.renew f) f s1 ∧ keyAt f.args 0 = 6 ∧
      tokenAt f.args 4 = 40 ∧ s1.atRest 6 1 ∧
      (s1.recordOf 1).liveGrant f.client.toNat 40 = some (grant 0 .exclusive 40 2000) ∧
      (s1.recordOf 1).termFor (termAt f.args 10) ≤ (s1.recordOf 1).maxTerm) ∧
    (∃ s s1 f, State.between s ∧ s.takenTo (.downgrade f) f s1 ∧ keyAt f.args 0 = 7 ∧
      tokenAt f.args 4 = 41 ∧ s1.atRest 7 2 ∧
      (s1.recordOf 2).liveGrant f.client.toNat 41 = some (grant 1 .shared 41 2100) ∧ s1.waitersOf 2 = []) ∧
    ∃ s s1 f, State.between s ∧ s.takenTo (.downgrade f) f s1 ∧ keyAt f.args 0 = 9 ∧
      tokenAt f.args 4 = 43 ∧ s1.atRest 9 4 ∧
      (s1.recordOf 4).liveGrant f.client.toNat 43 = some (grant 0 .exclusive 43 2300) ∧
      ((s1.recordOf 4).changed 43 fun x => { x with mode := .shared }).noHandoff (s1.waitersOf 4) :=
  ⟨⟨offering (.renew (renewFrame 1001)) busy,
      taken (.renew (renewFrame 1001)) (renewFrame 1001) (some e0) busy, renewFrame 1001,
      between_offering busy_between _, takenTo_of (by decide +kernel), by decide +kernel, by decide +kernel,
      atRest_of (by decide +kernel), by decide +kernel⟩,
    ⟨offering (.renew (renewFrame 1000)) busy,
      taken (.renew (renewFrame 1000)) (renewFrame 1000) (some e0) busy, renewFrame 1000,
      between_offering busy_between _, takenTo_of (by decide +kernel), by decide +kernel, by decide +kernel,
      atRest_of (by decide +kernel), by decide +kernel⟩,
    ⟨offering (.downgrade (by1 (tokenFrame 7 41))) busy,
      taken (.downgrade (by1 (tokenFrame 7 41))) (by1 (tokenFrame 7 41)) (some e1) busy,
      by1 (tokenFrame 7 41), between_offering busy_between _, takenTo_of (by decide +kernel),
      by decide +kernel, by decide +kernel, atRest_of (by decide +kernel), by decide +kernel⟩,
    ⟨offering (.downgrade (by0 (tokenFrame 9 43))) busy,
      taken (.downgrade (by0 (tokenFrame 9 43))) (by0 (tokenFrame 9 43)) (some e0) busy,
      by0 (tokenFrame 9 43), between_offering busy_between _, takenTo_of (by decide +kernel),
      by decide +kernel, by decide +kernel, atRest_of (by decide +kernel), by decide +kernel, by
        intro p hp
        have h : (taken (.downgrade (by0 (tokenFrame 9 43))) (by0 (tokenFrame 9 43)) (some e0)
          busy).waitersOf 4 = [(0, waiter0)] := by decide +kernel
        rw [h] at hp
        cases hp
        decide +kernel⟩⟩

theorem noHandoff_nil {r : Rec} {q : List (Nat × Waiter)} (h : q = []) : r.noHandoff q := by
  subst h
  intro p hp
  cases hp

theorem witness_ReleaseRemovesTheGrant :
    (∃ s s1 f, State.between s ∧ s.takenTo (.release f) f s1 ∧ keyAt f.args 0 = 6 ∧
      tokenAt f.args 4 = 40 ∧ s1.atRest 6 1 ∧
      (s1.recordOf 1).liveGrant f.client.toNat 40 = some (grant 0 .exclusive 40 2000) ∧
      ((s1.recordOf 1).without 40).noHandoff (s1.waitersOf 1) ∧
      ((s1.recordOf 1).without 40).persist = .pinned) ∧
    ∃ s s1 f, State.between s ∧ s.takenTo (.release f) f s1 ∧ keyAt f.args 0 = 8 ∧
      tokenAt f.args 4 = 42 ∧ s1.atRest 8 3 ∧
      (s1.recordOf 3).liveGrant f.client.toNat 42 = some (grant 0 .exclusive 42 2200) ∧
      ((s1.recordOf 3).without 42).noHandoff (s1.waitersOf 3) ∧
      ((s1.recordOf 3).without 42).retires (s1.queueOf 3) :=
  ⟨⟨offering (.release (by0 (tokenFrame 6 40))) busy,
      taken (.release (by0 (tokenFrame 6 40))) (by0 (tokenFrame 6 40)) (some e0) busy,
      by0 (tokenFrame 6 40), between_offering busy_between _, takenTo_of (by decide +kernel),
      by decide +kernel, by decide +kernel, atRest_of (by decide +kernel), by decide +kernel,
      noHandoff_nil (by decide +kernel), by decide +kernel⟩,
    ⟨offering (.release (by0 (tokenFrame 8 42))) busy,
      taken (.release (by0 (tokenFrame 8 42))) (by0 (tokenFrame 8 42)) (some e0) busy,
      by0 (tokenFrame 8 42), between_offering busy_between _, takenTo_of (by decide +kernel),
      by decide +kernel, by decide +kernel, atRest_of (by decide +kernel), by decide +kernel,
      noHandoff_nil (by decide +kernel), ⟨by decide +kernel, by decide +kernel, by decide +kernel⟩⟩⟩

theorem witness_ReleaseHandsOff : ∃ s s1 f, State.between s ∧ s.takenTo (.release f) f s1 ∧
    keyAt f.args 0 = 9 ∧ tokenAt f.args 4 = 43 ∧ s1.atRest 9 4 ∧
    (s1.recordOf 4).liveGrant f.client.toNat 43 = some (grant 0 .exclusive 43 2300) ∧
    (s1.recordOf 4).grants = [grant 0 .exclusive 43 2300] ∧ s1.waitersOf 4 = [(0, waiter0)] ∧
    waiter0.mode = .exclusive ∧ tokenWord.holds s1 50 ∧ (sessionWord 1).holds s1 e1 ∧
    e1.state = .opened :=
  ⟨offering (.release (by0 (tokenFrame 9 43))) busy,
    taken (.release (by0 (tokenFrame 9 43))) (by0 (tokenFrame 9 43)) (some e0) busy,
    by0 (tokenFrame 9 43), between_offering busy_between _, takenTo_of (by decide +kernel),
    by decide +kernel, by decide +kernel, atRest_of (by decide +kernel), by decide +kernel⟩

/-! ### Waiters, notices, zones -/

theorem witness_CancelledAndTimedOutWaitersLeave_cancel : ∃ s s1 f, State.between s ∧ s.takenTo (.cancelWait f) f s1 ∧
    keyAt f.args 1 = 9 ∧ (byteAt f.args 0).toNat = 0 ∧ f.client.toNat = 1 ∧ s1.atRest 9 4 ∧
    (s1.recordOf 4).state ≠ .vacant ∧ (0, waiter0) ∈ s1.waitersOf 4 ∧ waiter0.client = 1 ∧
    ((s1.waitersOf 4).filter fun p => p.1 != 0) = [] ∧ (sessionWord 1).holds s1 e1 ∧ e1.state = .opened ∧
    (s1.vol 1).waitCount = 1 ∧ e1.waitsHeld = true :=
  ⟨offering (.cancelWait (by1 ([0] ++ keyBytes 9))) busy,
    taken (.cancelWait (by1 ([0] ++ keyBytes 9))) (by1 ([0] ++ keyBytes 9)) (some e1) busy,
    by1 ([0] ++ keyBytes 9), between_offering busy_between _, takenTo_of (by decide +kernel),
    by decide +kernel, by decide +kernel, by decide +kernel, atRest_of (by decide +kernel), by decide +kernel⟩

/-- A notice. -/
def note (k : Key) : Notice :=
  { kind := .expired, key := k, token := 30, waiter := none, cause := .none, tick := 900 }
/-- Session 1 with five notices and three lost. -/
def noted : State :=
  busy.setNoticesOf 1 { queue := [note 1, note 2, note 3, note 4, note 5], lost := 3 }

theorem witness_FetchNoticesEmptiesTheHead : ∃ s s1 f q, State.takenTo s (.fetchNotices f) f s1 ∧
    f.client.toNat = 1 ∧ (byteAt f.args 0).toNat = 4 ∧
    s1.noticesOf 1 = { queue := q, lost := 3 } ∧ q.length = 5 :=
  ⟨offering (.fetchNotices (by1 [4])) noted,
    taken (.fetchNotices (by1 [4])) (by1 [4]) (some e1) noted, by1 [4], _, takenTo_of (by decide +kernel),
    by decide +kernel, by decide +kernel, rfl, rfl⟩

/-- `noted` with session 1's five notices: port B's line is low and the others are released. -/
theorem witness_AttentionSetsEnableAndLines_lines :
    (∃ (s : State) (se : Nat → SessEntry), ¬ s.inFault ∧ (∀ c, c < 16 → (sessionWord c).holds s (se c)) ∧
      (se 1).state ≠ .free ∧ (se 1).port = some .b ∧ (se 1).attention = true ∧
      (s.noticesOf 1).queue ≠ []) ∧ ∃ s : State, s.inFault :=
  ⟨⟨noted, fun c => if c = 0 then e0 else if c = 1 then e1 else SessEntry.free, by decide +kernel⟩,
    ⟨noted.enterFault (lostBit 16), by decide +kernel⟩⟩

theorem witness_AttentionSetsEnableAndLines :
    (∃ s s1 f, State.between s ∧ s.takenTo (.attention f) f s1 ∧ (sessionWord 0).holds s1 e0 ∧
      f.client.toNat = 0 ∧ byteAt f.args 0 = 2) ∧
    (∃ s s1 f, State.between s ∧ s.takenTo (.attention f) f s1 ∧ (sessionWord 0).holds s1 e0 ∧
      onOffOf (byteAt f.args 0) = some false ∧ e0.attention = false) ∧
    ∃ s s1 f, State.between s ∧ s.takenTo (.attention f) f s1 ∧ (sessionWord 0).holds s1 e0 ∧
      onOffOf (byteAt f.args 0) = some true ∧ e0.attention ≠ true :=
  ⟨⟨offering (.attention (by0 [2])) busy, taken (.attention (by0 [2])) (by0 [2]) (some e0) busy, by0 [2],
      between_offering busy_between _, takenTo_of (by decide +kernel), by decide +kernel⟩,
    ⟨offering (.attention (by0 [0])) busy, taken (.attention (by0 [0])) (by0 [0]) (some e0) busy, by0 [0],
      between_offering busy_between _, takenTo_of (by decide +kernel), by decide +kernel⟩,
    ⟨offering (.attention (by0 [1])) busy, taken (.attention (by0 [1])) (by0 [1]) (some e0) busy, by0 [1],
      between_offering busy_between _, takenTo_of (by decide +kernel), by decide +kernel⟩⟩

/-- Two maps: one that keeps the zone of every key in use, and one that does not. -/
def mapFar : ZoneMap := { map with b1 := { on := true, key := 5000 } }
def mapNear : ZoneMap := { map with b1 := { on := true, key := 7 } }
/-- `busy` with its map frozen. -/
def frozen : State := busy.setStore { busy.store with zone := sevens { map with frozen := true } }
theorem frozen_between : frozen.between := between_of (by decide +kernel)
theorem zoneImageOk_of {a : List Byte}
    (h : (∀ i, i < 3 → byteAt a (5 * i) = 0 ∨ byteAt a (5 * i) = 1) ∧
      (∀ z, z < 4 → ∀ j, j < 3 → byteAt a (15 + 10 * z + j) = 0 ∨ byteAt a (15 + 10 * z + j) = 1) ∧
      (∀ i, i < 3 → byteAt a (5 * i) = 1 → ¬ reservedKey (keyAt a (5 * i + 1))) ∧
      (∀ i, i < 2 → byteAt a (5 * (i + 1)) = 1 →
        byteAt a (5 * i) = 1 ∧ keyAt a (5 * i + 1) < keyAt a (5 * (i + 1) + 1)) ∧
      ∀ z, z < 4 → 1 ≤ (byteAt a (15 + 10 * z + 3)).toNat ∧ (byteAt a (15 + 10 * z + 3)).toNat ≤ 4 ∧
        termAt a (15 + 10 * z + 7) ≠ 0 ∧ termAt a (15 + 10 * z + 4) ≠ 0 ∧
        termAt a (15 + 10 * z + 4) ≤ termAt a (15 + 10 * z + 7)) : ZoneImageOk a :=
  ⟨h.1, h.2.1, h.2.2.1, h.2.2.2.1, h.2.2.2.2⟩
theorem far_ok : ZoneImageOk mapFar.bytes ∧ imageMap mapFar.bytes = mapFar :=
  ⟨zoneImageOk_of (by decide +kernel), by decide +kernel⟩
theorem near_ok : ZoneImageOk mapNear.bytes ∧ imageMap mapNear.bytes = mapNear :=
  ⟨zoneImageOk_of (by decide +kernel), by decide +kernel⟩

theorem witness_ZoneSetAndFreezeCommitTheMap :
    (∃ s s1 f, State.between s ∧ s.takenTo (.zoneSet f) f s1 ∧ zoneWord.holds s1 map ∧
      ¬ ZoneImageOk f.args) ∧
    (∃ s s1 f old, State.between s ∧ s.takenTo (.zoneSet f) f s1 ∧ zoneWord.holds s1 old ∧
      (ZoneImageOk f.args ∧ imageMap f.args = mapFar) ∧ old.frozen = true) ∧
    (∃ s s1 f, State.between s ∧ s.takenTo (.zoneSet f) f s1 ∧ zoneWord.holds s1 map ∧
      (ZoneImageOk f.args ∧ imageMap f.args = mapNear) ∧ map.frozen = false ∧
      ∃ e ∈ s1.main.index, mapNear.classify (BitVec.ofNat 32 e.1) ≠ map.classify (BitVec.ofNat 32 e.1)) ∧
    (∃ s s1 f, State.between s ∧ s.takenTo (.zoneSet f) f s1 ∧ zoneWord.holds s1 map ∧
      (ZoneImageOk f.args ∧ imageMap f.args = mapFar) ∧ map.frozen = false ∧
      ∀ e ∈ s1.main.index, mapFar.classify (BitVec.ofNat 32 e.1) = map.classify (BitVec.ofNat 32 e.1)) ∧
    (∃ m : ZoneMap, (m.b2.on = true → m.b1.on = true ∧ m.b1.key < m.b2.key) ∧
      (m.b3.on = true → m.b2.on = true ∧ m.b2.key < m.b3.key) ∧ m.b3.on = true) ∧
    (∃ s s1 f m, State.between s ∧ s.takenTo (.zoneFreeze f) f s1 ∧ zoneWord.holds s1 m ∧
      m.frozen = true) ∧
    ∃ s s1 f m, State.between s ∧ s.takenTo (.zoneFreeze f) f s1 ∧ zoneWord.holds s1 m ∧ m.frozen = false :=
  ⟨⟨offering (.zoneSet (bySup (List.replicate 55 2))) busy,
      taken (.zoneSet (bySup (List.replicate 55 2))) (bySup (List.replicate 55 2)) none busy,
      bySup (List.replicate 55 2), between_offering busy_between _, takenTo_of (by decide +kernel),
      by decide +kernel, fun h => absurd (h.enables 0 (by decide)) (by decide +kernel)⟩,
    ⟨offering (.zoneSet (bySup mapFar.bytes)) frozen,
      taken (.zoneSet (bySup mapFar.bytes)) (bySup mapFar.bytes) none frozen, bySup mapFar.bytes,
      { map with frozen := true }, between_offering frozen_between _, takenTo_of (by decide +kernel),
      by decide +kernel, far_ok, rfl⟩,
    ⟨offering (.zoneSet (bySup mapNear.bytes)) busy,
      taken (.zoneSet (bySup mapNear.bytes)) (bySup mapNear.bytes) none busy, bySup mapNear.bytes,
      between_offering busy_between _, takenTo_of (by decide +kernel), by decide +kernel, near_ok, rfl,
      by decide +kernel⟩,
    ⟨offering (.zoneSet (bySup mapFar.bytes)) busy,
      taken (.zoneSet (bySup mapFar.bytes)) (bySup mapFar.bytes) none busy, bySup mapFar.bytes,
      between_offering busy_between _, takenTo_of (by decide +kernel), by decide +kernel, far_ok, rfl,
      by decide +kernel⟩,
    ⟨{ map with b1 := { on := true, key := 1 }, b2 := { on := true, key := 2 }, b3 := { on := true, key := 3 } },
      by decide +kernel⟩,
    ⟨offering (.zoneFreeze (bySup [])) frozen, taken (.zoneFreeze (bySup [])) (bySup []) none frozen,
      bySup [], { map with frozen := true }, between_offering frozen_between _,
      takenTo_of (by decide +kernel), by decide +kernel⟩,
    ⟨offering (.zoneFreeze (bySup [])) busy, taken (.zoneFreeze (bySup [])) (bySup []) none busy,
      bySup [], map, between_offering busy_between _, takenTo_of (by decide +kernel), by decide +kernel⟩⟩

theorem witness_ZoneReadAnswersTheMap :
    (∃ s s1 f, State.takenTo s (.zoneRead f) f s1 ∧ zoneWord.holds s1 map) ∧
    ∃ (s : State) (f : Frame), s.offers (.zoneRead f) f.port ∧ s.inFault :=
  ⟨⟨offering (.zoneRead (byNone [])) busy, taken (.zoneRead (byNone [])) (byNone []) none busy, byNone [],
      takenTo_of (by decide +kernel), by decide +kernel⟩,
    ⟨failed (offering (.zoneRead (byNone [])) busy), byNone [], by decide +kernel⟩⟩

theorem witness_ForceReleaseRevokesTheGrant :
    (∃ s s1 f, State.between s ∧ s.takenTo (.forceRelease f) f s1 ∧ keyAt f.args 0 = 7 ∧
      tokenAt f.args 4 = 41 ∧ s1.atRest 7 2 ∧
      (s1.recordOf 2).grantWith 41 = some (grant 1 .shared 41 2100) ∧
      ((s1.recordOf 2).without 41).noHandoff (s1.waitersOf 2) ∧
      ((s1.recordOf 2).without 41).persist = .pinned) ∧
    ∃ s s1 f, State.between s ∧ s.takenTo (.forceRelease f) f s1 ∧ keyAt f.args 0 = 8 ∧
      tokenAt f.args 4 = 42 ∧ s1.atRest 8 3 ∧
      (s1.recordOf 3).grantWith 42 = some (grant 0 .exclusive 42 2200) ∧
      ((s1.recordOf 3).without 42).noHandoff (s1.waitersOf 3) ∧
      ((s1.recordOf 3).without 42).retires (s1.queueOf 3) :=
  ⟨⟨offering (.forceRelease (bySup (tokenFrame 7 41))) busy,
      taken (.forceRelease (bySup (tokenFrame 7 41))) (bySup (tokenFrame 7 41)) none busy,
      bySup (tokenFrame 7 41), between_offering busy_between _, takenTo_of (by decide +kernel),
      by decide +kernel, by decide +kernel, atRest_of (by decide +kernel), by decide +kernel,
      noHandoff_nil (by decide +kernel), by decide +kernel⟩,
    ⟨offering (.forceRelease (bySup (tokenFrame 8 42))) busy,
      taken (.forceRelease (bySup (tokenFrame 8 42))) (bySup (tokenFrame 8 42)) none busy,
      bySup (tokenFrame 8 42), between_offering busy_between _, takenTo_of (by decide +kernel),
      by decide +kernel, by decide +kernel, atRest_of (by decide +kernel), by decide +kernel,
      noHandoff_nil (by decide +kernel), ⟨by decide +kernel, by decide +kernel, by decide +kernel⟩⟩⟩

theorem witness_WipeFreesEverything : ∃ s s1 f fl, State.between s ∧ s.takenTo (.wipe f) f s1 ∧
    ¬ s.inFault ∧ flagsWord.holds s1 fl :=
  ⟨offering (.wipe (bySup [])) busy, taken (.wipe (bySup [])) (bySup []) none busy, bySup [],
    { fresh := false, wiping := false }, between_offering busy_between _, takenTo_of (by decide +kernel),
    by decide +kernel⟩

/-- STORE_FAULT mode after a failed replay, with the zone map and the store flags lost in both copies. -/
def wrecked : State :=
  let s := busy.setStore { busy.store with
    zone := { c1 := { val := map, ecc := sevenGood.set 0 .double }, c2 := { val := map, ecc := sevenGood.set 6 .double } }
    flags := { c1 := { val := { fresh := false, wiping := false }, ecc := [.double] },
               c2 := { val := { fresh := false, wiping := false }, ecc := [.double] } } }
  s.setMon { s.main.mon with fault := true, lost := lostBit 16 ||| lostBit 19, replayFailed := true }
theorem wrecked_between : wrecked.between := between_of (by decide +kernel)

theorem witness_WipeFreesEverything_fault : ∃ s s1 f, State.between s ∧ s.takenTo (.wipe f) f s1 ∧ s.inFault ∧
    zoneWord.holdsOrLost s1 none ∧ tokenWord.holdsOrLost s1 (some 50) ∧ nonceWord.holdsOrLost s1 (some 20) ∧
    flagsWord.holdsOrLost s1 none ∧ s.main.mon.replayFailed = true :=
  ⟨offering (.wipe (bySup [])) wrecked, taken (.wipe (bySup [])) (bySup []) none wrecked, bySup [],
    between_offering wrecked_between _, takenTo_of (by decide +kernel), by decide +kernel,
    ⟨by decide +kernel, by decide +kernel⟩,
    (by decide +kernel : tokenWord.holds (taken (.wipe (bySup [])) (bySup []) none wrecked) 50),
    (by decide +kernel : nonceWord.holds (taken (.wipe (bySup [])) (bySup []) none wrecked) 20),
    ⟨by decide +kernel, by decide +kernel⟩, by decide +kernel⟩

/-! ### The audit and the store -/

def auditFrame (low high : Key) : Frame := bySup (keyBytes low ++ keyBytes high)

theorem witness_AuditStartBeginsTheWalk :
    (∃ (s : State) (f : Frame), s.offers (.auditStart f) f.port ∧ s.main.supPort ≠ some f.port) ∧
    (∃ (s : State) (f : Frame), s.offers (.auditStart f) f.port ∧ s.main.supPort = some f.port ∧
      s.inFault) ∧
    (∃ s s1 f, State.takenTo s (.auditStart f) f s1 ∧ s.offers (.auditStart f) f.port ∧
      keyAt f.args 0 = 1 ∧ keyAt f.args 4 = 0xFFFFFFFF) ∧
    (∃ s s1 f, State.takenTo s (.auditStart f) f s1 ∧ s.offers (.auditStart f) f.port ∧
      keyAt f.args 0 = 1 ∧ keyAt f.args 4 = 1 ∧ s.main.audit.state = .running) ∧
    (∃ s s1 f, State.takenTo s (.auditStart f) f s1 ∧ s.offers (.auditStart f) f.port ∧
      keyAt f.args 0 = 2 ∧ keyAt f.args 4 = 1 ∧ s.main.audit.state = .idle) ∧
    ∃ s s1 f, State.takenTo s (.auditStart f) f s1 ∧ s.offers (.auditStart f) f.port ∧
      keyAt f.args 0 = 1 ∧ keyAt f.args 4 = 1 ∧ s.main.audit.state = .idle :=
  ⟨⟨offering (.auditStart (byNone [])) busy, byNone [], by decide +kernel⟩,
    ⟨failed (offering (.auditStart (bySup [])) busy), bySup [], by decide +kernel⟩,
    ⟨offering (.auditStart (auditFrame 1 0xFFFFFFFF)) ready, _, auditFrame 1 0xFFFFFFFF,
      takenTo_of (o := none) (by decide +kernel), by decide +kernel⟩,
    ⟨offering (.auditStart (auditFrame 1 1)) busy, _, auditFrame 1 1,
      takenTo_of (o := none) (by decide +kernel), by decide +kernel⟩,
    ⟨offering (.auditStart (auditFrame 2 1)) ready, _, auditFrame 2 1,
      takenTo_of (o := none) (by decide +kernel), by decide +kernel⟩,
    ⟨offering (.auditStart (auditFrame 1 1)) ready, _, auditFrame 1 1,
      takenTo_of (o := none) (by decide +kernel), by decide +kernel⟩⟩

/-- `busy` with its audit SUSPENDED. -/
def stopped : State := busy.setAudit { busy.main.audit with state := .suspended, stepPending := false }

theorem witness_AuditSuspendResumeRead :
    (∃ s s1 f, State.takenTo s (.auditSuspend f) f s1 ∧ s1.main.audit.state = .running) ∧
    (∃ s s1 f, State.takenTo s (.auditSuspend f) f s1 ∧ s1.main.audit.state ≠ .running) ∧
    (∃ s s1 f, State.takenTo s (.auditResume f) f s1 ∧ s1.main.audit.state = .suspended) ∧
    (∃ s s1 f, State.takenTo s (.auditResume f) f s1 ∧ s1.main.audit.state ≠ .suspended) ∧
    ∃ s s1 f, State.takenTo s (.auditRead f) f s1 :=
  ⟨⟨offering (.auditSuspend (bySup [])) busy, taken (.auditSuspend (bySup [])) (bySup []) none busy,
      bySup [], takenTo_of (by decide +kernel), by decide +kernel⟩,
    ⟨offering (.auditSuspend (bySup [])) stopped, taken (.auditSuspend (bySup [])) (bySup []) none stopped,
      bySup [], takenTo_of (by decide +kernel), by decide +kernel⟩,
    ⟨offering (.auditResume (bySup [])) stopped, taken (.auditResume (bySup [])) (bySup []) none stopped,
      bySup [], takenTo_of (by decide +kernel), by decide +kernel⟩,
    ⟨offering (.auditResume (bySup [])) busy, taken (.auditResume (bySup [])) (bySup []) none busy,
      bySup [], takenTo_of (by decide +kernel), by decide +kernel⟩,
    ⟨offering (.auditRead (byNone [])) busy, _, byNone [], takenTo_of (o := none) (by decide +kernel)⟩⟩

/-- `busy` with counts and a trap. -/
def trapped : State :=
  busy.setMon { busy.main.mon with
    corrected := 2, uncorrected := 1
    trap := some { area := .record, index := 5, word := 1, copy := 0, kind := .double } }
def flags0 : StoreFlags := { fresh := false, wiping := false }

theorem witness_StoreReports_lost : ∃ s s1 f, State.takenTo s (.storeStatus f) f s1 ∧
    flagsWord.holds s1 flags0 ∧ s1.main.mon.fault = true ∧ s1.main.mon.lost.getLsbD 19 = true :=
  ⟨offering (.storeStatus (byNone [])) (busy.enterFault (lostBit 19)),
    taken (.storeStatus (byNone [])) (byNone []) none (busy.enterFault (lostBit 19)), byNone [],
    takenTo_of (by decide +kernel), by decide +kernel⟩

theorem witness_StoreReports :
    (∃ s s1 f, State.takenTo s (.storeStatus f) f s1 ∧ flagsWord.holds s1 flags0 ∧
      s1.main.mon.trap = none) ∧
    (∃ s s1 f x, State.takenTo s (.storeStatus f) f s1 ∧ flagsWord.holds s1 flags0 ∧
      s1.main.mon.trap = some x) ∧
    (∃ s s1 f, State.takenTo s (.quarantineList f) f s1 ∧ field f.args 0 2 = 1024) ∧
    ∃ s s1 f, State.takenTo s (.quarantineList f) f s1 ∧ field f.args 0 2 = 1023 :=
  ⟨⟨offering (.storeStatus (byNone [])) busy, taken (.storeStatus (byNone [])) (byNone []) none busy,
      byNone [], takenTo_of (by decide +kernel), by decide +kernel⟩,
    ⟨offering (.storeStatus (byNone [])) trapped, taken (.storeStatus (byNone [])) (byNone []) none trapped,
      byNone [], _, takenTo_of (by decide +kernel), by decide +kernel, rfl⟩,
    ⟨offering (.quarantineList (byNone (beBytes 2 1024))) busy, _, byNone (beBytes 2 1024),
      takenTo_of (o := none) (by decide +kernel), by decide +kernel⟩,
    ⟨offering (.quarantineList (byNone (beBytes 2 1023))) busy, _, byNone (beBytes 2 1023),
      takenTo_of (o := none) (by decide +kernel), by decide +kernel⟩⟩

/-- `trapped` with the fresh-start flag set. -/
def fresh : State :=
  trapped.setStore { trapped.store with flags := Copies.two { fresh := true, wiping := false } }
theorem trapped_between : trapped.between := between_of (by decide +kernel)
theorem fresh_between : fresh.between := between_of (by decide +kernel)

theorem witness_StoreClearAndScrubControl :
    (∃ s s1 f, State.between s ∧ s.takenTo (.storeClear f) f s1 ∧ flagsWord.holds s1 flags0 ∧
      flags0.fresh = false) ∧
    (∃ s s1 f fl, State.between s ∧ s.takenTo (.storeClear f) f s1 ∧ flagsWord.holds s1 fl ∧
      fl.fresh = true) ∧
    ∃ s s1 f, State.takenTo s (.scrubControl f) f s1 :=
  ⟨⟨offering (.storeClear (bySup [])) trapped, taken (.storeClear (bySup [])) (bySup []) none trapped,
      bySup [], between_offering trapped_between _, takenTo_of (by decide +kernel), by decide +kernel⟩,
    ⟨offering (.storeClear (bySup [])) fresh, taken (.storeClear (bySup [])) (bySup []) none fresh,
      bySup [], { fresh := true, wiping := false }, between_offering fresh_between _,
      takenTo_of (by decide +kernel), by decide +kernel⟩,
    ⟨offering (.scrubControl (bySup [255])) busy, _, bySup [255],
      takenTo_of (o := none) (by decide +kernel)⟩⟩

def slotFrame (n : Nat) : Frame := bySup (beBytes 2 n)
/-- `busy` with slot 1023 quarantined without a key. -/
def keyless : State := (busy.commitIdent 1023 IdWord.lost).listQuarantined 1023 none false
theorem keyless_between : keyless.between := between_of (by decide +kernel)

theorem witness_ReclaimFreesTheSlot :
    (∃ (s : State) (f : Frame), s.between ∧ s.offers (.reclaim f) f.port ∧
      s.main.supPort ≠ some f.port) ∧
    (∃ (s : State) (f : Frame), s.between ∧ s.offers (.reclaim f) f.port ∧
      s.main.supPort = some f.port ∧ s.inFault) ∧
    (∃ s s1 f, State.between s ∧ s.offers (.reclaim f) f.port ∧ s.takenTo (.reclaim f) f s1 ∧
      field f.args 0 2 = 1024) ∧
    (∃ s s1 f, State.between s ∧ s.offers (.reclaim f) f.port ∧ s.takenTo (.reclaim f) f s1 ∧
      field f.args 0 2 = 4 ∧ Tab.find? s1.main.quar 4 = none) ∧
    (∃ s s1 f, State.between s ∧ s.offers (.reclaim f) f.port ∧ s.takenTo (.reclaim f) f s1 ∧
      field f.args 0 2 = 5 ∧ Tab.find? s1.main.quar 5 = some (some 10) ∧
      ∀ j, j < 5 → s1.isFree j = false) ∧
    ∃ s s1 f, State.between s ∧ s.offers (.reclaim f) f.port ∧ s.takenTo (.reclaim f) f s1 ∧
      field f.args 0 2 = 1023 ∧ Tab.find? s1.main.quar 1023 = some none :=
  ⟨⟨offering (.reclaim (byNone [0, 5])) busy, byNone [0, 5], between_offering busy_between _,
      by decide +kernel⟩,
    ⟨failed (offering (.reclaim (slotFrame 5)) busy), slotFrame 5,
      between_of (by decide +kernel), by decide +kernel⟩,
    ⟨offering (.reclaim (slotFrame 1024)) busy, _, slotFrame 1024, between_offering busy_between _,
      by decide +kernel, takenTo_of (o := none) (by decide +kernel), by decide +kernel⟩,
    ⟨offering (.reclaim (slotFrame 4)) busy, taken (.reclaim (slotFrame 4)) (slotFrame 4) none busy,
      slotFrame 4, between_offering busy_between _, by decide +kernel, takenTo_of (by decide +kernel),
      by decide +kernel⟩,
    ⟨offering (.reclaim (slotFrame 5)) busy, taken (.reclaim (slotFrame 5)) (slotFrame 5) none busy,
      slotFrame 5, between_offering busy_between _, by decide +kernel, takenTo_of (by decide +kernel),
      by decide +kernel⟩,
    ⟨offering (.reclaim (slotFrame 1023)) keyless,
      taken (.reclaim (slotFrame 1023)) (slotFrame 1023) none keyless, slotFrame 1023,
      between_offering keyless_between _, by decide +kernel, takenTo_of (by decide +kernel),
      by decide +kernel⟩⟩

/-! ### Events and internal requests -/

/-- A part some ticks later. -/
def later (ticks : Nat) (s : State) : State := takeAdvance (128 * ticks) s
theorem keeps_later {s : State} (ticks : Nat) (h : s.between) : (later ticks s).between := by
  unfold later takeAdvance
  split
  · exact h
  · dsimp only
    split
    · split <;> exact ⟨h.1, h.2, h.3⟩
    · exact ⟨h.1, h.2, h.3⟩

/-- `busy` at the expiry of key 6's grant, and at that of key 8's grant with the entries before it gone. -/
def expiring : State := later 1000 busy
def ending : State := later 1200 ((busy.schedRemove (.grant 1 40)).schedRemove (.grant 2 41))
theorem expiring_between : expiring.between := keeps_later _ busy_between
theorem ending_between : ending.between :=
  keeps_later _ ⟨busy_between.1, busy_between.2, busy_between.3⟩

theorem witness_GrantExpiryEventExpires :
    (∃ s : State, s.between ∧ s.nextDirectoryEvent =
      some { kind := .grantExpiry, ref := .grant 5 40, deadline := 2000, due := true } ∧
      Tab.find? s.main.quar 5 ≠ none) ∧
    (∃ s : State, s.between ∧ s.nextDirectoryEvent =
      some { kind := .grantExpiry, ref := .grant 1 39, deadline := 1500, due := true } ∧
      s.isFree 1 = false ∧ Tab.find? s.main.quar 1 = none ∧ (s.store.slot 1).ecc = tenGood ∧
      (s.recordOf 1).grantWith 39 = none) ∧
    (∃ s : State, s.between ∧ s.nextDirectoryEvent =
      some { kind := .grantExpiry, ref := .grant 1 40, deadline := 2000, due := true } ∧
      s.isFree 1 = false ∧ Tab.find? s.main.quar 1 = none ∧ (s.store.slot 1).ecc = tenGood ∧
      (s.recordOf 1).grants.filter (Grant.due s.now) = [grant 0 .exclusive 40 2000] ∧
      (s.recordOf 1).grantWith 40 = some (grant 0 .exclusive 40 2000) ∧
      (∀ x ∈ (s.recordOf 1).grants, x.token = 40 → x = grant 0 .exclusive 40 2000) ∧ s.queueOf 1 = [] ∧
      ((s.recordOf 1).without 40).persist = .pinned) ∧
    ∃ s : State, s.between ∧ s.nextDirectoryEvent =
      some { kind := .grantExpiry, ref := .grant 3 42, deadline := 2200, due := true } ∧
      s.isFree 3 = false ∧ Tab.find? s.main.quar 3 = none ∧ (s.store.slot 3).ecc = tenGood ∧
      (s.recordOf 3).grants.filter (Grant.due s.now) = [grant 0 .exclusive 42 2200] ∧
      (s.recordOf 3).grantWith 42 = some (grant 0 .exclusive 42 2200) ∧
      (∀ x ∈ (s.recordOf 3).grants, x.token = 42 → x = grant 0 .exclusive 42 2200) ∧ s.queueOf 3 = [] ∧
      ((s.recordOf 3).without 42).persist = .transient ∧ ((s.recordOf 3).without 42).grants = [] :=
  ⟨⟨later 1000 ((busy.schedRemove (.grant 1 40)).schedInsert .grantExpiry (.grant 5 40) 2000),
      keeps_later _ ⟨busy_between.1, busy_between.2, busy_between.3⟩, by decide +kernel⟩,
    ⟨later 1000 (busy.schedInsert .grantExpiry (.grant 1 39) 1500),
      keeps_later _ ⟨busy_between.1, busy_between.2, busy_between.3⟩, by decide +kernel⟩,
    ⟨expiring, expiring_between, by decide +kernel⟩, ⟨ending, ending_between, by decide +kernel⟩⟩

/-- `busy` at the deadline of its waiter, with key 9's grant running on and the other grants' entries gone. -/
def overdue : State :=
  later 2000 (busy |> hold 4 (record 9 [grant 0 .exclusive 43 9000]) |> timed 4 (grant 0 .exclusive 43 9000)
    |> (State.schedRemove · (.grant 1 40)) |> (State.schedRemove · (.grant 2 41))
    |> (State.schedRemove · (.grant 3 42)))
theorem overdue_between : overdue.between := between_of (by decide +kernel)

theorem witness_CancelledAndTimedOutWaitersLeave_deadline :
    (∃ s : State, s.between ∧ s.nextDirectoryEvent =
      some { kind := .waitDeadline, ref := .waiter 7, deadline := 1500, due := true } ∧
      s.waiter 7 = none) ∧
    ∃ s : State, s.between ∧ s.nextDirectoryEvent =
      some { kind := .waitDeadline, ref := .waiter 0, deadline := 3000, due := true } ∧
      s.waiter 0 = some waiter0 ∧ (s.store.slot 4).ecc = tenGood ∧
      (s.waitersOf 4).map Prod.fst = s.queueOf 4 ∧ (s.recordOf 4).state ≠ .vacant ∧
      (s.recordOf 4).grants.filter (Grant.due s.now) = [] ∧
      (s.waitersOf 4).filter (fun p => p.2.due s.now) = [(0, waiter0)] ∧
      ((s.waitersOf 4).filter fun p => p.1 != 0) = [] ∧
      (s.waitersOf 4).countP (fun p => p.1 == 0) = 1 ∧ (sessionWord 1).holds s e1 ∧ e1.state = .opened ∧
      (s.vol 1).waitCount ≤ 1 ∧ e1.waitsHeld = true :=
  ⟨⟨later 600 (busy.schedInsert .waitDeadline (.waiter 7) 1500),
      keeps_later _ ⟨busy_between.1, busy_between.2, busy_between.3⟩, by decide +kernel⟩,
    ⟨overdue, overdue_between, by decide +kernel⟩⟩

/-- `ready` at the end of session 0's heartbeat, and with session 0 SUSPECT at the end of its grace. -/
def silent : State := later 40 ready
def graced : State :=
  later 40 (session 0 { e0 with state := .suspect } ((ready.schedRemove (.session 0)).schedInsert .grace
    (.session 0) 1040))

theorem witness_SessionEventsRaiseLapses :
    (∃ s : State, (sessionWord 0).holds s e0 ∧ s.nextSessionEvent =
      some { kind := .heartbeat, ref := .session 0, deadline := 1040, due := true } ∧
      s.entryLost 0 = false ∧ e0.state = .opened ∧ (s.vol 0).deadline = some 1040) ∧
    (∃ s : State, (sessionWord 0).holds s e0 ∧ s.nextSessionEvent =
      some { kind := .heartbeat, ref := .session 0, deadline := 1040, due := true } ∧
      s.entryLost 0 = true) ∧
    (∃ (s : State) (e : SessEntry), (sessionWord 0).holds s e ∧ s.nextSessionEvent =
      some { kind := .grace, ref := .session 0, deadline := 1040, due := true } ∧
      s.entryLost 0 = true) ∧
    (∃ s : State, (sessionWord 0).holds s e0 ∧ s.nextSessionEvent =
      some { kind := .heartbeat, ref := .session 0, deadline := 1040, due := true } ∧
      (s.vol 0).deadline ≠ some 1040) ∧
    ∃ (s : State) (e : SessEntry), (sessionWord 0).holds s e ∧ s.nextSessionEvent =
      some { kind := .grace, ref := .session 0, deadline := 1040, due := true } ∧
      s.entryLost 0 = false ∧ e.state = .suspect ∧ (s.vol 0).deadline = some 1040 :=
  ⟨⟨silent, by decide +kernel⟩, ⟨silent.enterFault (lostBit 0), by decide +kernel⟩,
    ⟨graced.enterFault (lostBit 0), { e0 with state := .suspect }, by decide +kernel⟩,
    ⟨silent.setVol 0 { silent.vol 0 with deadline := some 1041 }, by decide +kernel⟩,
    ⟨graced, { e0 with state := .suspect }, by decide +kernel⟩⟩

/-- A waiting lapse request of session 0 (HOLD) and of session 1 (RELEASE), at their deadlines. -/
def lapsing : State := silent.requestLapse .heartbeat 0 true
def leaving : State := (later 50 ready).requestLapse .heartbeat 1 true
theorem lapsing_between : lapsing.between := between_of (by decide +kernel)
theorem leaving_between : leaving.between := between_of (by decide +kernel)

theorem witness_LapseRequestSettles :
    (∃ (s : State) (e : SessEntry), s.between ∧ s.isReady ∧ ¬ s.inFault ∧
      s.lapseWaits .heartbeat 0 = true ∧ (sessionWord 0).holds s e ∧ e.state ≠ .opened) ∧
    (∃ s : State, s.between ∧ s.isReady ∧ ¬ s.inFault ∧ s.lapseWaits .heartbeat 0 = true ∧
      (sessionWord 0).holds s e0 ∧ e0.state = .opened ∧ s.lapseDue 0 e0 = true ∧ s.settleSlots 0 = [] ∧
      e0.policy = .hold) ∧
    ∃ s : State, s.between ∧ s.isReady ∧ ¬ s.inFault ∧ s.lapseWaits .heartbeat 1 = true ∧
      (sessionWord 1).holds s e1r ∧ e1r.state = .opened ∧ s.lapseDue 1 e1r = true ∧
      s.settleSlots 1 = [] ∧ e1r.policy = .release :=
  ⟨⟨lapsed.requestLapse .heartbeat 0 true, { e0 with state := .lapsed }, between_of (by decide +kernel),
      by decide +kernel⟩,
    ⟨lapsing, lapsing_between, by decide +kernel⟩, ⟨leaving, leaving_between, by decide +kernel⟩⟩

theorem witness_ClockDrivesTheSchedule :
    busy.power.vbat = true ∧ busy.isReady ∧ (∃ s : State, s.power.vbat = true ∧ ¬ s.isActive) ∧
    (∃ s : State, s.power.vbat = true ∧ s.power.state = .restarting) ∧
    (∃ s : State, s.isReady ∧ s.main.mon.interval = 16 ∧ s.main.mon.count = 16) ∧
    ∃ s : State, s.isReady ∧ s.main.mon.count < s.main.mon.interval.toNat :=
  ⟨by decide +kernel, by decide +kernel, ⟨State.reset, by decide +kernel⟩,
    ⟨takeVddReturn 3 State.reset, by decide +kernel⟩,
    ⟨later 16 busy, by decide +kernel⟩, ⟨busy, by decide +kernel⟩⟩

/-- `busy` with a scrub step pending at a slot. -/
def scrubbing (n : Nat) : State := busy.setMon { busy.main.mon with cursor := n, stepPending := true }
theorem scrubbing_rests : rests (scrubbing 4) 9 4 = true := by decide +kernel

/-- `busy` with a session 1 frame held when its audit's next step is made pending. -/
def behind : State := (offering (.ping (by1 [])) busy).nextStep

theorem witness_BackgroundStepsPassOneSlotOrKey_waits : ∃ (s : State) (w : Waiting),
    w ∈ s.main.audit.ahead ∧ s.stillWaits w = true ∧ s.isReady ∧ s.main.audit.stepPending = true :=
  ⟨behind, .frame .b, by decide +kernel⟩

theorem witness_BackgroundStepsPassOneSlotOrKey_passed : ∃ s : State, s.atRest 9 4 ∧ s.isReady ∧
    ¬ s.inFault ∧ s.main.audit.stepPending = true ∧ s.main.audit.state = .running ∧
    s.main.audit.ahead ≠ [] ∧ (∀ w ∈ s.main.audit.ahead, s.stillWaits w = false) ∧
    s.main.audit.cursor = 9 :=
  ⟨behind.setArbiter [], atRest_of (by decide +kernel), by decide +kernel⟩

theorem witness_BackgroundStepsPassOneSlotOrKey :
    (∃ s : State, s.isReady ∧ ¬ s.inFault ∧ s.main.mon.stepPending = true ∧ s.main.mon.cursor = 1023 ∧
      s.isFree 1023 = true ∧ (s.store.slot 1023).ecc.head? = some .good) ∧
    (∃ s : State, s.isReady ∧ ¬ s.inFault ∧ s.main.mon.stepPending = true ∧ s.main.mon.cursor = 5 ∧
      s.isFree 5 = false ∧ Tab.find? s.main.quar 5 ≠ none) ∧
    (∃ s : State, (∃ k, s.atRest k 4) ∧ s.isReady ∧ ¬ s.inFault ∧ s.main.mon.stepPending = true ∧
      s.main.mon.cursor = 4 ∧ s.isFree 4 = false ∧ Tab.find? s.main.quar 4 = none) ∧
    (∃ s : State, s.isReady ∧ ¬ s.inFault ∧ s.main.audit.stepPending = true ∧
      s.main.audit.state = .running ∧ s.main.audit.cursor = 11 ∧
      ∀ e ∈ s.main.index, ¬ (s.main.audit.cursor.toNat ≤ e.1 ∧ e.1 ≤ s.main.audit.high.toNat)) ∧
    (∃ s : State, (∃ e, s.lookup 10 = some e ∧ e.quarantined = true) ∧ s.isReady ∧ ¬ s.inFault ∧
      s.main.audit.stepPending = true ∧ s.main.audit.state = .running ∧ s.main.audit.cursor = 10) ∧
    ∃ s : State, s.atRest 9 4 ∧ s.isReady ∧ ¬ s.inFault ∧ s.main.audit.stepPending = true ∧
      s.main.audit.state = .running ∧ s.main.audit.cursor = 9 :=
  ⟨⟨scrubbing 1023, by decide +kernel⟩, ⟨scrubbing 5, by decide +kernel⟩,
    ⟨scrubbing 4, ⟨9, atRest_of scrubbing_rests⟩, by decide +kernel⟩,
    ⟨busy.setAudit { busy.main.audit with cursor := 11 }, by decide +kernel⟩,
    ⟨busy.setAudit { busy.main.audit with cursor := 10 }, ⟨_, rfl, by decide +kernel⟩, by decide +kernel⟩,
    ⟨busy, atRest_of (by decide +kernel), by decide +kernel⟩⟩

/-! ### Power -/

theorem witness_PowerStateFollowsTheSupplies :
    (∃ s : State, s.power.vbat = false ∧ s.power.vdd = false) ∧
    (∃ s : State, s.power.vbat = false ∧ s.power.vdd = true) ∧
    (busy.power.vbat = true ∧ busy.power.vdd = true ∧ busy.power.resetN = true ∧ busy.isActive) ∧
    State.reset.power.vdd = false ∧ State.reset.power.vbat = true :=
  ⟨⟨takeVbatLoss State.reset, by decide +kernel⟩, ⟨takeVbatLoss busy, by decide +kernel⟩,
    by decide +kernel, by decide +kernel⟩

/-- A part after a retained POR whose sweep may start, with session 0 OPEN and a waits-held mark. -/
def restarting : State :=
  session 0 { e0 with waitsHeld := true } (takeVddReturn 3 State.reset)
def entries : Nat → SessEntry
  | 0 => { e0 with waitsHeld := true }
  | _ + 1 => SessEntry.free

theorem witness_SweepSuspendsTheSessions : ∃ (s : State) (se : Nat → SessEntry), s.between ∧
    (∀ n, n < 1024 → (s.store.slot n).val.ident.inUse = false ∧
      (s.store.slot n).ecc.head? = some .good) ∧
    s.power.state = .restarting ∧ s.power.resetN = true ∧ s.main =
      { Main.atReset true 3 with ports := s.main.ports, arbiter := s.main.arbiter } ∧
    s.main.arbiter = [.b] ∧
    (∀ c, c < 16 → (sessionWord c).holds s (se c) ∧ (se c).state ≠ .settling) ∧
    zoneWord.holds s ZoneMap.por ∧ tokenWord.holds s 1 ∧ nonceWord.holds s 1 ∧
    flagsWord.holds s { fresh := true, wiping := false } ∧ s.store.intent.marker = Copies.two false :=
  ⟨offering (.ping (by1 [])) restarting, entries, between_of (by decide +kernel), fun _ _ => ⟨rfl, rfl⟩,
    by decide +kernel⟩

/-- A part whose sweep may start, with key 6 in slot 1 and session 0 in an entry. -/
def restored (g : Grant) (e : SessEntry) : State :=
  (takeVddReturn 3 State.reset).setStore
    ((State.reset.store.setSlot 1 (good (record 6 [g]))).setSession 0 (Copies.two e))
def entry0 (e : SessEntry) : Nat → SessEntry
  | 0 => e
  | _ + 1 => SessEntry.free

theorem witness_SweepRestoresTheRecords : ∃ (s : State) (se : Nat → SessEntry) (key : Nat → Key), s.between ∧
    s.sweeps ∧ (∀ a b, a < 1024 → b < 1024 → (s.store.slot a).val.ident.inUse = true →
      (s.store.slot b).val.ident.inUse = true → key a = key b → a = b) ∧
    (∀ c, c < 16 → (sessionWord c).holds s (se c) ∧
      ((se c).state = .settling → (se c).action ≠ .none)) ∧
    zoneWord.holds s ZoneMap.por ∧ tokenWord.holds s 1 ∧ nonceWord.holds s 1 ∧
    flagsWord.holds s { fresh := true, wiping := false } ∧ s.store.intent.marker = Copies.two false ∧
    (∀ n, n < 1024 →
      ((s.store.slot n).val.ident.inUse = false ∧ (s.store.slot n).ecc.head? = some .good) ∨
      ((s.store.slot n).val.ident.holdsRecord = true ∧ (s.store.slot n).ecc = tenGood ∧
        (s.store.slot n).val.ident.key = some (key n) ∧
        (s.recordOf n).state = summaryOf (s.recordOf n).grants ∧
        ((s.recordOf n).grants.map Grant.token).Nodup)) ∧
    (se 0).state = .settling ∧ (s.recordOf 1).grants ≠ [] :=
  have only : ∀ n, n < 1024 → (((restored (grant 0 .exclusive 40 2000)
      { e0 with state := .settling, action := .orphan }).store.slot n).val.ident.inUse = true → n = 1) := by
    decide +kernel
  ⟨restored (grant 0 .exclusive 40 2000) { e0 with state := .settling, action := .orphan },
    entry0 { e0 with state := .settling, action := .orphan }, fun _ => 6, between_of (by decide +kernel),
    ⟨by decide +kernel, by decide +kernel, true, 3, by decide +kernel⟩,
    fun a b ha hb ua ub _ => (only a ha ua).trans (only b hb ub).symm, by decide +kernel⟩

/-- The same part with the WIPING flag set and the entry of session 3 lost in both copies. -/
def halfWiped : State :=
  let s := restored (grant 0 .exclusive 40 2000) e0
  s.setStore { s.store.setSession 3 { c1 := { val := e1, ecc := [.double] }, c2 := { val := e1, ecc := [.double] } } with
    flags := Copies.two { fresh := true, wiping := true } }
def entriesLost (c : Nat) : Option SessEntry :=
  if c = 0 then some e0 else if c = 3 then none else some SessEntry.free

theorem entriesLost_hold {s : State} (h0 : (sessionWord 0).holds s e0)
    (h3 : (sessionWord 3).holdsOrLost s none)
    (hc : ∀ c, c < 16 → c ≠ 0 → c ≠ 3 → (sessionWord c).holds s SessEntry.free) :
    ∀ c, c < 16 → (sessionWord c).holdsOrLost s (entriesLost c) := by
  intro c h
  unfold entriesLost
  split
  · rename_i hq; subst hq; exact h0
  · split
    · rename_i hq; subst hq; exact h3
    · rename_i hx hy; exact hc c h hx hy

theorem witness_SweepRestoresTheRecords_wiping : ∃ (s : State) (se : Nat → Option SessEntry), s.between ∧ s.sweeps ∧
    (∀ c, c < 16 → (sessionWord c).holdsOrLost s (se c)) ∧ zoneWord.holds s ZoneMap.por ∧
    tokenWord.holds s 1 ∧ nonceWord.holds s 1 ∧ flagsWord.holds s { fresh := true, wiping := true } ∧
    s.store.intent.marker = Copies.two false ∧ se 3 = none ∧ (s.recordOf 1).grants ≠ [] :=
  ⟨halfWiped, entriesLost, between_of (by decide +kernel),
    ⟨by decide +kernel, by decide +kernel, true, 3, by decide +kernel⟩,
    entriesLost_hold (by decide +kernel) ⟨by decide +kernel, by decide +kernel⟩ (by decide +kernel),
    by decide +kernel⟩

/-- The same part with the zone map and session 3's entry lost, word 0 of slot 2 uncorrectable, and slots 4 and 5
quarantined with and without a key. -/
def faulted : State :=
  let s := restored (grant 0 .exclusive 40 2000) e0
  let st := (((s.store.setSlot 2 { good (record 7 []) with ecc := tenGood.set 0 .double }).setSlot 4
    (good { record 10 [] with state := .quarantined })).setSlot 5
    { val := { SlotImg.blank with ident := IdWord.lost }, ecc := tenGood }).setSession 3
      { c1 := { val := e1, ecc := [.double] }, c2 := { val := e1, ecc := [.double] } }
  s.setStore { st with
    zone := { c1 := { val := map, ecc := sevenGood.set 0 .double }, c2 := { val := map, ecc := sevenGood.set 6 .double } } }

theorem witness_SweepInStoreFaultMode : ∃ (s : State) (se : Nat → Option SessEntry), s.between ∧ s.sweeps ∧
    (∀ c, c < 16 → (sessionWord c).holdsOrLost s (se c)) ∧ zoneWord.holdsOrLost s none ∧
    tokenWord.holdsOrLost s (some 1) ∧ nonceWord.holdsOrLost s (some 1) ∧
    flagsWord.holdsOrLost s (some { fresh := true, wiping := false }) ∧
    s.store.intent.marker = Copies.two false ∧
    (∀ a b k, a < 1024 → b < 1024 → (s.store.slot a).val.ident.inUse = true →
      (s.store.slot b).val.ident.inUse = true → (s.store.slot a).ecc.head? ≠ some .double →
      (s.store.slot b).ecc.head? ≠ some .double → (s.store.slot a).val.ident.key = some k →
      (s.store.slot b).val.ident.key = some k → a = b) ∧
    se 3 = none ∧ (s.store.slot 2).ecc.head? = some .double ∧
    (s.store.slot 1).val.ident.state = .heldExclusive ∧ (s.store.slot 4).val.ident.key = some 10 ∧
    (s.store.slot 4).val.ident.state = .quarantined ∧ (s.store.slot 5).val.ident.inUse = true ∧
    (s.store.slot 5).val.ident.key = none :=
  have only : ∀ n, n < 1024 → (faulted.store.slot n).val.ident.inUse = true →
      (faulted.store.slot n).ecc.head? ≠ some .double → n = 1 ∨ n = 4 ∨ n = 5 := by decide +kernel
  ⟨faulted, entriesLost, between_of (by decide +kernel),
    ⟨by decide +kernel, by decide +kernel, true, 3, by decide +kernel⟩,
    entriesLost_hold (by decide +kernel) ⟨by decide +kernel, by decide +kernel⟩ (by decide +kernel),
    ⟨by decide +kernel, by decide +kernel⟩, (by decide +kernel : tokenWord.holds faulted 1),
    (by decide +kernel : nonceWord.holds faulted 1),
    (by decide +kernel : flagsWord.holds faulted { fresh := true, wiping := false }), by decide +kernel,
    fun a b k ha hb ua ub da db ka kb => by
      have k1 : (faulted.store.slot 1).val.ident.key = some 6 := by decide +kernel
      have k4 : (faulted.store.slot 4).val.ident.key = some 10 := by decide +kernel
      have k5 : (faulted.store.slot 5).val.ident.key = none := by decide +kernel
      rcases only a ha ua da with rfl | rfl | rfl <;> rcases only b hb ub db with rfl | rfl | rfl <;>
        simp_all,
    rfl, by decide +kernel⟩

/-! ### Records in hand, the commit and the schedule -/

theorem witness_CommitIsAtomicUnderPowerLoss_acquire : ∃ s s1 f, State.between s ∧ s.takenTo (.acquire f) f s1 ∧
    keyAt f.args 0 = 5 ∧ modeOf (byteAt f.args 4) = some .exclusive ∧ s1.atRest 5 0 ∧
    (s1.recordOf 0).holding ∧ (s1.recordOf 0).grantOf f.client.toNat = none ∧
    (s1.recordOf 0).admissible f.client.toNat .exclusive ∧ s1.queueOf 0 = [] ∧
    (s1.recordOf 0).termFor (termAt f.args 5) ≤ (s1.recordOf 0).maxTerm ∧ tokenWord.holds s1 50 ∧
    s.power.vdd = true :=
  ⟨offering (.acquire (acq0 5 0 0 0)) busy, taken (.acquire (acq0 5 0 0 0)) (acq0 5 0 0 0) (some e0) busy,
    acq0 5 0 0 0, between_offering busy_between _, takenTo_of (by decide +kernel), by decide +kernel,
    by decide +kernel, atRest_of (by decide +kernel), holding_of (by decide +kernel), by decide +kernel,
    admits_free (by decide +kernel), by decide +kernel, by decide +kernel, by decide +kernel,
    by decide +kernel⟩

theorem witness_CommitIsAtomicUnderPowerLoss : ∃ (s : State) (c : Commit), s.canonical ∧
    s.cut = some 30 ∧ s.store.intent.marker = Copies.two false ∧ c.images.length ≤ 4 ∧
    c.writes.length = 35 :=
  ⟨busy.setCut (some 30), { images := [.slot 0 true (record 5 []).image], token := some 51 },
    busy_between.1, rfl, by decide +kernel, by decide +kernel, by decide +kernel⟩

/-- Key 9's record in hand. -/
def bench9 : Bench := busy.bench 4 none
theorem bench9_holding : bench9.body.holding := holding_of (by decide +kernel)

theorem witness_HoldingRulesKept : ∃ b : Bench, b.body.holding ∧ b.body.grants ≠ [] ∧ b.queue ≠ [] :=
  ⟨bench9, bench9_holding, by decide +kernel⟩
theorem witness_HandoffEndsAtAnInadmissibleHead : ∃ b : Bench, b.body.holding ∧
    b.token.toNat + b.queue.length < 2 ^ 48 ∧ b.queue ≠ [] :=
  ⟨bench9.removeGrant (grant 0 .exclusive 43 2300), holding_of (by decide +kernel), by decide +kernel⟩
theorem witness_SettleWorkByAction : ∃ b : Bench, b.body.holding ∧
    (b.body.grants.map Grant.token).Nodup ∧ (b.queue.map fun p => p.2.client).Nodup ∧ (b.queue.map Prod.fst).Nodup ∧ b.queue ≠ [] ∧
    ∃ g ∈ b.body.grants, g.client = 0 ∧ g.gstate = .orphaned :=
  ⟨bench9.changeGrant 43 fun g => { g with gstate := .orphaned }, holding_of (by decide +kernel),
    by decide +kernel⟩

/-- `busy` with word 4 of key 6's slot uncorrectable, and with both copies of the zone map so. -/
def broken : State :=
  busy.setStore (busy.store.setSlot 1
    { busy.store.slot 1 with ecc := tenGood.set 4 .double })
def mapless : State :=
  busy.setStore { busy.store with zone :=
    { c1 := { val := map, ecc := sevenGood.set 0 .double }, c2 := { val := map, ecc := sevenGood.set 6 .double } } }

theorem witness_UncorrectableWordsAreWithdrawn :
    (∃ s s1 f, State.between s ∧ s.takenTo (.lookup f) f s1 ∧ ¬ s.inFault ∧ keyAt f.args 0 = 6 ∧
      s1.lookup 6 = some { slot := 1, quarantined := false, holders := [(0, 40)] } ∧
      (∀ e ∈ s1.main.index, e.2.slot = 1 → e = ((6 : Key).toNat,
        { slot := 1, quarantined := false, holders := [(0, 40)] })) ∧
      (s1.store.slot 1).ecc = tenGood.set 4 .double ∧ (s1.store.slot 1).val.ident.key = some 6 ∧
      s1.queueOf 1 = []) ∧
    ∃ s s1 f, State.takenTo s (.zoneRead f) f s1 ∧ s1.store.zone.c1.ecc = sevenGood.set 0 .double ∧
      s1.store.zone.c2.ecc = sevenGood.set 6 .double :=
  ⟨⟨offering (.lookup (byNone (keyBytes 6))) broken,
      taken (.lookup (byNone (keyBytes 6))) (byNone (keyBytes 6)) none broken, byNone (keyBytes 6),
      between_offering (between_of (by decide +kernel)) _, takenTo_of (by decide +kernel),
      by decide +kernel⟩,
    ⟨offering (.zoneRead (byNone [])) mapless, taken (.zoneRead (byNone [])) (byNone []) none mapless,
      byNone [], takenTo_of (by decide +kernel), by decide +kernel⟩⟩

theorem witness_ScheduleRequestsKeepTheOrder : ∃ es : List Entry,
    es.Pairwise (fun a b => a.deadline ≤ b.deadline) ∧ (es.map Entry.ref).Nodup ∧
    (∃ e ∈ es, e.ref = .grant 1 40) ∧ ∀ e ∈ es, e.ref ≠ .grant 1 41 :=
  ⟨busy.main.sched, by decide +kernel⟩

/-! ### One step of each command on a small state -/

/-- The state that a command's step gives. -/
def after (i : Instr) (s : State) : State :=
  match exec i s with
  | .next t => t
  | _ => s

/-- The state after a frame command is taken. -/
def ran (i : Instr) (s : State) : State := after i (offering i s)

/-- Status and payload of the response to a frame command: bytes 2 and 8 to LEN − 2 of R187. -/
def answer (i : Instr) (s : State) : Option (Byte × List Byte) :=
  (frameOf i).map fun p =>
    let r := ((ran i s).port p.2.port).respBuf
    (r.getD 2 0xFF, (r.drop 8).dropLast)

/-- `busy` at another tick, nothing else changed. -/
def atTick (t : Tick) (s : State) : State := s.setTb { s.tb with tick := t }

/- R185: the twelve bytes of INFO with port C as supervisor port. -/
theorem test_info : answer (.info (byNone [])) busy =
    some (0x00, [0x41, 0x20, 0x04, 0x00, 16, 128, 8, 4, 16, 4, 3, 0]) := by decide +kernel
/- R91: tick 1000 and phase 5. -/
theorem test_time : answer (.time (byNone [])) busy = some (0x00, [0, 0, 0, 0x03, 0xE8, 5]) := by
  decide +kernel
/- R68: the lowest FREE entry is 2, the nonce is the counter's 20, the deadline 1000 + 64. -/
theorem test_open : answer (.openSession (openFrame 64)) busy =
    some (0x00, [2, 0, 20, 0, 0, 0, 0x04, 0x28]) := by decide +kernel
theorem test_open_short_term : answer (.openSession (openFrame 63)) busy = some (0x0D, []) := by
  decide +kernel
/- R51, R75, R78: the grants of session 0 are gone; key 9 goes to the waiter with token 50. -/
theorem test_close_hands_off :
    ((ran (.close (by0 [])) busy).recordOf 4).grants = [grant 1 .exclusive 50 1300 |> ({ · with term := 300 })] ∧
    ((ran (.close (by0 [])) busy).recordOf 1).state = .vacant := by decide +kernel
/- R70: the deadline is 1000 + 64. -/
theorem test_ping : answer (.ping (by0 [])) busy = some (0x00, [0, 0, 0, 0x04, 0x28]) := by decide +kernel
/- R67, R83: the counter's 7 is the session's nonce and is passed over; WAITS_LOST is reported. -/
theorem test_reattach_passes_over_its_nonce : answer (.reattach (frame .b 0 7 [])) suspended =
    some (0x00, [0, 8, 0, 1, 0, 0, 0, 0x04, 0x28]) := by decide +kernel
/- R79: OPEN on port A, HOLD, heartbeat term 64, three grants. -/
theorem test_session_status : answer (.sessionStatus (byNone [0])) busy =
    some (0x00, [1, 1, 2, 0, 0, 64, 3, 0, 0, 0]) := by decide +kernel
/- R11 and R191: the summary of a new record of zone 1. -/
theorem test_create : answer (.create (createFrame 0xFFFFFFFE)) busy =
    some (0x00, [0xFF, 0xFF, 0xFF, 0xFE, 0, 1, 4, 0, 0, 0, 1, 0xFF, 0xFF, 0xFF, 0, 0, 0, 0, 0, 0]) := by
  decide +kernel
theorem test_create_exists : answer (.create (createFrame 5)) busy = some (0x04, []) := by decide +kernel
theorem test_retire : answer (.retire (bySup (keyBytes 5))) busy = some (0x00, []) ∧
    (ran (.retire (bySup (keyBytes 5))) busy).isFree 0 = true := by decide +kernel
theorem test_retire_held : answer (.retire (bySup (keyBytes 6))) busy = some (0x02, []) := by decide +kernel
/- R16 and R191: HELD_EXCLUSIVE, share limit 2, terms 100 and 1000, generation 3, one grant, one waiter. -/
theorem test_lookup : answer (.lookup (byNone (keyBytes 9))) busy = some (0x00,
    [0, 0, 0, 9, 1, 0, 2, 0, 0, 0, 100, 0, 3, 0xE8, 0, 0, 0, 3, 1, 1,
     0, 0, 0, 0, 0, 0, 0, 0, 43, 0, 0, 0, 0x08, 0xFC, 0, 1, 0xF4]) := by decide +kernel
/- R16: a QUARANTINED record answers QUARANTINED with its summary. -/
theorem test_lookup_quarantined : answer (.lookup (byNone (keyBytes 10))) busy = some (0x11,
    [0, 0, 0, 10, 3, 0, 0, 0, 0, 0, 0, 0, 0, 0, 0, 0, 0, 0, 0, 0]) := by decide +kernel
/- R17, R18: two entries from key 5, then the next key 7. -/
theorem test_enumerate : answer (.enumerate (enumerateFrame 5 2)) busy = some (0x00,
    [0, 0, 0, 5, 0, 0, 0, 0, 0, 0, 3, 0, 0, 0, 6, 1, 1, 0, 0, 0, 0, 3, 0, 0, 0, 7, 2]) := by decide +kernel
/- R17, R18: the walk lists a QUARANTINED record with counts and generation 0 and ends. -/
theorem test_enumerate_end : answer (.enumerate (enumerateFrame 10 8)) busy = some (0x00,
    [0, 0, 0, 10, 3, 0, 0, 0, 0, 0, 0, 0, 0, 0, 0, 1]) := by decide +kernel
/- R30: token 50, expiry 1000 + 100 (the default term). -/
theorem test_acquire : answer (.acquire (acq0 5 0 0 0)) busy =
    some (0x00, [0, 0, 0, 0, 0, 50, 0, 0, 0, 0x04, 0x4C, 0, 0, 100]) := by decide +kernel
/- R31, R48: waiter 1, deadline 1000 + 700. -/
theorem test_acquire_queued : answer (.acquire (acq1 6 0 0 700)) busy =
    some (0x01, [1, 0, 0, 0, 0x06, 0xA4]) := by decide +kernel
/- R34: the lowest token goes to the key listed first. -/
theorem test_acquire_set : answer (.acquireSet setFrame) busy = some (0x00,
    [0, 0, 0, 0, 0, 50, 0, 0, 0, 0x04, 0x4C, 0, 0, 0, 0, 0, 51, 0, 0, 0, 0x04, 0x4C]) := by decide +kernel
/- R33: the failure index names the second key, which another holds. -/
theorem test_acquire_set_busy :
    answer (.acquireSet (by1 ([2] ++ termBytes 0 ++ keyBytes 5 ++ [0] ++ keyBytes 6 ++ [1]))) busy =
    some (0x02, [1]) := by decide +kernel
/- R36: expiry 1000 + 1000. -/
theorem test_renew : answer (.renew (renewFrame 1000)) busy =
    some (0x00, [0, 0, 0, 0, 0, 40, 0, 0, 0, 0x07, 0xD0, 0, 0x03, 0xE8]) := by decide +kernel
theorem test_renew_too_long : answer (.renew (renewFrame 1001)) busy = some (0x0D, []) := by decide +kernel
/- R37, R51, R52: the record goes to waiter 0 for 300 ticks. -/
theorem test_release_hands_off :
    ((ran (.release (by0 (tokenFrame 9 43))) busy).recordOf 4).grants.map
      (fun g => (g.client, g.token, g.expiry)) = [(1, 50, 1300)] := by decide +kernel
/- R35: another client's token is not the caller's. -/
theorem test_release_not_held : answer (.release (by1 (tokenFrame 9 43))) busy = some (0x05, []) := by
  decide +kernel
/- R38: the grant keeps its token, expiry 2000 and term 500. -/
theorem test_downgrade : answer (.downgrade (by0 (tokenFrame 6 40))) busy =
    some (0x00, [0, 0, 0, 0, 0, 40, 0, 0, 0, 0x07, 0xD0, 0, 0x01, 0xF4]) ∧
    ((ran (.downgrade (by0 (tokenFrame 6 40))) busy).recordOf 1).state = .heldShared := by decide +kernel
/- R58: the pool entry is FREE and the waits-held mark clear. -/
theorem test_cancel_wait :
    (ran (.cancelWait (by1 ([0] ++ keyBytes 9))) busy).waiter 0 = none ∧
    (sessionWord 1).holds (ran (.cancelWait (by1 ([0] ++ keyBytes 9))) busy) e1r := by decide +kernel
/- R57: waiter 0 waits for key 9, not for key 6. -/
theorem test_cancel_wait_other_key : answer (.cancelWait (by1 ([0] ++ keyBytes 6))) busy =
    some (0x03, []) := by decide +kernel
/- R110 and R191: the oldest notice, three lost, four remaining. -/
theorem test_fetch_notices : answer (.fetchNotices (by1 [1])) noted = some (0x00,
    [2, 0, 0, 0, 1, 0, 0, 0, 0, 0, 30, 0xFF, 0, 0, 0, 0, 0x03, 0x84, 3, 4]) := by decide +kernel
/- R112: with attention off for session 1, line B is released. -/
theorem test_attention_off : (ran (.attention (by1 [0])) (noted.setAttn { AttnLines.released with b := true })).main.attn.b =
    false := by decide +kernel
/- R111, R112: session 0 turns attention on with a notice queued, and line A goes low. -/
theorem test_attention_on :
    (ran (.attention (by0 [1])) (busy.setNoticesOf 0 { queue := [note 1], lost := 0 })).main.attn.a = true := by
  decide +kernel

/-- The map of 7.8 that moves key 0x00800000, and the one that does not. -/
def mapHalf : ZoneMap := { ZoneMap.por with b1 := { on := true, key := 0x00400000 } }
def mapTwo : ZoneMap :=
  { ZoneMap.por with
    b1 := { on := true, key := 0x01000000 }
    b2 := { on := true, key := 0x02000000 }
    z1 := { ZoneAttr.por with supOnly := true, waits := false }
    z2 := { ZoneAttr.por with autoCreate := true, share := 2, defTerm := 512, maxTerm := 2048 } }
/-- The directory of 7.8. -/
def zoned : State :=
  { ready with store := { ready.store with zone := sevens ZoneMap.por } }
  |> hold 0 (record 0x00000100 []) |> hold 1 (record 0x00800000 [])

/- 7.8: ZONE_OCCUPIED, then OK. -/
theorem test_zone_set_occupied : answer (.zoneSet (bySup mapHalf.bytes)) zoned = some (0x0F, []) := by
  decide +kernel
theorem test_zone_set : answer (.zoneSet (bySup mapTwo.bytes)) zoned = some (0x00, []) ∧
    (ran (.zoneSet (bySup mapTwo.bytes)) zoned).store.zone = sevens mapTwo := by decide +kernel
theorem test_zone_freeze :
    (ran (.zoneFreeze (bySup [])) zoned).store.zone = sevens { ZoneMap.por with frozen := true } := by
  decide +kernel
/- R122 and 7.8: a frozen map refuses even an identical one. -/
theorem test_zone_set_frozen : answer (.zoneSet (bySup { map with frozen := true }.bytes)) frozen =
    some (0x10, []) := by decide +kernel
/- R125: 55 bytes of map and the frozen flag. -/
theorem test_zone_read : ((answer (.zoneRead (byNone [])) frozen).map fun r => (r.1, r.2.length, r.2.getLast?)) =
    some (0x00, 56, some 1) := by decide +kernel
/- R127: the grant's client, mode and state; the holder is told REVOKED, FORCE. -/
theorem test_force_release : answer (.forceRelease (bySup (tokenFrame 7 41))) busy = some (0x00, [1, 1, 0]) ∧
    ((ran (.forceRelease (bySup (tokenFrame 7 41))) busy).noticesOf 1).queue.map (fun n => (n.kind, n.cause)) =
      [(.revoked, .force)] := by decide +kernel
theorem test_force_release_port : answer (.forceRelease (by0 (tokenFrame 7 41))) busy = some (0x13, []) := by
  decide +kernel
theorem test_dismiss : (sessionWord 1).holds (ran (.dismiss (bySup [1])) ready) SessEntry.free := by
  decide +kernel
/- R84: a FREE target. -/
theorem test_dismiss_free : answer (.dismiss (bySup [15])) ready = some (0x03, []) := by decide +kernel
/- R144: WIPE is taken in STORE_FAULT mode, but only on the supervisor port. -/
theorem test_wipe_port : answer (.wipe (by0 [])) busy = some (0x13, []) := by decide +kernel
theorem test_audit_start : answer (.auditStart (auditFrame 1 100)) ready = some (0x00, [1]) := by
  decide +kernel
theorem test_audit_start_busy : answer (.auditStart (auditFrame 1 100)) busy = some (0x14, []) := by
  decide +kernel
theorem test_audit_suspend : answer (.auditSuspend (bySup [])) busy = some (0x00, [2, 0, 0, 0, 9]) := by
  decide +kernel
theorem test_audit_resume : answer (.auditResume (bySup [])) stopped = some (0x00, [1, 0, 0, 0, 9]) := by
  decide +kernel
theorem test_audit_read : answer (.auditRead (byNone [])) busy = some (0x00,
    [1, 0, 0, 0, 0, 1, 0, 0, 0, 100, 0, 0, 0, 9, 0, 0, 0, 0, 0, 0, 0, 0, 0]) := by decide +kernel
/- R146, R188: two corrected, one uncorrected, one slot quarantined, the trap of slot 5 word 1. -/
theorem test_store_status : answer (.storeStatus (byNone [])) trapped = some (0x00,
    [0, 0, 0, 0, 0, 0, 2, 1, 0, 1, 1, 0, 0, 5, 1, 0, 2, 16, 0, 0]) := by decide +kernel
theorem test_store_clear : (ran (.storeClear (bySup [])) fresh).store.flags = Copies.two flags0 ∧
    (ran (.storeClear (bySup [])) fresh).main.mon.trap = none := by decide +kernel
theorem test_scrub_control : answer (.scrubControl (bySup [255])) busy = some (0x00, [255, 0, 0]) := by
  decide +kernel
theorem test_reclaim : answer (.reclaim (slotFrame 5)) busy = some (0x00, [1, 0, 0, 0, 10]) := by
  decide +kernel
theorem test_quarantine_list : answer (.quarantineList (byNone (beBytes 2 0))) busy =
    some (0x00, [0, 5, 1, 0, 0, 0, 10, 0xFF, 0xFF, 1]) := by decide +kernel
theorem test_unknown : answer (.unknownCommand 0x35 (by0 [])) busy = some (0x1E, []) := by decide +kernel

/- 11.8: the status byte of a RESPONSE_READY port with COLLIDED set is 0x0C, and the read clears the flag. -/

/-- A response waiting on port B with COLLIDED set. -/
def struck : State :=
  (answered .b busy).setPort .b { (answered .b busy).port .b with collided := true }
theorem test_status_read : ((after (.statusRead .b 0 true 2) struck).port .b).lead = some 0x0C ∧
    ((after (.statusRead .b 0 true 2) struck).port .b).sent = [0x0C, 0x0C] := by decide +kernel
theorem test_status_read_clears : ((after (.statusRead .b 0 true 0) struck).port .b).collided = false := by
  decide +kernel
theorem test_response_read : ((after (.responseRead .b 0 9) struck).port .b).state = .idle ∧
    ((after (.responseRead .b 0 8) struck).port .b).state = .responseReady := by decide +kernel
/- R179: the first frame byte drops the unread response. -/
theorem test_first_frame_byte : ((after (.firstFrameByte .b 0 6) struck).port .b).discarded = true ∧
    ((after (.firstFrameByte .b 0 6) struck).port .b).state = .receiving := by decide +kernel
/- R180 and 11.8: a short frame of command 0x30 is answered FRAME_ERROR. -/
theorem test_frame_end_short :
    (((after (.frameEnd .b [0x30, 0]) (after (.firstFrameByte .b 0 17) busy)).port .b).respBuf.take 3) =
      [9, 0x30, 0x1F] := by decide +kernel

/- R40: the grant goes, its holder is told. -/
theorem test_grant_expiry : ((after (.grantExpiryEvent 1 40 2000) expiring).recordOf 1).grants = [] ∧
    ((after (.grantExpiryEvent 1 40 2000) expiring).noticesOf 0).queue.map Notice.kind = [.expired] := by
  decide +kernel
theorem test_wait_deadline : (after (.waitDeadlineEvent 0 3000) overdue).waiter 0 = none ∧
    ((after (.waitDeadlineEvent 0 3000) overdue).noticesOf 1).queue.map Notice.waiter = [some 0] := by
  decide +kernel
theorem test_heartbeat : (after (.heartbeatEvent 0 1040) silent).lapseWaits .heartbeat 0 = true := by
  decide +kernel
theorem test_grace : (after (.graceEvent 0 1040) graced).lapseWaits .grace 0 = true := by decide +kernel
/- R73, R75, R76: a HOLD session lapses, a RELEASE session is freed. -/
theorem test_lapse_hold :
    (sessionWord 0).holds (after (.lapseRequest .heartbeat 0) lapsing) { e0 with state := .lapsed } := by
  decide +kernel
theorem test_lapse_release :
    (sessionWord 1).holds (after (.lapseRequest .heartbeat 1) leaving) SessEntry.free := by decide +kernel
theorem test_entry_falls_due : ((atTick 2000 busy).main.sched.all fun e => !e.due) = true ∧
    ((after (.entryFallsDue (.session 0)) (atTick 1040 busy)).main.sched.head?.map Entry.due) = some true := by
  decide +kernel
/- R89: phase 5 and 123 cycles make one tick; 122 do not. -/
theorem test_timebase : (after (.timebaseAdvance 123) busy).tb = { tick := 1001, phase := 0 } ∧
    (after (.timebaseAdvance 122) busy).tb = { tick := 1000, phase := 127 } := by decide +kernel
theorem test_scrub_step_pending : (after .scrubStepPending (later 16 ready)).main.mon.stepPending = true := by
  decide +kernel
/- R141, R150: a single error is corrected, counted, and the cursor moves on. -/
def stained : State :=
  (scrubbing 4).setStore (busy.store.setSlot 4 { busy.store.slot 4 with ecc := tenGood.set 3 .single })
theorem test_scrub_corrects : ((after .scrubStep stained).store.slot 4).ecc = tenGood ∧
    (after .scrubStep stained).main.mon.corrected = 1 ∧ (after .scrubStep stained).main.mon.cursor = 5 := by
  decide +kernel
/- R156: the step visits key 9 and moves the cursor past it. -/
theorem test_audit_step : (after .auditStep busy).main.audit.visited = 1 ∧
    (after .auditStep busy).main.audit.cursor = 10 := by decide +kernel
theorem test_retained_por : (after (.retainedPor 0) (takeVbatLoss busy)).power.state = .restarting := by
  decide +kernel
theorem test_vbat_loss : (after .vbatLoss busy).power.state = .off := by decide +kernel
theorem test_vdd_loss : (after (.vddLoss .idle 0) busy).power.state = .retainedOnly ∧
    (after (.vddLoss .idle 0) busy).store = busy.store := by decide +kernel
/- 8.9: power fails in ACQUIRE SET's commit after its first image place; no record and no counter is changed. -/
theorem test_vdd_loss_before_marker :
    (after (.vddLoss .frame 12) (offering (.acquireSet setFrame) busy)).store.slots = busy.store.slots ∧
    (after (.vddLoss .frame 12) (offering (.acquireSet setFrame) busy)).store.token = Copies.two 50 := by
  decide +kernel
/- R9, R33, R108: key 7's due grant goes as the set's first key is touched, key 6 is quarantined at the second. -/
def crumbling : State :=
  let s := busy |> hold 2 (record 7 [grant 1 .shared 41 900]) |> hold 1 (record 6 [grant 1 .exclusive 40 2000])
  s.setStore (s.store.setSlot 1 { s.store.slot 1 with ecc := tenGood.set 4 .double })
theorem test_acquire_set_order_of_notices :
    ((ran (.acquireSet (by0 ([2] ++ termBytes 30 ++ keyBytes 7 ++ [1] ++ keyBytes 6 ++ [0]))) crumbling).noticesOf
      1).queue.map (fun n => (n.kind, n.key)) = [(.expired, 7), (.revoked, 6)] := by decide +kernel
/- R9, R114, R136: key 8, TRANSIENT, loses its due grant and goes at the set's first key; the map is found lost at the
second, absent one. The EXPIRED notice came first, so port B's line is low when the mode begins. -/
def sinking : State :=
  let s := busy |> hold 3 (passing 8 [grant 1 .shared 42 900])
  s.setStore { s.store with zone := { c1 := { val := map, ecc := sevenGood.set 2 .double },
                                      c2 := { val := map, ecc := sevenGood.set 2 .double } } }
theorem test_lines_follow_results_before_the_mode :
    let t := ran (.acquireSet (by0 ([2] ++ termBytes 30 ++ keyBytes 8 ++ [1] ++ keyBytes 11 ++ [0]))) sinking
    sinking.main.attn = AttnLines.released ∧ t.inFault ∧ (t.noticesOf 1).queue.map Notice.kind = [.expired] ∧
    t.main.attn = { AttnLines.released with b := true } := by decide +kernel
/- R155: the held frame reached the directory before the next step; once it is taken, the step is. -/
theorem test_audit_step_behind_a_frame : after .auditStep behind = behind ∧
    (after .auditStep (after (.ping (by1 [])) behind)).main.audit.visited = 1 := by decide +kernel
/- R130, R140: 50 + 16 behind a failed replay; the lost map and flags take their retained-POR values. -/
theorem test_wipe_in_fault : (ran (.wipe (bySup [])) wrecked).store.token = Copies.two 66 ∧
    (ran (.wipe (bySup [])) wrecked).store.zone = sevens ZoneMap.por ∧
    ¬ (ran (.wipe (bySup [])) wrecked).inFault := by decide +kernel
/- R159: a key behind the cursor leaves the index with word 0 of its slot lost. -/
theorem test_lost_key_marks_the_audit_stale :
    (after .scrubStep ((scrubbing 1).setStore (busy.store.setSlot 1
      { busy.store.slot 1 with ecc := tenGood.set 0 .double }))).main.audit.stale = true := by decide +kernel
/- R137, R140: with both copies of the marker uncorrectable the present places are read and counted. -/
def torn : State :=
  busy.setStore { busy.store with intent := { busy.store.intent with
    marker := { c1 := { val := false, ecc := [.double] }, c2 := { val := false, ecc := [.double] } }
    token := { present := true, block := { val := 9, ecc := [.double] } } } }
theorem test_replay_counts_behind_a_torn_marker : torn.replay.main.mon.uncorrected = 3 ∧
    torn.replay.main.mon.replayFailed = true := by decide +kernel
theorem test_main_reset : (after (.mainReset .vddReturn 2 .idle 0) State.reset).main.supPort = some .b ∧
    (after (.mainReset .vddReturn 2 .idle 0) State.reset).power.state = .restarting := by decide +kernel

/-! ### The worked sequence of 3.7 at tick 20,100 -/

/-- The state before client 1's DOWNGRADE: grant 799, and waiters 0, 1, 2 and 3 of clients 2, 4, 5 and 6. -/
def batching : State :=
  [1, 2, 4, 5, 6].foldl (fun s c => session c { opened .a 7 .hold false with waitsHeld := c != 1 } s)
    (atTick 20100 { ready with store := { ready.store with token := Copies.two 800 } })
  |> beats .heartbeat 1 90000
  |> hold 20 { record 0xC40 [{ grant 1 .exclusive 799 22000 with term := 2000 }] with share := 3, gen := 30 }
  |> wait 0 { client := 2, slot := 20, mode := .shared, term := 300, deadline := 22010 }
  |> wait 1 { client := 4, slot := 20, mode := .shared, term := 512, deadline := 21020 }
  |> wait 2 { client := 5, slot := 20, mode := .exclusive, term := 400, deadline := 23030 }
  |> wait 3 { client := 6, slot := 20, mode := .shared, term := 200, deadline := 20540 }
def batched : State := ran (.downgrade (frame .a 1 7 (tokenFrame 0xC40 799))) batching

/- 3.7: tokens 800 and 801 go to clients 2 and 4, in one commit of generation 31. -/
theorem test_shared_batch : (batched.recordOf 20).grants.map (fun g => (g.token, g.client, g.expiry)) =
      [(799, 1, 22000), (800, 2, 20400), (801, 4, 20612)] ∧ (batched.recordOf 20).gen = 31 ∧
    batched.store.token = Copies.two 802 := by decide +kernel
theorem test_shared_batch_queue : batched.queueOf 20 = [2, 3] ∧ batched.waiter 0 = none ∧
    batched.waiter 1 = none ∧ (batched.noticesOf 4).queue.map Notice.token = [801] := by decide +kernel

end Sys2Proof.Tests
end

section
/-! PROOFS. Chapter 2: the argument checks of ACQUIRE behind the session check (R27). -/

namespace Sys2Proof.Machine

/-- No mode has a byte other than those of EXCLUSIVE and SHARED (R190). -/
theorem modeOf_eq_none_iff {b : Byte} : modeOf b = none ↔ b ≠ 0 ∧ b ≠ 1 := by
  by_cases hexclusive : b = 0
  · simp [modeOf, hexclusive]
  · by_cases hshared : b = 1
    · simp [modeOf, hshared]
    · simp only [modeOf, hexclusive, hshared, if_false, ne_eq, not_false_eq_true, and_self]

theorem exec_acquire (f : Frame) (s : State) :
    exec (.acquire f) s =
      .next (s.takeFrame (.acquire f) 0x30 f (judged { args := 11 } f (acquireWork f))) := rfl

/-- An ACQUIRE that passes the common checks and whose own work goes to its end ends in the work's state with the
work's reply in the port's buffer (R184, R186). -/
theorem exec_acquire_of_work {s s1 s2 : State} {f : Frame} {r : Reply} (h : s.takenTo (.acquire f) f s1)
    (hw : acquireWork f s1 = .ok r s2) :
    exec (.acquire f) s = .next (s2.respond f.port 0x30 r) := by
  rw [exec_acquire, takeFrame_taken h rfl, hw]

/-- The key is judged first, and no other argument with it (R27). -/
theorem acquireWork_reservedKey {f : Frame} (hk : reservedKey (keyAt f.args 0)) (s : State) :
    acquireWork f s = .ok (.bare .badKey) s := by
  simp only [acquireWork, if_pos hk, Take.run_pure]

/-- The mode is judged next, before the record is looked for and before term and wait are read (R27). -/
theorem acquireWork_badMode {f : Frame} (hk : ¬ reservedKey (keyAt f.args 0))
    (hm : modeOf (byteAt f.args 4) = none) (s : State) :
    acquireWork f s = .ok (.bare .badArg) s := by
  simp only [acquireWork, if_neg hk, hm, Take.run_pure]

/-- Settles O26: both refusals are pure answers of ACQUIRE's own work, given before it touches the state the
session check left. -/
theorem acquireRefusesBadArguments : Obligations.AcquireRefusesBadArguments := by
  intro s s1 f h
  constructor
  · intro hk
    exact exec_acquire_of_work h (acquireWork_reservedKey hk s1)
  · rintro ⟨hzero, hones⟩ hexclusive hshared
    have hk : ¬ reservedKey (keyAt f.args 0) := not_or.mpr ⟨hzero, hones⟩
    have hm : modeOf (byteAt f.args 4) = none := modeOf_eq_none_iff.mpr ⟨hexclusive, hshared⟩
    exact exec_acquire_of_work h (acquireWork_badMode hk hm s1)

end Sys2Proof.Machine
end

section
/-! PROOFS. Chapter 6: FETCH NOTICES behind the session check (R109, R110). -/

namespace Sys2Proof.Machine

/-- A taken frame whose own work goes to its end ends in the work's state with the work's reply in the port's
buffer (R184, R186). -/
theorem takeFrame_of_work {s s1 s2 : State} {i : Instr} {cmd : Byte} {f : Frame} {m : Marks}
    {work : Take Reply} {r : Reply} (h : s.takenTo i f s1) (hm : marksOf i = some m)
    (hw : work s1 = .ok r s2) :
    s.takeFrame i cmd f (judged m f work) = s2.respond f.port cmd r := by
  rw [takeFrame_taken h hm, hw]

theorem exec_fetchNotices (f : Frame) (s : State) :
    exec (.fetchNotices f) s =
      .next (s.takeFrame (.fetchNotices f) 0x40 f (judged { args := 1 } f (fetchWork f))) := rfl

/-- With a COUNT of 1 to 4 the caller's queue loses its head and its lost count, the lines are evaluated on what is
left, and the reply shows the queue as it was found (R109, R110). -/
theorem fetchWork_countInRange {f : Frame} (hpos : 1 ≤ (byteAt f.args 0).toNat)
    (hle : (byteAt f.args 0).toNat ≤ 4) (s : State) :
    fetchWork f s = .ok
      (.ok (fetchPayload (s.noticesOf f.client.toNat) (byteAt f.args 0).toNat))
      (s.setNoticesOf f.client.toNat
        ((s.noticesOf f.client.toNat).fetched (byteAt f.args 0).toNat)).driveLines := by
  have hcount : ¬ ((byteAt f.args 0).toNat = 0 ∨ 4 < (byteAt f.args 0).toNat) := by omega
  simp only [fetchWork, Take.bind_of_ok (Take.run_get s), if_neg hcount,
    Take.bind_of_ok (Take.run_set _ s), Take.run_pure]

/-- The payload over a queue's fields: the number left is what is beyond the `n` notices removed (R110). -/
theorem fetchPayload_mk (queue : List Notice) (lost n : Nat) :
    fetchPayload { queue := queue, lost := lost } n = (queue.take n).flatMap Notice.bytes ++
      [BitVec.ofNat 8 lost, BitVec.ofNat 8 (queue.length - n)] := by
  simp only [fetchPayload, List.length_drop]

/-- Settles O35: FETCH NOTICES's own work makes no commit, so the take is one update of the caller's queue with the
lines evaluated after it, and the payload is read off the queue before the update. -/
theorem fetchNoticesEmptiesTheHead : Obligations.FetchNoticesEmptiesTheHead := by
  rintro s s1 f _ _ queue lost h rfl rfl hpos hle hqueue
  have hwork := fetchWork_countInRange hpos hle s1
  rw [hqueue, fetchPayload_mk, NoticeQueue.fetched] at hwork
  rw [exec_fetchNotices, takeFrame_of_work h rfl hwork]

end Sys2Proof.Machine
end

section
/-! PROOFS. Chapter 7: ZONE READ, the zone map image and its length, and the answer in STORE_FAULT mode (R125). -/

namespace Sys2Proof.Machine

/-- `beBytes n` writes `n` bytes, whatever the value. -/
@[simp] theorem length_beBytes (n v : Nat) : (beBytes n v).length = n := by
  induction n with
  | zero => rfl
  | succ n ih => rw [beBytes, List.length_cons, ih]

@[simp] theorem length_termBytes (t : Term) : (termBytes t).length = 3 := length_beBytes 3 t.toNat
@[simp] theorem length_keyBytes (k : Key) : (keyBytes k).length = 4 := length_beBytes 4 k.toNat

@[simp] theorem Boundary.length_bytes (b : Boundary) : b.bytes.length = 5 := by
  rw [Boundary.bytes, List.length_cons, length_keyBytes]

@[simp] theorem ZoneAttr.length_bytes (z : ZoneAttr) : z.bytes.length = 10 := by
  simp only [ZoneAttr.bytes, List.length_cons, List.length_append, length_termBytes]

/-- The image is 3 boundaries of 5 bytes and 4 attribute sets of 10 (R121). -/
@[simp] theorem ZoneMap.length_bytes (m : ZoneMap) : m.bytes.length = 55 := by
  simp only [ZoneMap.bytes, List.length_append, Boundary.length_bytes, ZoneAttr.length_bytes]

/-- The image lists the three boundaries and then the four attribute sets, each of the two kinds in one layout
(R121, R125). -/
theorem ZoneMap.bytes_eq_flatMap (m : ZoneMap) :
    m.bytes = [m.b1, m.b2, m.b3].flatMap Boundary.bytes ++ [m.z0, m.z1, m.z2, m.z3].flatMap ZoneAttr.bytes := by
  simp only [ZoneMap.bytes, List.flatMap_cons, List.flatMap_nil, List.append_assoc, List.append_nil]

theorem exec_zoneRead (f : Frame) (s : State) :
    exec (.zoneRead f) s =
      .next (s.takeFrame (.zoneRead f) 0x82 f (judged { need := .may } f zoneReadWork)) := rfl

/-- Over a map whose copies are good, ZONE READ's own work leaves the state as it is: it makes no commit, and the
checked read has nothing to mend (R125, R135). -/
theorem zoneReadWork_holds {s : State} {m : ZoneMap} (h : zoneWord.holds s m) :
    zoneReadWork s = .ok (.ok (m.bytes ++ [onOff m.frozen])) s := by
  rw [zoneReadWork, Take.bind_of_ok (readControl_holds h), Take.run_pure]

/-- Step 4 of the order of checks: in STORE_FAULT mode a command without mark F is refused before its session is
looked at (R184). -/
theorem judgedWith_inFault {m : Marks} {f : Frame} {session : Take (Option Status)} {work : Take Reply} {s : State}
    (hs : m.supervisor = true → s.main.supPort = some f.port) (hf : s.inFault) (hm : m.inFault = false) :
    judgedWith m f session work s = .ok (.bare .storeFault) s := by
  have hprivileged : ¬ (m.supervisor ∧ s.main.supPort ≠ some f.port) := fun ⟨hsup, hport⟩ => hport (hs hsup)
  rw [judgedWith, Take.bind_of_ok (Take.run_get s), if_neg hprivileged, if_pos ⟨hf, hm⟩, Take.run_pure]

/-- A frame offered in STORE_FAULT mode, of a command without mark F that passes the privilege check, is accepted
and answered STORE_FAULT; nothing else changes (R136, R184). -/
theorem takeFrame_inFault {s : State} {i : Instr} {cmd : Byte} {f : Frame} {m : Marks} {work : Take Reply}
    (ho : s.offers i f.port) (hs : m.supervisor = true → s.main.supPort = some f.port) (hf : s.inFault)
    (hm : m.inFault = false) :
    s.takeFrame i cmd f (judged m f work) = (s.accept f.port).respond f.port cmd (.bare .storeFault) := by
  rw [takeFrame_offers ho, judged, judgedWith_inFault (s := s.accept f.port) hs hf hm]

/-- Settles O38: the take is a checked read of good words and a pure reply, so it ends in the state the session step
left; in STORE_FAULT mode the order of checks refuses it. -/
theorem zoneReadAnswersTheMap : Obligations.ZoneReadAnswersTheMap := by
  constructor
  · intro s s1 f m h hmap
    constructor
    · rw [exec_zoneRead, takeFrame_of_work h rfl (zoneReadWork_holds hmap), ZoneMap.bytes_eq_flatMap]
      rfl
    · rw [List.length_append, ZoneMap.length_bytes, List.length_singleton]
  · intro s f ho hf
    rw [exec_zoneRead, takeFrame_inFault ho (fun h => absurd h Bool.false_ne_true) hf rfl]

end Sys2Proof.Machine
end

section
/-! PROOFS. Chapter 8: RECLAIM, its refusals, the one commit of word 0 and the lowest FREE slot after it (R149). -/

namespace Sys2Proof.Machine

/-! ### A taken frame's state, and a commit with effects behind it -/

theorem State.between_accept {s : State} (h : s.between) (p : PortId) : (s.accept p).between :=
  ⟨h.canonical, h.tables, h.uncut⟩

theorem State.refresh_sessV (s : State) (c : Nat) (e : SessEntry) : (s.refresh c e).main.sessV =
    Tab.set SessVol.none s.main.sessV c { s.vol c with deadline := some (tickPlus s.now e.hbTerm.toNat) } := rfl

/-- Of the tables, the refresh of a heartbeat changes the sessions' volatile part alone (R70). -/
theorem State.between_refresh {s : State} (h : s.between) (c : Nat) (e : SessEntry) :
    (s.refresh c e).between := by
  obtain ⟨hstore, htables, hcut⟩ := h
  refine ⟨hstore, ?_, hcut⟩
  simp only [Main.canonical, Bool.and_eq_true] at htables ⊢
  obtain ⟨⟨hothers, hsessV⟩, hnotices⟩ := htables
  exact ⟨⟨hothers, State.refresh_sessV s c e ▸ Tab.wf_set hsessV c _⟩, hnotices⟩

theorem State.between_checkedTo {s s1 : State} {need : Need} {f : Frame} (h : s.between)
    (hc : s.checkedTo need f s1) : s1.between := by
  cases need with
  | skip => exact hc ▸ h
  | needs =>
    obtain ⟨e, -, rfl⟩ := hc
    exact State.between_refresh h _ e
  | may =>
    obtain ⟨-, rfl⟩ | ⟨e, -, rfl⟩ := hc
    · exact h
    · exact State.between_refresh h _ e
  | orSupervisor =>
    obtain ⟨-, -, rfl⟩ | ⟨e, -, rfl⟩ := hc
    · exact h
    · exact State.between_refresh h _ e

/-- A frame that passes the common checks begins its own work in a state between steps. -/
theorem State.between_takenTo {s s1 : State} {i : Instr} {f : Frame} (h : s.between)
    (ht : s.takenTo i f s1) : s1.between := by
  obtain ⟨m, cmd, -, -, -, -, -, hchecked, -⟩ := ht
  exact State.between_checkedTo (State.between_accept h f.port) hchecked

/-- A whole commit and then volatile effects, which leave the store to the commit (R138). -/
theorem State.becomes_commit_then {s : State} (h : s.between) (c : Commit) {F : State → State}
    (hF : ∀ x, (F x).store = x.store) : s.becomes (s.store.putCommit c) F (F (s.commit c)) := by
  refine ⟨?_, ?_, ?_⟩
  · rw [hF, ← State.commit_eq s h.uncut c]
  · rw [hF]; exact State.commit_store h.uncut h.canonical c
  · rw [hF]; exact State.commit_marker h.uncut c

/-! ### Step 3 of the order of checks (R184) -/

/-- A command with mark S is refused on a port that is not the supervisor's, before anything else is looked at
(R184). -/
theorem judgedWith_notPrivileged {m : Marks} {f : Frame} {session : Take (Option Status)} {work : Take Reply}
    {s : State} (hm : m.supervisor = true) (hp : s.main.supPort ≠ some f.port) :
    judgedWith m f session work s = .ok (.bare .notPrivileged) s := by
  rw [judgedWith, Take.bind_of_ok (Take.run_get s), if_pos ⟨hm, hp⟩, Take.run_pure]

/-- An offered frame of a command with mark S, on a port that is not the supervisor's, is accepted and answered
NOT_PRIVILEGED; nothing else changes (R184). -/
theorem takeFrame_notPrivileged {s : State} {i : Instr} {cmd : Byte} {f : Frame} {m : Marks} {work : Take Reply}
    (ho : s.offers i f.port) (hm : m.supervisor = true) (hp : s.main.supPort ≠ some f.port) :
    s.takeFrame i cmd f (judged m f work) = (s.accept f.port).respond f.port cmd (.bare .notPrivileged) := by
  rw [takeFrame_offers ho, judged, judgedWith_notPrivileged (s := s.accept f.port) hm hp]

/-! ### The set of FREE slots (R5, R13) -/

theorem State.isFree_markFree_self (s : State) {n : Nat} (hn : n < Config.slots) :
    (s.markFree n true).isFree n = true := by
  have hwidth : n < 1024 := hn
  simp [State.isFree, State.markFree, hwidth]

/-- A slot that joins the set of FREE slots leaves the slots below it as they were. -/
theorem State.isFree_markFree_of_lt (s : State) {n j : Nat} (hj : j < n) :
    (s.markFree n true).isFree j = s.isFree j := by
  simp [State.isFree, State.markFree, hj]

theorem State.lowestFree_eq_some {s : State} {n : Nat} (hn : n < Config.slots) (hfree : s.isFree n = true)
    (hbelow : ∀ j, j < n → s.isFree j = false) : s.lowestFree [] = some n := by
  rw [State.lowestFree, List.find?_range_eq_some]
  exact ⟨by simp [hfree], List.mem_range.mpr hn, fun j hj => by simp [hbelow j hj]⟩

/-- The lowest FREE slot goes by the set of FREE slots alone. -/
theorem State.lowestFree_congr {s t : State} (h : t.main.free = s.main.free) (avoid : List Nat) :
    t.lowestFree avoid = s.lowestFree avoid := by
  simp only [State.lowestFree, State.isFree, h]

theorem State.lowestFree_markFree {s : State} {n : Nat} (hn : n < Config.slots)
    (hbelow : ∀ j, j < n → s.isFree j = false) : (s.markFree n true).lowestFree [] = some n :=
  State.lowestFree_eq_some hn (State.isFree_markFree_self s hn) fun j hj => by
    rw [State.isFree_markFree_of_lt s hj, hbelow j hj]

/-! ### RECLAIM (R149) -/

theorem exec_reclaim (f : Frame) (s : State) :
    exec (.reclaim f) s = .next (s.takeFrame (.reclaim f) 0x8F f
      (judged { supervisor := true, need := .may, args := 2 } f (reclaimWork f))) := rfl

/-- A RECLAIM that passes the common checks and whose own work goes to its end ends in the work's state with the
work's reply in the port's buffer (R184, R186). -/
theorem exec_reclaim_of_work {s s1 s2 : State} {f : Frame} {r : Reply} (h : s.takenTo (.reclaim f) f s1)
    (hw : reclaimWork f s1 = .ok r s2) : exec (.reclaim f) s = .next (s2.respond f.port 0x8F r) := by
  rw [exec_reclaim, takeFrame_of_work h rfl hw]

theorem reclaimWork_slotOutOfRange {f : Frame} (h : Config.slots ≤ field f.args 0 2) (s : State) :
    reclaimWork f s = .ok (.bare .badArg) s := by
  simp only [reclaimWork, Take.bind_of_ok (Take.run_get s), if_pos h, Take.run_pure]

theorem reclaimWork_notQuarantined {f : Frame} {s : State} (h : field f.args 0 2 < Config.slots)
    (hq : Tab.find? s.main.quar (field f.args 0 2) = none) :
    reclaimWork f s = .ok (.bare .notFound) s := by
  simp only [reclaimWork, Take.bind_of_ok (Take.run_get s), if_neg (Nat.not_le.mpr h), hq, Take.run_pure]

/-- RECLAIM frees a quarantined slot by the quarantine set's word for it: the slot itself is not read (R149). -/
theorem reclaimWork_quarantined {f : Frame} {s : State} {key : Option Key}
    (h : field f.args 0 2 < Config.slots) (hq : Tab.find? s.main.quar (field f.args 0 2) = some key) :
    reclaimWork f s = .ok (.ok (onOff key.isSome :: keyBytes (key.getD 0))) (s.reclaim (field f.args 0 2) key) := by
  simp only [reclaimWork, Take.bind_of_ok (Take.run_get s), if_neg (Nat.not_le.mpr h), hq,
    Take.bind_of_ok (Take.run_set _ s), Take.run_pure]

/-- Freeing a quarantined slot adds it to the set of FREE slots; a known key is no matter of that set. -/
theorem State.reclaim_free (s : State) (n : Nat) (key : Option Key) :
    (s.reclaim n key).main.free = (s.markFree n true).main.free := by
  cases key <;> rfl

/-- A response in a port's buffer leaves the set of FREE slots as it is. -/
@[simp] theorem State.respond_free (s : State) (p : PortId) (cmd : Byte) (r : Reply) :
    (s.respond p cmd r).main.free = s.main.free := rfl

theorem State.lowestFree_respond_reclaim {s : State} {n : Nat} (hn : n < Config.slots)
    (hbelow : ∀ j, j < n → s.isFree j = false) (key : Option Key) (p : PortId) (cmd : Byte) (r : Reply) :
    ((s.reclaim n key).respond p cmd r).lowestFree [] = some n := by
  have hfree : ((s.reclaim n key).respond p cmd r).main.free = (s.markFree n true).main.free := by
    rw [State.respond_free, State.reclaim_free]
  rw [State.lowestFree_congr hfree, State.lowestFree_markFree hn hbelow]

/-- Settles O45: the two refusals of the order of checks and the two of RECLAIM's own work are pure answers;
otherwise the take is one commit of word 0 and then the updates of the tables, a known key's or none. -/
theorem reclaimFreesTheSlot : Obligations.ReclaimFreesTheSlot := by
  rintro s f _ hbetween hoffers rfl
  refine ⟨fun hport => ?_, fun hport hfault => ?_, fun s1 htaken => ⟨fun hrange => ?_, fun hlt hq => ?_,
    fun key hlt hq => ⟨_, exec_reclaim_of_work htaken (reclaimWork_quarantined hlt hq), ?_, fun hbelow => ?_⟩⟩⟩
  · rw [exec_reclaim, takeFrame_notPrivileged hoffers rfl hport]
  · rw [exec_reclaim, takeFrame_inFault hoffers (fun _ => hport) hfault rfl]
  · exact exec_reclaim_of_work htaken (reclaimWork_slotOutOfRange hrange s1)
  · exact exec_reclaim_of_work htaken (reclaimWork_notQuarantined hlt hq)
  · have hs1 : s1.between := State.between_takenTo hbetween htaken
    cases key <;> exact State.becomes_commit_then hs1 { images := [freedImage s1.store _] } fun _ => rfl
  · exact State.lowestFree_respond_reclaim hlt hbelow key _ _ _

end Sys2Proof.Machine
end

section
/-! PROOFS. The laws of every step: what the commands that are work of the part keep, by `Steady`, and what the passing
of time and the supplies change. -/

namespace Sys2Proof.Machine

/-! ### Commands that are work of the part, and those of the clock and the supplies -/

/-- The commands by which the clock acts on the part. -/
def isClock : Instr → Bool
  | .entryFallsDue _ => true
  | .timebaseAdvance _ => true
  | _ => false

/-- The commands by which the supplies and RESET# act on the part. -/
def isSupply : Instr → Bool
  | .retainedPor _ => true
  | .vbatLoss => true
  | .vddLoss _ _ => true
  | .mainReset _ _ _ _ => true
  | _ => false

/-- Every command answers a next state: the part has no fault and no refusal. -/
theorem exec_answers (i : Instr) (s : State) : ∃ t, exec i s = .next t := by
  cases i <;> exact ⟨_, rfl⟩

/-- The transactions of the ports. -/
def isTransaction : Instr → Bool
  | .statusRead _ _ _ _ => true
  | .responseRead _ _ _ => true
  | .firstFrameByte _ _ _ => true
  | .frameEnd _ _ => true
  | _ => false

/-- The commands that are the part's own: its events, its internal requests and the sweep. -/
def isInternal (i : Instr) : Bool :=
  (frameOf i).isNone && !isClock i && !isSupply i && !isTransaction i

/-- A law that the work of a take and the end of the sweep keep is kept by every internal command. -/
theorem Steady.exec_internal {P : State → Prop} (h : Steady P) (hready : ∀ s, P s → P (State.becomeReady s))
    {i : Instr} (hi : isInternal i = true) {s t : State} (hs : P s) (he : Machine.exec i s = .next t) : P t := by
  cases i <;> simp only [isInternal, frameOf, isClock, isSupply, isTransaction, Option.isNone_some,
    Option.isNone_none, Bool.not_true, Bool.and_false, Bool.false_and, Bool.false_eq_true] at hi <;>
    obtain rfl := Host.Outcome.next.inj he
  case grantExpiryEvent n tok d => exact h.takeGrantExpiry n tok d s hs
  case waitDeadlineEvent id d => exact h.takeWaitDeadline id d s hs
  case heartbeatEvent c d => exact h.takeHeartbeat c d s hs
  case graceEvent c d => exact h.takeGrace c d s hs
  case lapseRequest k c => exact h.takeLapse k c s hs
  case scrubStepPending => exact h.takeScrubPending s hs
  case scrubStep => exact h.takeScrubStep s hs
  case auditStep => exact h.takeAuditStep s hs
  case restartSweep => exact h.takeSweep hready s hs

/-- A transaction changes its port, and the arbiter's list behind it, or nothing (R177 to R181). -/
theorem exec_transaction {i : Instr} (hi : isTransaction i = true) {s t : State}
    (he : Machine.exec i s = .next t) :
    t = s ∨ (s.isActive ∧ ∃ p x, t = s.setPort p x ∧ (x.state = .frameHeld ↔ (s.port p).state = .frameHeld)) ∨
      (s.isActive ∧ ∃ p x, t = (s.setPort p x).setArbiter (s.main.arbiter ++ [p]) ∧ x.state = .frameHeld ∧
        (s.port p).state = .receiving) := by
  have hactive : ∀ {p a}, s.answers p a = true → s.isActive := by
    intro p a h
    simp only [State.answers, Bool.and_eq_true, decide_eq_true_eq] at h
    exact h.1.1
  cases i <;> simp only [isTransaction, Bool.false_eq_true] at hi <;> obtain rfl := Host.Outcome.next.inj he
  case statusRead p a l n =>
    unfold takeStatusRead
    split
    · rename_i h
      refine .inr (.inl ⟨hactive h, p, _, rfl, ?_⟩)
      split <;> exact Iff.rfl
    · exact .inl rfl
  case responseRead p a n =>
    unfold takeResponseRead
    split
    · rename_i h
      refine .inr (.inl ⟨hactive h, p, _, rfl, ?_⟩)
      unfold Port.afterRead
      split
      · rename_i hr
        split <;> simp [hr]
      · exact Iff.rfl
    · exact .inl rfl
  case firstFrameByte p a b =>
    unfold takeFirstByte
    split
    · rename_i h
      refine .inr (.inl ⟨hactive h, p, _, rfl, ?_⟩)
      unfold Port.firstByte
      split <;> simp_all
    · exact .inl rfl
  case frameEnd p more =>
    unfold takeFrameEnd
    dsimp only
    split
    · rename_i h
      simp only [Bool.and_eq_true, decide_eq_true_eq, beq_iff_eq] at h
      split
      · exact .inr (.inr ⟨h.1.1, p, _, rfl, rfl, h.2⟩)
      · exact .inr (.inl ⟨h.1.1, p, _, rfl, by simp [h.2]⟩)
    · exact .inl rfl

/-- Every command is a frame command, a transaction, an internal command, or acts from outside. -/
theorem isInternal_of {i : Instr} (hf : frameOf i = none) (hclock : isClock i = false)
    (hsupply : isSupply i = false) (htrans : isTransaction i = false) : isInternal i = true := by
  simp only [isInternal, hf, hclock, hsupply, htrans, Option.isNone_none, Bool.not_false, Bool.and_true]

/-- A law that the work of a take, the updates of the ports and the end of the sweep keep is kept by every command that
does not act from outside. -/
theorem Steady.exec {P : State → Prop} (h : Steady P) (hport : ∀ s p x, P s → P (State.setPort s p x))
    (harb : ∀ s x, P s → P (State.setArbiter s x)) (hready : ∀ s, P s → P (State.becomeReady s))
    {i : Instr} (hclock : isClock i = false) (hsupply : isSupply i = false) {s t : State} (hs : P s)
    (he : Machine.exec i s = .next t) : P t := by
  cases hf : frameOf i with
  | some q =>
    obtain ⟨cmd, f⟩ := q
    by_cases ho : s.offers i f.port
    · obtain ⟨s1, r, h1, h2⟩ := exec_frame h hf ho (h.taken _ _ (hport _ _ _ (harb _ _ hs)))
      obtain rfl := Host.Outcome.next.inj (h1.symm.trans he)
      exact hport _ _ _ h2
    · obtain rfl := Host.Outcome.next.inj ((exec_frame_idle hf ho).symm.trans he)
      exact hs
  | none =>
    cases htrans : isTransaction i with
    | true =>
      obtain rfl | ⟨-, p, x, rfl, -⟩ | ⟨-, p, x, rfl, -⟩ := exec_transaction htrans he
      · exact hs
      · exact hport _ _ _ hs
      · exact harb _ _ (hport _ _ _ hs)
    | false => exact h.exec_internal hready (isInternal_of hf hclock hsupply htrans) hs he

/-- While the part is not ACTIVE, nothing but the clock and the supplies has an occasion (R163). -/
theorem exec_inactive {i : Instr} (hclock : isClock i = false) (hsupply : isSupply i = false) {s t : State}
    (ha : ¬ s.isActive) (he : Machine.exec i s = .next t) : t = s := by
  have hready : ¬ s.isReady := fun h => ha (.inr h)
  have hrestarting : ¬ s.power.state = .restarting := fun h => ha (.inl h)
  cases hf : frameOf i with
  | some q => exact Host.Outcome.next.inj (he.symm.trans (exec_frame_idle hf fun ho => hready ho.1))
  | none =>
    cases htrans : isTransaction i with
    | true =>
      obtain rfl | ⟨h, -⟩ | ⟨h, -⟩ := exec_transaction htrans he
      · rfl
      · exact absurd h ha
      · exact absurd h ha
    | false =>
      have hi := isInternal_of hf hclock hsupply htrans
      cases i <;> simp only [isInternal, frameOf, isClock, isSupply, isTransaction, Option.isNone_some,
        Option.isNone_none, Bool.not_true, Bool.and_false, Bool.false_and, Bool.false_eq_true] at hi <;>
        obtain rfl := Host.Outcome.next.inj he
      case grantExpiryEvent n tok d =>
        simp only [takeGrantExpiry, State.nextDirectoryEvent, hready, false_and, if_false]
      case waitDeadlineEvent id d =>
        simp only [takeWaitDeadline, State.nextDirectoryEvent, hready, false_and, if_false]
      case heartbeatEvent c d => simp only [takeHeartbeat, State.nextSessionEvent, hready, if_false]
      case graceEvent c d => simp only [takeGrace, State.nextSessionEvent, hready, if_false]
      case lapseRequest k c => simp only [takeLapse, hready, false_and, if_false]
      case scrubStepPending => simp only [takeScrubPending, hready, false_and, if_false]
      case scrubStep => simp only [takeScrubStep, hready, false_and, if_false]
      case auditStep => simp only [takeAuditStep, hready, false_and, if_false]
      case restartSweep => simp only [takeSweep, hrestarting, false_and, if_false]

/-! ### The count and the stopped work -/

theorem Timebase.tick_advance (tb : Timebase) (cycles : Nat) :
    (tb.advance cycles).tick.toNat = tb.tick.toNat + tb.advances cycles := by
  have hle : tb.tick.toNat + tb.advances cycles < 2 ^ 40 := by
    have := tb.tick.isLt
    unfold Timebase.advances
    omega
  simp only [Timebase.advance, BitVec.toNat_ofNat]
  exact Nat.mod_eq_of_lt hle

/-- The passing of crystal cycles never takes the count back (R90). -/
theorem Timebase.tick_le_advance (tb : Timebase) (cycles : Nat) : tb.tick ≤ (tb.advance cycles).tick := by
  rw [BitVec.le_def, Timebase.tick_advance]
  exact Nat.le_add_right _ _

/-- Word writes keep the store's canonical form, wherever a loss of power cuts them. -/
theorem steady_canonical : Steady State.canonical where
  writes _ _ h hws := State.writes_induct (P := fun st => st.canonical = true) hws h
  mon _ _ h _ := h
  index _ _ h _ := h
  free _ _ h := h
  quar _ _ h _ := h
  pool _ _ h _ := h
  queues _ _ h _ := h
  sessV _ _ h _ := h
  notices _ _ h _ _ := h
  attn _ _ h := h
  audit _ _ h := h
  insert _ _ _ _ h := h
  move _ _ _ _ h := h
  remove _ _ h := h
  clear _ h := h

/-- What stopped work leaves in the store is in canonical form (R166). -/
theorem State.canonical_stopped {s : State} (h : s.canonical) (w : Work) (n : Nat) :
    (s.stopped w n).canonical :=
  steady_canonical.work (fun _ _ _ h => h) (fun _ _ h => h) (fun _ h => h) w _ h

/-! ### What the clock and the supplies can do -/

/-- The clock changes the count, which never goes back, the schedule and the scrub control (R89, R96, R150). -/
theorem exec_clock {i : Instr} (hi : isClock i = true) {s t : State} (he : Machine.exec i s = .next t) :
    ∃ tb sched mon, t = ((s.setTb tb).setSched sched).setMon mon ∧ s.now ≤ tb.tick ∧
      mon.corrected = s.main.mon.corrected ∧ mon.uncorrected = s.main.mon.uncorrected := by
  have hself : ∃ tb sched mon, s = ((s.setTb tb).setSched sched).setMon mon ∧ s.now ≤ tb.tick ∧
      mon.corrected = s.main.mon.corrected ∧ mon.uncorrected = s.main.mon.uncorrected :=
    ⟨s.tb, s.main.sched, s.main.mon, rfl, BitVec.le_refl _, rfl, rfl⟩
  cases i <;> simp only [isClock, Bool.false_eq_true] at hi <;> obtain rfl := Host.Outcome.next.inj he
  case entryFallsDue r =>
    unfold takeFallsDue
    split
    · exact ⟨s.tb, s.main.sched.map fun e => if e.ref = r then e.reached s.now else e, s.main.mon, rfl,
        BitVec.le_refl _, rfl, rfl⟩
    · exact hself
  case timebaseAdvance n =>
    have hle := Timebase.tick_le_advance s.tb n
    unfold takeAdvance
    dsimp only
    split
    · exact hself
    · split
      · split
        · exact ⟨_, _, _, rfl, hle, rfl, rfl⟩
        · exact ⟨_, schedFallDue (s.tb.advance n).tick s.main.sched, s.main.mon, rfl, hle, rfl, rfl⟩
      · exact ⟨_, s.main.sched, s.main.mon, rfl, hle, rfl, rfl⟩

/-- What the supplies and RESET# can do: the main domain stays as it is in its power state, is without VDD, or begins a
reset; the store is written by stopped work or by a retained POR (R163 to R166). -/
theorem exec_supply {i : Instr} (hi : isSupply i = true) {s t : State} (he : Machine.exec i s = .next t) :
    ∃ tb st m pw, t = (((s.setTb tb).setStore st).setMain m).setPower pw ∧
      (s.canonical → st.canonical = true) ∧
      ((m = s.main ∧ pw.state = s.power.state ∧ tb = s.tb) ∨ m = Main.empty ∨ ∃ b x, m = Main.atReset b x) ∧
      ((∀ x, i ≠ .retainedPor x) → i ≠ .vbatLoss → tb = s.tb) := by
  have hpower : ∀ pw : Power, pw.state = s.power.state → ∃ tb st m pw', s.setPower pw =
      (((s.setTb tb).setStore st).setMain m).setPower pw' ∧ (s.canonical → st.canonical = true) ∧
      ((m = s.main ∧ pw'.state = s.power.state ∧ tb = s.tb) ∨ m = Main.empty ∨ ∃ b x, m = Main.atReset b x) ∧
      ((∀ x, i ≠ .retainedPor x) → i ≠ .vbatLoss → tb = s.tb) := fun pw h =>
    ⟨s.tb, s.store, s.main, pw, rfl, id, .inl ⟨rfl, h, rfl⟩, fun _ _ => rfl⟩
  have hpor : Store.por.canonical = true := by decide
  cases i <;> simp only [isSupply, Bool.false_eq_true] at hi <;> obtain rfl := Host.Outcome.next.inj he
  case retainedPor x =>
    unfold takePor
    dsimp only
    split
    · exact hpower s.power rfl
    · split
      · exact ⟨_, _, _, _, rfl, fun _ => hpor, .inr (.inr ⟨_, _, rfl⟩), fun h => absurd rfl (h x)⟩
      · exact ⟨_, _, _, _, rfl, fun _ => hpor, .inr (.inl rfl), fun h => absurd rfl (h x)⟩
  case vbatLoss =>
    unfold takeVbatLoss
    split
    · exact ⟨_, _, _, _, rfl, fun _ => hpor, .inr (.inl rfl), fun _ h => absurd rfl h⟩
    · exact hpower s.power rfl
  case vddLoss w n =>
    unfold takeVddLoss
    dsimp only
    split
    · split
      · exact ⟨s.tb, _, _, _, rfl, fun h => State.canonical_stopped h w n, .inr (.inl rfl), fun _ _ => rfl⟩
      · exact ⟨s.tb, s.store, _, _, rfl, id, .inr (.inl rfl), fun _ _ => rfl⟩
    · exact hpower s.power rfl
  case mainReset e x w n =>
    cases e with
    | vddReturn =>
      simp only [takeReset, takeVddReturn]
      split
      · exact hpower s.power rfl
      · split
        · exact ⟨s.tb, s.store, _, _, rfl, id, .inr (.inr ⟨_, _, rfl⟩), fun _ _ => rfl⟩
        · exact hpower _ rfl
    | resetLow =>
      simp only [takeReset, takeResetLow]
      split
      · split
        · exact ⟨s.tb, _, _, _, rfl, fun h => State.canonical_stopped h w n, .inr (.inr ⟨_, _, rfl⟩),
            fun _ _ => rfl⟩
        · exact hpower _ rfl
      · exact hpower s.power rfl
    | resetHigh => exact hpower _ rfl

/-- A step is the command at the front of the queue, behind the update of the queue, or nothing. -/
theorem step_keeps {P : State → Prop} (hpending : ∀ s x, P s → P (State.setPending s x))
    (hexec : ∀ i s t, P s → Machine.exec i s = .next t → P t) {s t : State} (hs : P s)
    (h : step s = .next t) : P t := by
  unfold step at h
  split at h
  · obtain rfl := Host.Outcome.next.inj h
    exact hs
  · exact hexec _ _ _ (hpending _ _ hs) h

/-! ### The queue of commands -/

/-- Settles O1: both clauses are the two branches of the step. -/
theorem stepTakesTheFront : Obligations.StepTakesTheFront := by
  constructor
  · intro c rest s h
    simp only [step, h]
  · intro s h
    simp only [step, h]

/-! ### The queue, the tick count and the cut -/

/-- What the work of a take leaves of the queue, the count and, where none was under way, of a loss of power. -/
def State.movedFrom (s0 s : State) : Prop :=
  s.pending = s0.pending ∧ s.tb = s0.tb ∧ (s0.cut = none → s.cut = none)

theorem steady_movedFrom (s0 : State) : Steady (State.movedFrom s0) where
  writes _ ws h _ := ⟨h.1, h.2.1, fun hc => State.writes_cut_none (h.2.2 hc) ws⟩
  mon _ _ h _ := h
  index _ _ h _ := h
  free _ _ h := h
  quar _ _ h _ := h
  pool _ _ h _ := h
  queues _ _ h _ := h
  sessV _ _ h _ := h
  notices _ _ h _ _ := h
  attn _ _ h := h
  audit _ _ h := h
  insert _ _ _ _ h := h
  move _ _ _ _ h := h
  remove _ _ h := h
  clear _ h := h

theorem State.movedFrom_refl (s : State) : s.movedFrom s := ⟨rfl, rfl, id⟩

/-- Settles O2: a command that is work of the part moves neither queue, count nor cut, for none of the updates of
`Steady` does; the clock and the supplies leave the queue and the cut, and the count but where the statement excepts it. -/
theorem everyCommandAnswersAState : Obligations.EveryCommandAnswersAState := by
  intro i s
  obtain ⟨t, ht⟩ := exec_answers i s
  suffices h : t.pending = s.pending ∧ (s.cut = none → t.cut = none) ∧
      ((∀ x, i ≠ .retainedPor x) → i ≠ .vbatLoss → s.now ≤ t.now) from
    ⟨t, ht, h.1, h.2.1, h.2.2, fun cmd f hf ho => Host.Outcome.next.inj (ht.symm.trans (exec_frame_idle hf ho))⟩
  cases hclock : isClock i with
  | true =>
    obtain ⟨tb, sched, mon, rfl, hle, -⟩ := exec_clock hclock ht
    exact ⟨rfl, id, fun _ _ => hle⟩
  | false =>
    cases hsupply : isSupply i with
    | true =>
      obtain ⟨tb, st, m, pw, rfl, -, -, htb⟩ := exec_supply hsupply ht
      exact ⟨rfl, id, fun h1 h2 => by rw [htb h1 h2]; exact BitVec.le_refl _⟩
    | false =>
      obtain ⟨hp, htb, hc⟩ := (steady_movedFrom s).exec (fun _ _ _ h => h) (fun _ _ h => h)
        (fun _ h => h) hclock hsupply s.movedFrom_refl ht
      exact ⟨hp, hc, fun _ _ => by rw [State.now, State.now, htb]; exact BitVec.le_refl _⟩

/-! ### The canonical form -/

theorem Main.canonical_iff (m : Main) : m.canonical = true ↔
    Tab.rising m.index = true ∧ Tab.rising m.quar = true ∧ Tab.rising m.pool = true ∧
    Tab.wf [] m.queues = true ∧ Tab.wf SessVol.none m.sessV = true ∧
    Tab.wf NoticeQueue.empty m.notices = true := by
  simp only [Main.canonical, Bool.and_eq_true, and_assoc]

/-- An update of the main domain keeps a state between steps where it keeps the tables' canonical form. -/
theorem State.between_of_main {s t : State} (h : s.between) (hstore : t.store = s.store)
    (hcut : t.cut = s.cut) (hm : s.main.canonical = true → t.main.canonical = true) : t.between :=
  ⟨by unfold State.canonical; rw [hstore]; exact h.canonical, hm h.tables, hcut.trans h.uncut⟩

theorem steady_between : Steady State.between where
  writes s ws h hws := ⟨State.writes_induct (P := fun st => st.canonical = true) hws h.canonical,
    h.tables, State.writes_cut_none h.uncut ws⟩
  mon _ _ h _ := State.between_of_main h rfl rfl id
  index s t h ht := State.between_of_main h rfl rfl fun hm => by
    rw [Main.canonical_iff] at hm ⊢
    exact ⟨ht hm.1, hm.2⟩
  free _ _ h := State.between_of_main h rfl rfl id
  quar s t h ht := State.between_of_main h rfl rfl fun hm => by
    rw [Main.canonical_iff] at hm ⊢
    exact ⟨hm.1, ht hm.2.1, hm.2.2⟩
  pool s t h ht := State.between_of_main h rfl rfl fun hm => by
    rw [Main.canonical_iff] at hm ⊢
    exact ⟨hm.1, hm.2.1, ht hm.2.2.1, hm.2.2.2⟩
  queues s t h ht := State.between_of_main h rfl rfl fun hm => by
    rw [Main.canonical_iff] at hm ⊢
    exact ⟨hm.1, hm.2.1, hm.2.2.1, ht hm.2.2.2.1, hm.2.2.2.2⟩
  sessV s t h ht := State.between_of_main h rfl rfl fun hm => by
    rw [Main.canonical_iff] at hm ⊢
    exact ⟨hm.1, hm.2.1, hm.2.2.1, hm.2.2.2.1, ht hm.2.2.2.2.1, hm.2.2.2.2.2⟩
  notices s t h ht _ := State.between_of_main h rfl rfl fun hm => by
    rw [Main.canonical_iff] at hm ⊢
    exact ⟨hm.1, hm.2.1, hm.2.2.1, hm.2.2.2.1, hm.2.2.2.2.1, ht hm.2.2.2.2.2⟩
  attn _ _ h := State.between_of_main h rfl rfl id
  audit _ _ h := State.between_of_main h rfl rfl id
  insert _ _ _ _ h := State.between_of_main h rfl rfl id
  move _ _ _ _ h := State.between_of_main h rfl rfl id
  remove _ _ h := State.between_of_main h rfl rfl id
  clear _ h := State.between_of_main h rfl rfl id

theorem State.between_becomeReady {s : State} (h : s.between) : s.becomeReady.between :=
  State.between_of_main h rfl rfl id

theorem exec_between {i : Instr} {s t : State} (hs : s.between) (he : exec i s = .next t) : t.between := by
  cases hclock : isClock i with
  | true =>
    obtain ⟨tb, sched, mon, rfl, -⟩ := exec_clock hclock he
    exact State.between_of_main hs rfl rfl id
  | false =>
    cases hsupply : isSupply i with
    | true =>
      obtain ⟨tb, st, m, pw, rfl, hst, hm, -⟩ := exec_supply hsupply he
      refine ⟨hst hs.canonical, ?_, hs.uncut⟩
      obtain ⟨rfl, -⟩ | rfl | ⟨b, x, rfl⟩ := hm
      · exact hs.tables
      · rfl
      · rfl
    | false =>
      exact steady_between.exec (fun _ _ _ h => State.between_of_main h rfl rfl id)
        (fun _ _ h => State.between_of_main h rfl rfl id) (fun _ => State.between_becomeReady) hclock hsupply hs he

/-- Settles O3: the work of the part keeps the canonical form because every update of `Steady` does; the supplies
set the store to its retained-POR value, keep it, or leave what stopped work has written. -/
theorem canonicalFormKept : Obligations.CanonicalFormKept := fun _ _ hs h =>
  step_keeps (fun _ _ h => State.between_of_main h rfl rfl id) (fun _ _ _ => exec_between) hs h

/-! ### The counts -/

/-- The counts of the notice queues and of the Store Monitor are in their ranges (R107, R145). -/
def State.countsInRange (s : State) : Prop := s.noticesBounded ∧ s.countsBounded

theorem steady_countsInRange : Steady State.countsInRange where
  writes _ _ h _ := h
  mon _ _ h hx := ⟨h.1, hx h.2⟩
  index _ _ h _ := h
  free _ _ h := h
  quar _ _ h _ := h
  pool _ _ h _ := h
  queues _ _ h _ := h
  sessV _ _ h _ := h
  notices _ _ h _ hx := ⟨hx h.1, h.2⟩
  attn _ _ h := h
  audit _ _ h := h
  insert _ _ _ _ h := h
  move _ _ _ _ h := h
  remove _ _ h := h
  clear _ h := h

theorem State.countsInRange_of_reset {s : State} (hn : s.main.notices = []) (hm : s.main.mon = Monitor.reset) :
    s.countsInRange := by
  unfold State.countsInRange State.noticesBounded State.countsBounded
  rw [hn, hm]
  exact ⟨nofun, Nat.zero_le _, Nat.zero_le _⟩

theorem exec_countsInRange {i : Instr} {s t : State} (hs : s.countsInRange) (he : exec i s = .next t) :
    t.countsInRange := by
  cases hclock : isClock i with
  | true =>
    obtain ⟨tb, sched, mon, rfl, -, hc, hu⟩ := exec_clock hclock he
    exact ⟨hs.1, hc ▸ hs.2.1, hu ▸ hs.2.2⟩
  | false =>
    cases hsupply : isSupply i with
    | true =>
      obtain ⟨tb, st, m, pw, rfl, -, hm, -⟩ := exec_supply hsupply he
      obtain ⟨rfl, -⟩ | rfl | ⟨b, x, rfl⟩ := hm
      · exact hs
      · exact State.countsInRange_of_reset rfl rfl
      · exact State.countsInRange_of_reset rfl rfl
    | false =>
      exact steady_countsInRange.exec (fun _ _ _ h => h) (fun _ _ h => h) (fun _ h => h) hclock hsupply hs he

/-- Settles O4: every update of `Steady` keeps both ranges, the clock counts ticks alone, and a main domain that ends or
begins has its counts at 0. -/
theorem countsStayInRange : Obligations.CountsStayInRange := fun _ _ hn hc h =>
  step_keeps (P := State.countsInRange) (fun _ _ h => h) (fun _ _ _ => exec_countsInRange) ⟨hn, hc⟩ h

/-! ### The arbiter's list -/

theorem Ports.get_set (ps : Ports) (p q : PortId) (x : Port) :
    (ps.set p x).get q = if p = q then x else ps.get q := by
  cases p <;> cases q <;> rfl

theorem State.port_setPort (s : State) (p q : PortId) (x : Port) :
    (s.setPort p x).port q = if p = q then x else s.port q := Ports.get_set s.main.ports p q x

/-- The ports and the arbiter's list are as given. -/
def State.portsAre (ports : Ports) (arbiter : List PortId) (s : State) : Prop :=
  s.main.ports = ports ∧ s.main.arbiter = arbiter

/-- The work of a take leaves the ports and the arbiter's list to the frame's reception and its response. -/
theorem steady_portsAre (ports : Ports) (arbiter : List PortId) : Steady (State.portsAre ports arbiter) where
  writes _ _ h _ := h
  mon _ _ h _ := h
  index _ _ h _ := h
  free _ _ h := h
  quar _ _ h _ := h
  pool _ _ h _ := h
  queues _ _ h _ := h
  sessV _ _ h _ := h
  notices _ _ h _ _ := h
  attn _ _ h := h
  audit _ _ h := h
  insert _ _ _ _ h := h
  move _ _ _ _ h := h
  remove _ _ h := h
  clear _ h := h

theorem State.arbiterAgrees_congr {s t : State} (h : s.arbiterAgrees) (hp : t.main.ports = s.main.ports)
    (ha : t.main.arbiter = s.main.arbiter) : t.arbiterAgrees := by
  simp only [State.arbiterAgrees, State.port, hp, ha]
  exact h

/-- The reception of a frame puts its port at the tail of the list, or leaves both as they were. -/
theorem exec_transaction_arbiterAgrees {i : Instr} (hi : isTransaction i = true) {s t : State}
    (hs : s.arbiterAgrees) (he : exec i s = .next t) : t.arbiterAgrees := by
  obtain rfl | ⟨-, p, x, rfl, hx⟩ | ⟨-, p, x, rfl, hx, hr⟩ := exec_transaction hi he
  · exact hs
  · refine ⟨hs.1, fun q => ?_⟩
    rw [State.port_setPort]
    split
    · rename_i hpq
      subst hpq
      exact (hs.2 p).trans hx.symm
    · exact hs.2 q
  · have hp : p ∉ s.main.arbiter := fun h => by
      have h1 := (hs.2 p).1 h
      rw [hr] at h1
      cases h1
    refine ⟨?_, fun q => ?_⟩
    · show (s.main.arbiter ++ [p]).Nodup
      rw [List.nodup_append]
      exact ⟨hs.1, List.nodup_singleton p, fun x hx y hy hxy => hp (List.mem_singleton.1 hy ▸ hxy ▸ hx)⟩
    · show q ∈ s.main.arbiter ++ [p] ↔ ((s.setPort p x).port q).state = .frameHeld
      rw [State.port_setPort, List.mem_append, List.mem_singleton]
      split
      · rename_i hpq
        simp [hpq, hx]
      · rename_i hpq
        rw [hs.2 q]
        exact ⟨fun h => h.elim id fun h => absurd h.symm hpq, .inl⟩

/-- A frame taken leaves the list, and its port is not FRAME_HELD behind its response (R183, R186). -/
theorem exec_frame_arbiterAgrees {i : Instr} {cmd : Byte} {f : Frame} (hi : frameOf i = some (cmd, f))
    {s t : State} (hs : s.arbiterAgrees) (he : exec i s = .next t) : t.arbiterAgrees := by
  by_cases ho : s.offers i f.port
  · obtain ⟨s1, r, h1, hports, harb⟩ := exec_frame (steady_portsAre (s.accept f.port).main.ports
      (s.accept f.port).main.arbiter) hi ho ⟨rfl, rfl⟩
    obtain rfl := Host.Outcome.next.inj (h1.symm.trans he)
    obtain ⟨-, hhead, -⟩ := ho
    obtain ⟨hnodup, hmem⟩ := hs
    have htail : s.main.arbiter = f.port :: s.main.arbiter.tail := by
      cases h : s.main.arbiter with
      | nil => rw [h] at hhead; cases hhead
      | cons p l => rw [h] at hhead; cases hhead; rfl
    have harb1 : (s1.respond f.port cmd r).main.arbiter = s.main.arbiter.tail := harb
    rw [htail, List.nodup_cons] at hnodup
    refine ⟨harb1 ▸ hnodup.2, fun q => ?_⟩
    rw [harb1, State.respond, State.port_setPort]
    split
    · rename_i hq
      subst hq
      simp [hnodup.1]
    · rename_i hq
      have hport : s1.port q = s.port q := by
        rw [State.port, hports]
        show ((s.main.ports.set f.port _).get q) = _
        rw [Ports.get_set, if_neg hq]
        rfl
      rw [hport, ← hmem q, htail, List.mem_cons, List.tail_cons]
      exact ⟨.inr, fun h => h.resolve_left fun h => hq h.symm⟩
  · obtain rfl := Host.Outcome.next.inj ((exec_frame_idle hi ho).symm.trans he)
    exact hs

theorem exec_arbiterAgrees {i : Instr} {s t : State} (hs : s.arbiterAgrees) (he : exec i s = .next t) :
    t.arbiterAgrees := by
  cases hclock : isClock i with
  | true =>
    obtain ⟨tb, sched, mon, rfl, -⟩ := exec_clock hclock he
    exact hs
  | false =>
    cases hsupply : isSupply i with
    | true =>
      have hreset : ∀ p, p ∈ ([] : List PortId) ↔ (Main.empty.ports.get p).state = .frameHeld := by
        intro p
        cases p <;> simp [Ports.get]
      obtain ⟨tb, st, m, pw, rfl, -, hm, -⟩ := exec_supply hsupply he
      obtain ⟨rfl, -⟩ | rfl | ⟨b, x, rfl⟩ := hm
      · exact hs
      · exact ⟨List.nodup_nil, hreset⟩
      · exact ⟨List.nodup_nil, hreset⟩
    | false =>
      cases hf : frameOf i with
      | some q => exact exec_frame_arbiterAgrees hf hs he
      | none =>
        cases htrans : isTransaction i with
        | true => exact exec_transaction_arbiterAgrees htrans hs he
        | false =>
          obtain ⟨hp, ha⟩ := (steady_portsAre s.main.ports s.main.arbiter).exec_internal (fun _ h => h)
            (isInternal_of hf hclock hsupply htrans) ⟨rfl, rfl⟩ he
          exact State.arbiterAgrees_congr hs hp ha

/-- Settles O5: only the reception of a frame, its taking and a reset touch the list or a port's FRAME_HELD state, and each
of the three touches both. -/
theorem arbiterNamesHeldFrames : Obligations.ArbiterNamesHeldFrames := fun _ _ hs h =>
  step_keeps (fun _ _ h => h) (fun _ _ _ => exec_arbiterAgrees) hs h

end Sys2Proof.Machine
end

section
/-! PROOFS. Chapter 5: the requests of the schedule, and the order that every step keeps (R92, R93, R96). -/

namespace Sys2Proof.Machine

/-! ### Where a request places an entry (R93) -/

/-- An entry is placed behind every entry of a rising list with a deadline at or before its own, and before the rest. -/
theorem schedPlace_eq (e : Entry) : ∀ {es : List Entry}, es.Pairwise (fun a b => a.deadline ≤ b.deadline) →
    ∃ pre post, schedPlace e es = pre ++ e :: post ∧ pre ++ post = es ∧ (∀ x ∈ pre, x.deadline ≤ e.deadline) ∧
      ∀ x ∈ post, e.deadline < x.deadline
  | [], _ => ⟨[], [], rfl, rfl, nofun, nofun⟩
  | x :: xs, h => by
    obtain ⟨hx, hxs⟩ := List.pairwise_cons.1 h
    by_cases hle : x.deadline ≤ e.deadline
    · obtain ⟨pre, post, h1, h2, h3, h4⟩ := schedPlace_eq e hxs
      refine ⟨x :: pre, post, ?_, by rw [List.cons_append, h2], ?_, h4⟩
      · rw [schedPlace, if_pos hle, h1, List.cons_append]
      · exact List.forall_mem_cons.2 ⟨hle, h3⟩
    · have hlt : e.deadline < x.deadline := BitVec.not_le.1 hle
      refine ⟨[], x :: xs, by rw [schedPlace, if_neg hle]; rfl, rfl, nofun, ?_⟩
      exact List.forall_mem_cons.2 ⟨hlt, fun y hy => Nat.lt_of_lt_of_le hlt (hx y hy)⟩

/-- A remove of a reference that no entry has does nothing (R93). -/
theorem schedDrop_of_absent {r : Ref} {es : List Entry} (h : ∀ e ∈ es, e.ref ≠ r) : schedDrop r es = es :=
  List.filter_eq_self.2 fun e he => by simp [h e he]

/-- With one entry per reference, the entry of a reference is the one found (R93). -/
theorem schedFind_of_mem {r : Ref} {es : List Entry} (hn : (es.map Entry.ref).Nodup) {e : Entry} (he : e ∈ es)
    (hr : e.ref = r) : schedFind r es = some e := by
  induction es with
  | nil => cases he
  | cons x xs ih =>
    obtain ⟨hx, hxs⟩ := List.nodup_cons.1 hn
    unfold schedFind at ih ⊢
    rcases List.mem_cons.1 he with rfl | he
    · simp [hr]
    · have hne : x.ref ≠ r := fun h => hx (h.trans hr.symm ▸ List.mem_map_of_mem he)
      rw [List.find?_cons_of_neg (by simpa using hne)]
      exact ih hxs he

theorem schedFind_of_absent {r : Ref} {es : List Entry} (h : ∀ e ∈ es, e.ref ≠ r) : schedFind r es = none :=
  List.find?_eq_none.2 fun e he => by simpa using h e he

theorem schedDrop_pairwise {es : List Entry} (h : es.Pairwise (fun a b => a.deadline ≤ b.deadline)) (r : Ref) :
    (schedDrop r es).Pairwise (fun a b => a.deadline ≤ b.deadline) := List.Pairwise.filter _ h

/-- Settles O60: an insert places its entry in what the remove leaves, and a move is the insert with the kind of the entry
that the reference has. -/
theorem scheduleRequestsKeepTheOrder : Obligations.ScheduleRequestsKeepTheOrder := by
  intro now k r d es hsorted hnodup
  refine ⟨schedPlace_eq _ (schedDrop_pairwise hsorted r), fun e he hr => ?_, fun h => ?_, rfl,
    schedDrop_of_absent⟩
  · rw [schedMove, schedFind_of_mem hnodup he hr]
    rfl
  · rw [schedMove, schedFind_of_absent h]
    rfl

/-! ### The order of the schedule -/

/-- A schedule in its order at a tick: rising deadlines, one entry per reference, DUE exactly from the deadline on
(R92, R93, R96). -/
structure Scheduled (now : Tick) (es : List Entry) : Prop where
  rising : es.Pairwise fun a b => a.deadline ≤ b.deadline
  single : (es.map Entry.ref).Nodup
  due    : ∀ e ∈ es, e.due = decide (e.deadline ≤ now)

theorem Scheduled.nil (now : Tick) : Scheduled now [] := ⟨List.Pairwise.nil, List.nodup_nil, nofun⟩

theorem Scheduled.drop {now : Tick} {es : List Entry} (h : Scheduled now es) (r : Ref) :
    Scheduled now (schedDrop r es) :=
  ⟨schedDrop_pairwise h.rising r, h.single.sublist (List.filter_sublist.map _),
    fun e he => h.due e (List.mem_of_mem_filter he)⟩

theorem Scheduled.insert {now : Tick} {es : List Entry} (h : Scheduled now es) (k : Kind) (r : Ref) (d : Tick) :
    Scheduled now (schedInsert now k r d es) := by
  obtain ⟨hrising, hsingle, hdue⟩ := h.drop r
  have habsent : ∀ e ∈ schedDrop r es, e.ref ≠ r := fun e he => by simpa using (List.mem_filter.1 he).2
  obtain ⟨pre, post, heq, hrest, hpre, hpost⟩ := schedPlace_eq
    { kind := k, ref := r, deadline := d, due := decide (d ≤ now) } hrising
  rw [← hrest] at hrising hsingle hdue habsent
  obtain ⟨h1, h2, h3⟩ := List.pairwise_append.1 hrising
  rw [schedInsert, heq]
  refine ⟨?_, ?_, ?_⟩
  · refine List.pairwise_append.2 ⟨h1, List.pairwise_cons.2 ⟨fun e he => BitVec.le_of_lt (hpost e he), h2⟩, ?_⟩
    intro e he e' he'
    rcases List.mem_cons.1 he' with rfl | he'
    · exact hpre e he
    · exact h3 e he e' he'
  · rw [List.map_append, List.map_cons, List.nodup_middle, List.nodup_cons, ← List.map_append]
    refine ⟨fun hmem => ?_, hsingle⟩
    obtain ⟨e, he, hr⟩ := List.mem_map.1 hmem
    exact habsent e he hr
  · intro e he
    rcases List.mem_append.1 he with he | he
    · exact hdue e (List.mem_append_left _ he)
    · rcases List.mem_cons.1 he with rfl | he
      · rfl
      · exact hdue e (List.mem_append_right _ he)

theorem Scheduled.move {now : Tick} {es : List Entry} (h : Scheduled now es) (k : Kind) (r : Ref) (d : Tick) :
    Scheduled now (schedMove now k r d es) := h.insert _ r d

@[simp] theorem Entry.reached_deadline (now : Tick) (e : Entry) : (e.reached now).deadline = e.deadline := by
  unfold Entry.reached; split <;> rfl

@[simp] theorem Entry.reached_ref (now : Tick) (e : Entry) : (e.reached now).ref = e.ref := by
  unfold Entry.reached; split <;> rfl

@[simp] theorem Entry.reached_kind (now : Tick) (e : Entry) : (e.reached now).kind = e.kind := by
  unfold Entry.reached; split <;> rfl

/-- An entry that was DUE from its deadline on at an earlier tick is so again once the count has reached a later one. -/
theorem Entry.reached_due {old now : Tick} {e : Entry} (hle : old ≤ now) (h : e.due = decide (e.deadline ≤ old)) :
    (e.reached now).due = decide (e.deadline ≤ now) := by
  unfold Entry.reached
  split
  · rename_i hd
    exact (decide_eq_true hd).symm
  · rename_i hd
    rw [h, decide_eq_false hd, decide_eq_false fun ho => hd (BitVec.le_trans ho hle)]

theorem Scheduled.fallDue {old now : Tick} {es : List Entry} (h : Scheduled old es) (hle : old ≤ now) :
    Scheduled now (schedFallDue now es) := by
  obtain ⟨hrising, hsingle, hdue⟩ := h
  refine ⟨?_, ?_, ?_⟩
  · rw [schedFallDue, List.pairwise_map]
    simpa only [Entry.reached_deadline] using hrising
  · rw [schedFallDue, List.map_map, show Entry.ref ∘ Entry.reached now = Entry.ref from
      funext fun e => Entry.reached_ref now e]
    exact hsingle
  · intro e he
    obtain ⟨x, hx, rfl⟩ := List.mem_map.1 he
    rw [Entry.reached_deadline]
    exact Entry.reached_due hle (hdue x hx)

/-- In a schedule in its order every entry that the count has reached is DUE already (R96). -/
theorem Scheduled.reached_eq {now : Tick} {es : List Entry} (h : Scheduled now es) {e : Entry} (he : e ∈ es) :
    e.reached now = e := by
  unfold Entry.reached
  split
  · rename_i hd
    rw [show true = e.due by rw [h.due e he, decide_eq_true hd]]
  · rfl

/-! ### Every step keeps the order -/

theorem State.scheduleOk_iff (s : State) : s.scheduleOk ↔
    Scheduled s.now s.main.sched ∧ (¬ s.isActive → s.main.sched = []) :=
  ⟨fun ⟨h1, h2, h3, h4⟩ => ⟨⟨h1, h2, h3⟩, h4⟩, fun ⟨⟨h1, h2, h3⟩, h4⟩ => ⟨h1, h2, h3, h4⟩⟩

/-- The part is ACTIVE and its schedule is in its order. -/
def State.activeScheduled (s : State) : Prop := Scheduled s.now s.main.sched ∧ s.isActive

theorem State.activeScheduled.ok {s : State} (h : s.activeScheduled) : s.scheduleOk :=
  s.scheduleOk_iff.2 ⟨h.1, fun ha => absurd h.2 ha⟩

theorem steady_activeScheduled : Steady State.activeScheduled where
  writes _ _ h _ := h
  mon _ _ h _ := h
  index _ _ h _ := h
  free _ _ h := h
  quar _ _ h _ := h
  pool _ _ h _ := h
  queues _ _ h _ := h
  sessV _ _ h _ := h
  notices _ _ h _ _ := h
  attn _ _ h := h
  audit _ _ h := h
  insert _ k r d h := ⟨h.1.insert k r d, h.2⟩
  move _ k r d h := ⟨h.1.move k r d, h.2⟩
  remove _ r h := ⟨h.1.drop r, h.2⟩
  clear _ h := ⟨Scheduled.nil _, h.2⟩

theorem State.scheduleOk_of_empty {s : State} (h : s.main.sched = []) : s.scheduleOk :=
  s.scheduleOk_iff.2 ⟨h ▸ Scheduled.nil _, fun _ => h⟩

/-- The falling due of one entry changes nothing in a schedule in its order. -/
theorem takeFallsDue_of_scheduled {s : State} (h : Scheduled s.now s.main.sched) (r : Ref) :
    takeFallsDue r s = s := by
  have hmap : (s.main.sched.map fun e => if e.ref = r then e.reached s.now else e) = s.main.sched := by
    rw [List.map_congr_left (g := id) fun e he => ?_, List.map_id]
    split
    · exact h.reached_eq he
    · rfl
  unfold takeFallsDue
  split
  · rw [hmap]; rfl
  · rfl

theorem takeAdvance_scheduleOk {s : State} (h : s.scheduleOk) (n : Nat) : (takeAdvance n s).scheduleOk := by
  obtain ⟨hsched, hidle⟩ := s.scheduleOk_iff.1 h
  unfold takeAdvance
  dsimp only
  split
  · exact h
  · split
    · rename_i ha
      have h1 := hsched.fallDue (Timebase.tick_le_advance s.tb n)
      split <;> exact State.activeScheduled.ok ⟨h1, ha⟩
    · rename_i ha
      exact State.scheduleOk_of_empty (hidle ha)

theorem exec_scheduleOk {i : Instr} {s t : State} (hs : s.scheduleOk) (he : exec i s = .next t) :
    t.scheduleOk := by
  obtain ⟨hsched, hidle⟩ := s.scheduleOk_iff.1 hs
  cases hclock : isClock i with
  | true =>
    cases i <;> simp only [isClock, Bool.false_eq_true] at hclock <;> obtain rfl := Host.Outcome.next.inj he
    case entryFallsDue r => rw [takeFallsDue_of_scheduled hsched]; exact hs
    case timebaseAdvance n => exact takeAdvance_scheduleOk hs n
  | false =>
    cases hsupply : isSupply i with
    | true =>
      obtain ⟨tb, st, m, pw, rfl, -, hm, -⟩ := exec_supply hsupply he
      obtain ⟨rfl, hstate, rfl⟩ | rfl | ⟨b, x, rfl⟩ := hm
      · refine (State.scheduleOk_iff _).2 ⟨hsched, fun ha => hidle fun hactive => ha ?_⟩
        show pw.state = .restarting ∨ pw.state = .ready
        rw [hstate]
        exact hactive
      · exact State.scheduleOk_of_empty rfl
      · exact State.scheduleOk_of_empty rfl
    | false =>
      by_cases ha : s.isActive
      · exact State.activeScheduled.ok <| steady_activeScheduled.exec (fun _ _ _ h => h) (fun _ _ h => h)
          (fun _ h => ⟨h.1, .inr rfl⟩) hclock hsupply ⟨hsched, ha⟩ he
      · rw [exec_inactive hclock hsupply ha he]
        exact hs

/-- Settles O6: the three requests keep the order of an ACTIVE part's schedule, the clock makes DUE what it reaches, and a
part that is not ACTIVE has no occasion for a request. -/
theorem scheduleStaysOrdered : Obligations.ScheduleStaysOrdered := fun _ _ hs h =>
  step_keeps (fun _ _ h => h) (fun _ _ _ => exec_scheduleOk) hs h

end Sys2Proof.Machine
end

section
/-! PROOFS. Chapter 11: the encoding of command frames, and the transactions of the ports (R177 to R188). -/

namespace Sys2Proof.Machine

/-! ### CMD codes and commands (R188) -/

/-- The CMD byte and the frame of the command that a CMD byte names are that byte and frame. -/
theorem frameOf_commandOf (cmd : Byte) (f : Frame) : frameOf (commandOf cmd f) = some (cmd, f) := by
  have hcmd : ∀ c : Byte, cmd.toNat = c.toNat → some (c, f) = some (cmd, f) := fun c h =>
    congrArg some (congrArg (·, f) (BitVec.eq_of_toNat_eq h.symm))
  unfold commandOf
  split
  case h_35 => rfl
  all_goals exact hcmd _ ‹_›

/-- The codes of R188 as numbers. -/
theorem contains_commandCodes (cmd : Byte) :
    commandCodes.contains cmd = (commandCodes.map BitVec.toNat).contains cmd.toNat := by
  revert cmd
  decide

/-- A CMD byte that is no code of R188 names no command of its own. -/
theorem commandOf_unknown {cmd : Byte} (h : commandCodes.contains cmd = false) (f : Frame) :
    commandOf cmd f = .unknownCommand cmd f := by
  rw [contains_commandCodes] at h
  unfold commandOf
  split
  case h_35 => rfl
  all_goals
    rename_i hcmd
    rw [hcmd] at h
    exact absurd h (by decide)

/-- The command that a CMD byte names is well formed where its frame is. -/
theorem wf_commandOf {f : Frame} (hf : f.wf = true) (cmd : Byte) : (commandOf cmd f).wf = true := by
  unfold commandOf
  split
  case h_35 =>
    have hc : commandCodes.contains cmd = false := by
      rw [contains_commandCodes]
      simp_all [commandCodes]
    rw [Instr.wf, hf, hc]
    rfl
  all_goals exact hf

/-- A well-formed frame command is the command that its CMD byte names, and its frame is well formed. -/
theorem commandOf_of_frameOf {i : Instr} {cmd : Byte} {f : Frame} (hwf : i.wf = true)
    (hi : frameOf i = some (cmd, f)) : commandOf cmd f = i ∧ f.wf = true := by
  cases i <;> simp only [frameOf, Option.some.injEq, Prod.mk.injEq, reduceCtorEq] at hi <;>
    obtain ⟨rfl, rfl⟩ := hi
  case unknownCommand =>
    simp only [Instr.wf, Bool.and_eq_true, Bool.not_eq_true'] at hwf
    exact ⟨commandOf_unknown hwf.2 _, hwf.1⟩
  all_goals exact ⟨rfl, hwf⟩

/-! ### The bytes of a frame (R187) -/

/-- Two bytes, most significant first, make their number again. -/
theorem ofBe_two (n : Nonce) : BitVec.ofNat 16 (ofBe (beBytes 2 n.toNat)) = n := by
  have h := n.isLt
  apply BitVec.eq_of_toNat_eq
  simp only [beBytes, ofBe, List.foldl_cons, List.foldl_nil, BitVec.toNat_ofNat]
  omega

/-- The two bytes of the number that two bytes make are those bytes. -/
theorem beBytes_two (x y : Byte) : beBytes 2 (BitVec.ofNat 16 (ofBe [x, y])).toNat = [x, y] := by
  have hx := x.isLt
  have hy := y.isLt
  simp only [beBytes, ofBe, List.foldl_cons, List.foldl_nil, BitVec.toNat_ofNat, List.cons.injEq, and_true]
  constructor <;> apply BitVec.eq_of_toNat_eq <;> rw [BitVec.toNat_ofNat] <;> omega

theorem Frame.wf_iff (f : Frame) : f.wf = true ↔ f.args.length ≤ 58 := decide_eq_true_iff

@[simp] theorem length_frameBody (cmd : Byte) (f : Frame) : (frameBody cmd f).length = 5 + f.args.length := by
  simp only [frameBody, List.length_cons, List.length_append, length_beBytes]
  omega

@[simp] theorem length_frameBytes (cmd : Byte) (f : Frame) : (frameBytes cmd f).length = 6 + f.args.length := by
  rw [frameBytes, List.length_append, length_frameBody, List.length_singleton]
  omega

theorem byteAt_frameBytes_zero {cmd : Byte} {f : Frame} (hf : f.args.length ≤ 58) :
    (byteAt (frameBytes cmd f) 0).toNat = 6 + f.args.length := by
  show (BitVec.ofNat 8 (6 + f.args.length)).toNat = _
  rw [BitVec.toNat_ofNat]
  omega

/-- The bytes of a well-formed frame pass frame validation (R180). -/
theorem frameSound_frameBytes {cmd : Byte} {f : Frame} (hf : f.args.length ≤ 58) :
    frameSound (frameBytes cmd f) (frameBytes cmd f).length = true := by
  have hlast : byteAt (frameBytes cmd f) (5 + f.args.length) = crc8 (frameBody cmd f) := by
    rw [byteAt, frameBytes, List.getD_append_right _ _ _ _ (by rw [length_frameBody]), length_frameBody,
      Nat.sub_self]
    rfl
  have htake : (frameBytes cmd f).take (5 + f.args.length) = frameBody cmd f := by
    rw [frameBytes, List.take_append_of_le_length (by rw [length_frameBody]), ← length_frameBody cmd f,
      List.take_length]
  simp only [frameSound, byteAt_frameBytes_zero hf, length_frameBytes,
    show 6 + f.args.length - 1 = 5 + f.args.length by omega, hlast, htake, beq_self_eq_true, Bool.and_true,
    Bool.and_eq_true, decide_eq_true_eq]
  omega

/-- The fields of a frame's bytes are those it was made from (R187). -/
theorem fields_frameBytes (cmd : Byte) (f : Frame) : byteAt (frameBytes cmd f) 1 = cmd ∧
    byteAt (frameBytes cmd f) 2 = f.client ∧ BitVec.ofNat 16 (field (frameBytes cmd f) 3 2) = f.nonce ∧
    ((frameBytes cmd f).drop 5).dropLast = f.args := by
  have hdrop : (frameBytes cmd f).drop 3 = beBytes 2 f.nonce.toNat ++ (f.args ++ [crc8 (frameBody cmd f)]) := by
    rw [frameBytes, frameBody, List.cons_append, List.cons_append, List.cons_append, List.append_assoc]
    rfl
  refine ⟨rfl, rfl, ?_, ?_⟩
  · rw [field, hdrop, List.take_append_of_le_length (by rw [length_beBytes]),
      List.take_of_length_le (by rw [length_beBytes]), ofBe_two]
  · rw [show (5 : Nat) = 3 + 2 from rfl, ← List.drop_drop, hdrop,
      List.drop_append_of_le_length (by rw [length_beBytes]),
      List.drop_of_length_le (by rw [length_beBytes]), List.nil_append, List.dropLast_concat]

/-- The bytes of a well-formed command's frame are read as the command (R187, R188). -/
theorem decodeFrame_frameBytes {i : Instr} {cmd : Byte} {f : Frame} (hwf : i.wf = true)
    (hi : frameOf i = some (cmd, f)) : decodeFrame f.port (frameBytes cmd f) = some i := by
  obtain ⟨hcommand, hf⟩ := commandOf_of_frameOf hwf hi
  obtain ⟨hcmd, hclient, hnonce, hargs⟩ := fields_frameBytes cmd f
  rw [decodeFrame, if_pos (frameSound_frameBytes ((Frame.wf_iff f).1 hf)), hcmd, hclient, hnonce, hargs, ← hcommand]

/-- Settles O10: the fields of the frame's bytes are read back one by one, and the CMD byte names the command. -/
theorem frameRoundTrip : Obligations.FrameRoundTrip := fun i cmd f hwf hi =>
  ⟨by rw [encodeFrame, hi]; rfl, decodeFrame_frameBytes hwf hi⟩

/-- What frame validation says of a buffer (R180). -/
theorem frameSound_iff (buf : List Byte) (received : Nat) : frameSound buf received = true ↔
    6 ≤ (byteAt buf 0).toNat ∧ (byteAt buf 0).toNat ≤ 64 ∧ received = (byteAt buf 0).toNat ∧
    buf.length = (byteAt buf 0).toNat ∧
    byteAt buf ((byteAt buf 0).toNat - 1) = crc8 (buf.take ((byteAt buf 0).toNat - 1)) := by
  simp only [frameSound, Bool.and_eq_true, decide_eq_true_eq, beq_iff_eq, and_assoc]

/-- A buffer of six bytes or more is its five head bytes, the arguments and the last byte (R187). -/
theorem buffer_shape {buf : List Byte} (h : 6 ≤ buf.length) : ∃ len cmd client n1 n2 args crc,
    buf = len :: cmd :: client :: n1 :: n2 :: (args ++ [crc]) := by
  match buf, h with
  | len :: cmd :: client :: n1 :: n2 :: x :: xs, _ =>
    exact ⟨len, cmd, client, n1, n2, (x :: xs).dropLast, (x :: xs).getLast (List.cons_ne_nil x xs), by
      rw [List.dropLast_append_getLast]⟩

/-- Settles O11: a sound buffer is the bytes of the frame read from it, for its LEN byte is its length and its last byte
the CRC of the others. -/
theorem soundFramesAreCommands : Obligations.SoundFramesAreCommands := by
  intro p buf hsound
  obtain ⟨h6, h64, -, hlen, hcrc⟩ := (frameSound_iff buf buf.length).1 hsound
  obtain ⟨len, cmd, client, n1, n2, args, crc, rfl⟩ := buffer_shape (buf := buf) (by omega)
  have hlength : 6 + args.length = len.toNat := by
    rw [show byteAt _ 0 = len from rfl] at hlen
    rw [← hlen]
    simp only [List.length_cons, List.length_append, List.length_nil]
    omega
  rw [show byteAt _ 0 = len from rfl] at h6 h64 hcrc
  have hbytes : frameBytes cmd { port := p, client := client, nonce := BitVec.ofNat 16 (ofBe [n1, n2]), args := args } =
      len :: cmd :: client :: n1 :: n2 :: (args ++ [crc]) := by
    have hbody : frameBody cmd
        { port := p, client := client, nonce := BitVec.ofNat 16 (ofBe [n1, n2]), args := args } =
        len :: cmd :: client :: n1 :: n2 :: args := by
      rw [frameBody, beBytes_two]
      dsimp only
      rw [hlength, BitVec.ofNat_toNat, BitVec.setWidth_eq]
      rfl
    have hlast : byteAt (len :: cmd :: client :: n1 :: n2 :: (args ++ [crc])) (len.toNat - 1) = crc := by
      rw [← hlength, show 6 + args.length - 1 = args.length + 5 by omega]
      show (args ++ [crc]).getD args.length 0 = crc
      rw [List.getD_append_right _ _ _ _ (Nat.le_refl _), Nat.sub_self]
      rfl
    have htake : (len :: cmd :: client :: n1 :: n2 :: (args ++ [crc])).take (len.toNat - 1) =
        len :: cmd :: client :: n1 :: n2 :: args := by
      rw [← hlength, show 6 + args.length - 1 = args.length + 5 by omega]
      simp only [List.take_succ_cons, List.take_append_of_le_length (Nat.le_refl _), List.take_length]
    rw [hlast, htake] at hcrc
    rw [frameBytes, hbody, ← hcrc]
    rfl
  have hf : Frame.wf { port := p, client := client, nonce := BitVec.ofNat 16 (ofBe [n1, n2]), args := args } = true :=
    (Frame.wf_iff _).2 (by dsimp only; omega)
  have hwf := wf_commandOf hf cmd
  have hi := frameOf_commandOf cmd
    { port := p, client := client, nonce := BitVec.ofNat 16 (ofBe [n1, n2]), args := args }
  refine ⟨_, cmd, _, ?_, hwf, hi, rfl, ?_⟩
  · rw [← hbytes]
    exact decodeFrame_frameBytes hwf hi
  · rw [encodeFrame, hi, ← hbytes]
    rfl

/-! ### Writing to a port and reading from it (R177 to R181) -/

theorem Ports.set_set (ps : Ports) (p : PortId) (x y : Port) : (ps.set p x).set p y = ps.set p y := by
  cases p <;> rfl

theorem State.setPort_setPort (s : State) (p : PortId) (x y : Port) :
    (s.setPort p x).setPort p y = s.setPort p y :=
  congrArg s.setPorts (Ports.set_set s.main.ports p x y)

theorem State.port_setPort_self (s : State) (p : PortId) (x : Port) : (s.setPort p x).port p = x := by
  rw [State.port_setPort, if_pos rfl]

theorem State.answers_active {s : State} {p : PortId} {address : BitVec 7} (h : s.answers p address = true) :
    s.isActive ∧ s.power.resetN = true := by
  simp only [State.answers, Bool.and_eq_true, decide_eq_true_eq] at h
  exact h.1

theorem takeFirstByte_answers {s : State} {p : PortId} {address : BitVec 7} (h : s.answers p address = true)
    (b : Byte) : takeFirstByte p address b s =
      s.setPort p { (s.port p).firstByte b with lead := s.leadByte p, sent := zerosOn p 1 } := if_pos h

/-- A first byte on a port that holds a frame, or whose frame is being worked on, collides (R179). -/
theorem Port.firstByte_collides {x : Port} (h : x.state = .frameHeld ∨ x.state = .executing) (b : Byte) :
    x.firstByte b = { x with collided := true } := by
  unfold Port.firstByte
  split <;> simp_all

/-- The end of a frame on a port that receives one (R179, R180). -/
theorem takeFrameEnd_receiving {s : State} {p : PortId} (ha : s.isActive) (hr : s.power.resetN = true)
    (hp : (s.port p).state = .receiving) (more : List Byte) : takeFrameEnd p more s =
      let x := { (s.port p).store more with sent := (s.port p).sent ++ zerosOn p more.length }
      if frameSound x.cmdBuf x.received then
        (s.setPort p { x with state := .frameHeld }).setArbiter (s.main.arbiter ++ [p])
      else
        s.setPort p { x with
          state := .responseReady, respBuf := responseBytes x.echo s.now (.bare .frameError),
          readPos := 0, frameErr := true } := by
  unfold takeFrameEnd
  rw [if_pos (by rw [decide_eq_true ha, hr, hp]; rfl)]

/-- Settles O12: the first byte starts the buffer of an IDLE port, and the others complete the bytes of a frame, which
passes validation. -/
theorem frameReachesTheArbiter : Obligations.FrameReachesTheArbiter := by
  intro s i cmd b f address more hwf hi hbytes hanswers hidle
  obtain ⟨-, hf⟩ := commandOf_of_frameOf hwf hi
  have hsound := frameSound_frameBytes (cmd := cmd) ((Frame.wf_iff f).1 hf)
  have hlen := length_frameBytes cmd f
  have hle := (Frame.wf_iff f).1 hf
  rw [hbytes] at hsound hlen
  rw [List.length_cons] at hsound hlen
  obtain ⟨hactive, hreset⟩ := State.answers_active hanswers
  refine ⟨_, _, rfl, rfl, ?_⟩
  rw [takeFirstByte_answers hanswers]
  have hx : (s.setPort f.port { (s.port f.port).firstByte b with
      lead := s.leadByte f.port, sent := zerosOn f.port 1 }).port f.port = { s.port f.port with
        state := .receiving, cmdBuf := [b], received := 1, lead := s.leadByte f.port,
        sent := zerosOn f.port 1 } := by
    rw [State.port_setPort_self, Port.firstByte, hidle]
  have hstored : ([b] ++ more).take 64 = b :: more := List.take_of_length_le (by
    rw [List.length_append, List.length_singleton]; omega)
  rw [takeFrameEnd_receiving (by exact hactive) (by exact hreset) (by rw [hx])]
  dsimp only [Port.store]
  rw [hx]
  dsimp only
  rw [hstored, Nat.add_comm 1, if_pos hsound, State.setPort_setPort]
  refine ⟨rfl, ?_⟩
  show decodeFrame f.port ((s.setPort f.port _).port f.port).cmdBuf = _
  rw [State.port_setPort_self]
  dsimp only
  rw [← hbytes]
  exact decodeFrame_frameBytes hwf hi

/-- A response without payload has 9 bytes (R187). -/
theorem length_responseBytes_bare (cmd : Byte) (tick : Tick) (st : Status) :
    (responseBytes cmd tick (.bare st)).length = 9 := by
  simp only [responseBytes, responseBody, List.length_append, List.length_cons, List.length_nil, length_beBytes]

/-- Settles O13: the first byte by the cases of the port's state, and the end of the frame by the two outcomes of
validation. -/
theorem frameReceptionByPortState : Obligations.FrameReceptionByPortState := by
  constructor
  · intro s p address b
    refine ⟨fun h => ?_, fun h => ?_⟩
    · show Host.Outcome.next (takeFirstByte p address b s) = _
      rw [takeFirstByte, if_neg (by rw [h]; exact Bool.false_ne_true)]
    · refine ⟨fun hp => ?_, fun hp => ?_, fun hp => ?_⟩
      · show Host.Outcome.next (takeFirstByte p address b s) = _
        rw [takeFirstByte_answers h, Port.firstByte, hp]
      · show Host.Outcome.next (takeFirstByte p address b s) = _
        rw [takeFirstByte_answers h, Port.firstByte, hp]
      · show Host.Outcome.next (takeFirstByte p address b s) = _
        rw [takeFirstByte_answers h, Port.firstByte_collides hp]
  · intro s p more x hactive hreset hp hx
    subst hx
    have htake := takeFrameEnd_receiving hactive hreset hp more
    refine ⟨fun hsound => ?_, fun hsound => ⟨?_, length_responseBytes_bare _ _ _⟩⟩
    · show Host.Outcome.next (takeFrameEnd p more s) = _
      rw [htake]
      exact congrArg _ (if_pos hsound)
    · show Host.Outcome.next (takeFrameEnd p more s) = _
      rw [htake]
      exact congrArg _ (if_neg (by rw [Bool.not_eq_true]; exact hsound))

theorem takeStatusRead_answers {s : State} {p : PortId} {address : BitVec 7} (h : s.answers p address = true)
    (leading : Bool) (count : Nat) : takeStatusRead p address leading count s =
      s.setPort p (if readsStatus p leading then
        { s.port p with collided := false, discarded := false, frameErr := false, lead := s.leadByte p,
                        sent := List.replicate count (s.statusByte p) }
      else { s.port p with lead := s.leadByte p, sent := List.replicate count (s.statusByte p) }) := by
  unfold takeStatusRead
  rw [if_pos h]
  rfl

theorem takeResponseRead_answers {s : State} {p : PortId} {address : BitVec 7} (h : s.answers p address = true)
    (count : Nat) : takeResponseRead p address count s = s.setPort p { (s.port p).afterRead count with
      lead := s.leadByte p, sent := (s.port p).readBytes count } := if_pos h

theorem readsStatus_of {p : PortId} {leading : Bool} (h : p = .c → leading = true) :
    readsStatus p leading = true := by
  cases p
  · rfl
  · rfl
  · exact h rfl

/-- Settles O14: the status read by whether it had a leading byte, the response read by the port's state and the count
against the length. -/
theorem hostReads : Obligations.HostReads := by
  intro s p address count h
  refine ⟨fun leading hl => ?_, ?_, fun hp => ?_, fun hp hlt => ?_, fun hp hle => ?_⟩
  · show Host.Outcome.next (takeStatusRead p address leading count s) = _
    rw [takeStatusRead_answers h, readsStatus_of hl]
    rfl
  · rintro rfl
    show Host.Outcome.next (takeStatusRead .c address false count s) = _
    rw [takeStatusRead_answers h]
    rfl
  · show Host.Outcome.next (takeResponseRead p address count s) = _
    rw [takeResponseRead_answers h, Port.afterRead, Port.readBytes, if_neg hp, if_neg hp]
  · show Host.Outcome.next (takeResponseRead p address count s) = _
    rw [takeResponseRead_answers h, Port.afterRead, Port.readBytes, if_pos hp, if_pos hp,
      if_neg (Nat.not_le.2 hlt), Nat.sub_eq_zero_of_le (Nat.le_of_lt hlt), List.replicate_zero, List.append_nil]
  · show Host.Outcome.next (takeResponseRead p address count s) = _
    rw [takeResponseRead_answers h, Port.afterRead, Port.readBytes, if_pos hp, if_pos hp, if_pos hle,
      List.take_of_length_le hle]

end Sys2Proof.Machine
end

section
/-! PROOFS. The order of checks (R184): what every frame command answers before its own work, and the commands whose work
is a report or one update. -/

namespace Sys2Proof.Machine

/-! ### Every frame command is its checks and its work -/

/-- What every frame command of R188 is: marks S and F as the table gives them, a session step, and its own work. -/
theorem exec_judged {i : Instr} {cmd : Byte} {f : Frame} {m : Marks} (hi : frameOf i = some (cmd, f))
    (hm : marksOf i = some m) : ∃ m' session work,
      (∀ s, exec i s = .next (s.takeFrame i cmd f (judgedWith m' f session work))) ∧
      m'.supervisor = m.supervisor ∧ m'.inFault = m.inFault ∧
      (m.need ≠ .skip → session = sessionStep m.need f ∨ (m.need = .may ∧ session = wipeSession f)) ∧
      (m'.args = m.args ∧ m.need ≠ .skip ∧ i ≠ .acquireSet f ∨ i = .openSession f ∨ i = .reattach f ∨
        i = .acquireSet f) := by
  cases i <;> simp only [frameOf, marksOf, Option.some.injEq, Prod.mk.injEq, reduceCtorEq] at hi hm <;>
    obtain ⟨rfl, rfl⟩ := hi <;> obtain rfl := hm
  case openSession => exact ⟨_, _, _, fun _ => rfl, rfl, rfl, fun h => absurd rfl h, .inr (.inl rfl)⟩
  case reattach => exact ⟨_, _, _, fun _ => rfl, rfl, rfl, fun h => absurd rfl h, .inr (.inr (.inl rfl))⟩
  case acquireSet => exact ⟨_, _, _, fun _ => rfl, rfl, rfl, fun _ => .inl rfl, .inr (.inr (.inr rfl))⟩
  case wipe => exact ⟨_, _, _, fun _ => rfl, rfl, rfl, fun _ => .inr ⟨rfl, rfl⟩, .inl ⟨rfl, nofun, nofun⟩⟩
  all_goals exact ⟨_, _, _, fun _ => rfl, rfl, rfl, fun _ => .inl rfl, .inl ⟨rfl, nofun, nofun⟩⟩

/-- Settles O15: an unknown command is its answer alone; the other two refusals stand before the session step. -/
theorem refusedBeforeTheSession : Obligations.RefusedBeforeTheSession := by
  constructor
  · intro s cmd f ho
    show Host.Outcome.next (takeUnknown cmd f s) = _
    rw [takeUnknown, takeFrame_offers ho, Take.run_pure]
  · intro s i cmd f m hi hm ho
    obtain ⟨m', session, work, hexec, hsup, hfault, -⟩ := exec_judged hi hm
    refine ⟨fun hs hp => ?_, fun hs hf hmf => ?_⟩
    · rw [hexec, takeFrame_offers ho,
        judgedWith_notPrivileged (s := s.accept f.port) (hsup.trans hs) hp]
    · rw [hexec, takeFrame_offers ho, judgedWith_inFault (s := s.accept f.port) (fun h => hs (hsup.symm.trans h)) hf
        (hfault.trans hmf)]

/-! ### The session step's refusals (R69, R184) -/

/-- A frame that names a client goes through the session check (R184, step 5). -/
theorem sessionStep_client {need : Need} {f : Frame} (hn : need ≠ .skip) (hc : f.client ≠ noClient) (s : State) :
    sessionStep need f s = checkSession f s := by
  cases need with
  | skip => exact absurd rfl hn
  | needs => rfl
  | may => rw [sessionStep, if_neg hc]
  | orSupervisor => rw [sessionStep, Take.bind_of_ok (Take.run_get s), if_pos hc]

theorem checkSession_outOfRange {f : Frame} (h : Config.sessions ≤ f.client.toNat) (s : State) :
    checkSession f s = .ok (some .staleSession) s := by
  rw [checkSession, if_pos h, Take.run_pure]

/-- In STORE_FAULT mode an entry among the lost control words is no entry, whatever its copies hold (R136). -/
theorem readSession_lost {c : Nat} {s : State} {e : SessEntry} (h : (sessionWord c).holds s e)
    (hl : s.entryLost c = true) : readSession c s = .ok none s := by
  simp only [readSession, Control.read_holds h, hl, if_true]

theorem checkSession_lost {f : Frame} {s : State} {e : SessEntry} (hc : f.client.toNat < Config.sessions)
    (h : (sessionWord f.client.toNat).holds s e) (hl : s.entryLost f.client.toNat = true) :
    checkSession f s = .ok (some .staleSession) s := by
  have hlive : liveEntry f.client.toNat s = .ok none s := by
    rw [liveEntry, Take.bind_of_ok (Take.run_get s), Take.bind_of_ok (readSession_lost h hl)]
    rfl
  rw [checkSession, if_neg (Nat.not_le.2 hc), Take.bind_of_ok hlive]
  rfl

/-- A session whose lapse is not due is the entry that its word holds, or none where it is FREE (R69). -/
theorem liveEntry_holds {c : Nat} {s : State} {e : SessEntry} (h : (sessionWord c).holds s e)
    (hl : s.entryLost c = false) (hd : s.lapseDue c e = false) :
    liveEntry c s = .ok (if e.state = .free then none else some e) s := by
  rw [liveEntry, Take.bind_of_ok (Take.run_get s), Take.bind_of_ok (readSession_holds h hl)]
  by_cases hf : e.state = .free
  · simp only [hf, if_true, Take.run_pure]
  · simp only [hf, hd, if_false, Bool.false_eq_true, Take.run_pure]

/-- The refusals of the session check where no lapse is due, in the order of its steps (R69). -/
theorem checkSession_refuses {f : Frame} {s : State} {e : SessEntry} {st : Status}
    (hc : f.client.toNat < Config.sessions) (h : (sessionWord f.client.toNat).holds s e)
    (hl : s.entryLost f.client.toNat = false) (hd : s.lapseDue f.client.toNat e = false)
    (hst : (e.state = .free ∧ st = .staleSession) ∨
      (e.state ≠ .free ∧ e.nonce ≠ f.nonce ∧ st = .staleSession) ∨
      (e.state ≠ .free ∧ e.nonce = f.nonce ∧ e.port ≠ some f.port ∧ st = .wrongPort) ∨
      (e.state ≠ .free ∧ e.nonce = f.nonce ∧ e.port = some f.port ∧ e.state ≠ .opened ∧ st = .staleSession)) :
    checkSession f s = .ok (some st) s := by
  rw [checkSession, if_neg (Nat.not_le.2 hc), Take.bind_of_ok (liveEntry_holds h hl hd)]
  rcases hst with ⟨hf, rfl⟩ | ⟨hf, hn, rfl⟩ | ⟨hf, hn, hp, rfl⟩ | ⟨hf, hn, hp, ho, rfl⟩
  · simp only [hf, if_true, Take.run_pure]
  · simp only [hf, if_false, ne_eq, hn, not_false_eq_true, if_true, Take.run_pure]
  · simp only [hf, if_false, ne_eq, hn, hp, not_true_eq_false, not_false_eq_true, if_true, Take.run_pure]
  · simp only [hf, if_false, ne_eq, hn, hp, ho, not_true_eq_false, not_false_eq_true, if_true, Take.run_pure]

/-- WIPE's session step is the session step of R184 where no control word is found lost (R136; log 12). -/
theorem wipeSession_of_ok {f : Frame} {s s1 : State} {o : Option Status} (h : sessionStep .may f s = .ok o s1) :
    wipeSession f s = .ok o s1 := by
  rw [wipeSession, Take.run_tryCatch, h]

/-- A frame that the session step refuses is answered with its status (R184, step 5). -/
theorem judgedWith_refused {m : Marks} {f : Frame} {session : Take (Option Status)} {work : Take Reply}
    {s s1 : State} {st : Status} (hs : m.supervisor = true → s.main.supPort = some f.port)
    (hf : s.inFault → m.inFault = true) (hc : session s = .ok (some st) s1) :
    judgedWith m f session work s = .ok (.bare st) s1 := by
  have hprivileged : ¬ (m.supervisor ∧ s.main.supPort ≠ some f.port) := fun ⟨hsup, hport⟩ => hport (hs hsup)
  have hmode : ¬ (s.inFault ∧ m.inFault = false) := fun ⟨h1, h2⟩ => by rw [hf h1] at h2; cases h2
  rw [judgedWith, Take.bind_of_ok (Take.run_get s), if_neg hprivileged, if_neg hmode, Take.bind_of_ok hc]
  rfl

/-- A frame that passes the session step with another length than its arguments have answers BAD_ARG (R184, step 6). -/
theorem judgedWith_badLength {m : Marks} {f : Frame} {session : Take (Option Status)} {work : Take Reply}
    {s s1 : State} (hs : m.supervisor = true → s.main.supPort = some f.port)
    (hf : s.inFault → m.inFault = true) (hc : session s = .ok none s1) (hl : f.args.length ≠ m.args) :
    judgedWith m f session work s = .ok (.bare .badArg) s1 := by
  have hprivileged : ¬ (m.supervisor ∧ s.main.supPort ≠ some f.port) := fun ⟨hsup, hport⟩ => hport (hs hsup)
  have hmode : ¬ (s.inFault ∧ m.inFault = false) := fun ⟨h1, h2⟩ => by rw [hf h1] at h2; cases h2
  rw [judgedWith, Take.bind_of_ok (Take.run_get s), if_neg hprivileged, if_neg hmode, Take.bind_of_ok hc]
  simp only [ne_eq, hl, not_false_eq_true, if_true, Take.run_pure]

/-- The session check of an offered frame is made in the state that accepting it leaves, whose session words, deadlines and
store mode are those before. -/
theorem refusedAtTheSession {s : State} {i : Instr} {cmd : Byte} {f : Frame} {m : Marks} {st : Status}
    (hi : frameOf i = some (cmd, f)) (hm : marksOf i = some m) (ho : s.offers i f.port)
    (hs : m.supervisor = true → s.main.supPort = some f.port) (hf : s.inFault → m.inFault = true)
    (hn : m.need ≠ .skip) (hst : sessionStep m.need f (s.accept f.port) = .ok (some st) (s.accept f.port)) :
    exec i s = .next ((s.accept f.port).respond f.port cmd (.bare st)) := by
  obtain ⟨m', session, work, hexec, hsup, hfault, hsession, -⟩ := exec_judged hi hm
  have hstep : session (s.accept f.port) = .ok (some st) (s.accept f.port) := by
    rcases hsession hn with rfl | ⟨hmay, rfl⟩
    · exact hst
    · exact wipeSession_of_ok (hmay ▸ hst)
  rw [hexec, takeFrame_offers ho, judgedWith_refused (s := s.accept f.port) (fun h => hs (hsup.symm.trans h))
    (fun h => hfault.trans (hf h)) hstep]

/-- OPEN's own work refuses another length first of all (R67). -/
theorem openWork_badLength {f : Frame} (hl : f.args.length ≠ 5) (s : State) :
    openWork f s = .ok (.bare .badArg) s := by
  simp only [openWork, ne_eq, hl, not_false_eq_true, if_true, Take.run_pure]

/-- OPEN is judged for its client and its length by itself, with one answer for both (R67). -/
theorem openSession_badLength {s : State} {f : Frame} (hf : s.inFault → False) (hl : f.args.length ≠ 5) :
    judgedWith { need := .skip, args := f.args.length } f
      (pure (if f.client = noClient then none else some .badArg)) (openWork f) s = .ok (.bare .badArg) s := by
  by_cases hc : f.client = noClient
  · rw [judgedWith_passes (s1 := s) (fun h => absurd h Bool.false_ne_true) (fun h => (hf h).elim) (by rw [if_pos hc, Take.run_pure]) rfl,
      openWork_badLength hl]
  · exact judgedWith_refused (fun h => absurd h Bool.false_ne_true) (fun h => (hf h).elim) (by rw [if_neg hc, Take.run_pure])

/-- ACQUIRE SET's own work refuses a length that is not that of its count, with index 0xFF (R32). -/
theorem acquireSetWork_badLength {f : Frame} (hl : f.args.length ≠ 4 + 5 * (byteAt f.args 0).toNat) (s : State) :
    acquireSetWork f s = .ok { status := .badArg, payload := [0xFF] } s := by
  simp only [acquireSetWork, ne_eq, hl, not_false_eq_true, if_true, Take.run_pure, refusedAt]

/-- A frame of another length than its arguments have, behind the other common checks (R184, R186). -/
theorem refusedForLength {s s1 : State} {i : Instr} {cmd : Byte} {f : Frame} {m : Marks}
    (hi : frameOf i = some (cmd, f)) (hm : marksOf i = some m) (hre : ∀ g, i ≠ .reattach g)
    (ho : s.offers i f.port) (hs : m.supervisor = true → s.main.supPort = some f.port)
    (hf : s.inFault → m.inFault = true) (hc : (s.accept f.port).checkedTo m.need f s1)
    (hl : f.args.length ≠ m.args) : exec i s = .next (s1.respond f.port cmd
      { status := .badArg, payload := if i = .acquireSet f then [0xFF] else [] }) := by
  obtain ⟨m', session, work, hexec, hsup, hfault, hsession, hargs⟩ := exec_judged hi hm
  have hstep := sessionStep_checked hc
  rcases hargs with ⟨hargs, hn, hset⟩ | rfl | rfl | rfl
  · have hok : session (s.accept f.port) = .ok none s1 := by
      rcases hsession hn with rfl | ⟨hmay, rfl⟩
      · exact hstep
      · exact wipeSession_of_ok (hmay ▸ hstep)
    rw [hexec, takeFrame_offers ho, judgedWith_badLength (s := s.accept f.port) (fun h => hs (hsup.symm.trans h))
      (fun h => hfault.trans (hf h)) hok (hargs ▸ hl), if_neg hset]
  · obtain ⟨rfl, -⟩ := Prod.mk.inj (Option.some.inj hi)
    obtain rfl := Option.some.inj hm
    obtain rfl : s1 = s.accept f.port := hc
    show Host.Outcome.next (s.takeFrame (.openSession f) 0x10 f (judgedWith { need := .skip, args := f.args.length } f
      (pure (if f.client = noClient then none else some .badArg)) (openWork f))) = _
    rw [takeFrame_offers ho, openSession_badLength (s := s.accept f.port) (fun h => Bool.false_ne_true (hf h)) hl]
    rfl
  · exact absurd rfl (hre f)
  · obtain ⟨rfl, -⟩ := Prod.mk.inj (Option.some.inj hi)
    obtain rfl := Option.some.inj hm
    show Host.Outcome.next (s.takeFrame (.acquireSet f) 0x31 f (judged { args := f.args.length } f (acquireSetWork f))) = _
    rw [takeFrame_offers ho, judged, judgedWith_passes (s := s.accept f.port) (fun h => absurd h Bool.false_ne_true)
      (fun h => absurd (hf h) Bool.false_ne_true) hstep rfl,
      acquireSetWork_badLength hl, if_pos rfl]

/-- Settles O16: each refusal is an answer of the session step in the state that the accepted frame leaves, and the
length is judged behind it. -/
theorem refusedAtTheSessionOrForLength : Obligations.RefusedAtTheSessionOrForLength := by
  refine ⟨fun s i cmd f m st hi hm ho hs hf hn hst => refusedAtTheSession hi hm ho hs hf hn ?_,
    fun s s1 i cmd f m hi hm hre ho hs hf hc hl => refusedForLength hi hm hre ho hs hf hc hl⟩
  have hnamed : f.client.toNat < Config.sessions → f.client ≠ noClient := by
    intro h hc
    rw [hc] at h
    exact absurd h (by decide)
  rcases hst with ⟨hc, hneed, rfl⟩ | ⟨hc, hneed, hport, rfl⟩ | ⟨hc, hrange, rfl⟩ | ⟨hc, hlost, ⟨e, he⟩, rfl⟩ |
    ⟨hc, hlost, e, he, hdue, hst⟩
  · rw [hneed, sessionStep, checkSession_outOfRange (by rw [hc]; decide)]
  · rw [hneed, sessionStep, Take.bind_of_ok (Take.run_get _), if_neg (not_not.2 hc),
      if_neg (show (s.accept f.port).main.supPort ≠ _ from hport), Take.run_pure]
  · rw [sessionStep_client hn hc, checkSession_outOfRange hrange]
  · exact (sessionStep_client hn (hnamed hc) _).trans (checkSession_lost hc he hlost)
  · exact (sessionStep_client hn (hnamed hc) _).trans (checkSession_refuses hc he hlost hdue hst)

end Sys2Proof.Machine
end

section
/-! PROOFS. The commands whose own work is a report, or one update of the state that the session check left. -/

namespace Sys2Proof.Machine

/-! ### A taken command by its own work -/

/-- A command that passes the common checks and whose own work goes to its end ends in the work's state with the work's
reply in the port's buffer (R184, R186). -/
theorem exec_of_work {s s1 s2 : State} {i : Instr} {cmd : Byte} {f : Frame} {m : Marks} {work : Take Reply}
    {r : Reply} (h : s.takenTo i f s1) (hm : marksOf i = some m)
    (hexec : exec i s = .next (s.takeFrame i cmd f (judged m f work))) (hw : work s1 = .ok r s2) :
    exec i s = .next (s2.respond f.port cmd r) := by
  rw [hexec, takeFrame_of_work h hm hw]

/-- A command with mark S that is offered on another port than the supervisor's is NOT_PRIVILEGED (R184, step 3). -/
theorem exec_notPrivileged {s : State} {i : Instr} {cmd : Byte} {f : Frame} {m : Marks} {work : Take Reply}
    (ho : s.offers i f.port) (hm : m.supervisor = true) (hp : s.main.supPort ≠ some f.port)
    (hexec : exec i s = .next (s.takeFrame i cmd f (judged m f work))) :
    exec i s = .next ((s.accept f.port).respond f.port cmd (.bare .notPrivileged)) := by
  rw [hexec, takeFrame_notPrivileged ho hm hp]

/-- A command without mark F that is offered in STORE_FAULT mode answers STORE_FAULT (R184, step 4). -/
theorem exec_inFault {s : State} {i : Instr} {cmd : Byte} {f : Frame} {m : Marks} {work : Take Reply}
    (ho : s.offers i f.port) (hs : m.supervisor = true → s.main.supPort = some f.port) (hf : s.inFault)
    (hm : m.inFault = false) (hexec : exec i s = .next (s.takeFrame i cmd f (judged m f work))) :
    exec i s = .next ((s.accept f.port).respond f.port cmd (.bare .storeFault)) := by
  rw [hexec, takeFrame_inFault ho hs hf hm]

/-- The session step leaves the state as accepting the frame leaves it, but for a refresh of one heartbeat (R70). -/
theorem State.checkedTo_cases {need : Need} {f : Frame} {s s1 : State} (h : s.checkedTo need f s1) :
    s1 = s ∨ ∃ e, s.passes f e ∧ s1 = s.refresh f.client.toNat e := by
  cases need with
  | skip => exact .inl h
  | needs => exact .inr h
  | may => exact h.imp_left And.right
  | orSupervisor => exact h.imp_left fun h => h.2.2

theorem State.takenTo_cases {s s1 : State} {i : Instr} {f : Frame} (h : s.takenTo i f s1) :
    s1 = s.accept f.port ∨
      ∃ e, (s.accept f.port).passes f e ∧ s1 = (s.accept f.port).refresh f.client.toNat e := by
  obtain ⟨m, cmd, -, -, -, -, -, hc, -⟩ := h
  exact State.checkedTo_cases hc

/-! The refresh of a heartbeat changes the sessions' volatile part and the schedule alone (R70). -/

@[simp] theorem State.refresh_supPort (s : State) (c : Nat) (e : SessEntry) :
    (s.refresh c e).main.supPort = s.main.supPort := by
  rw [State.refresh, State.schedMove, State.setSched_supPort, State.setVol, State.setSessV_supPort]

@[simp] theorem State.refresh_mon (s : State) (c : Nat) (e : SessEntry) :
    (s.refresh c e).main.mon = s.main.mon := by
  rw [State.refresh, State.schedMove, State.setSched_mon, State.setVol, State.setSessV_mon]

@[simp] theorem State.refresh_tb (s : State) (c : Nat) (e : SessEntry) :
    (s.refresh c e).tb = s.tb := by
  rw [State.refresh, State.schedMove, State.setSched_tb, State.setVol, State.setSessV_tb]

@[simp] theorem State.refresh_audit (s : State) (c : Nat) (e : SessEntry) :
    (s.refresh c e).main.audit = s.main.audit := by
  rw [State.refresh, State.schedMove, State.setSched_audit, State.setVol, State.setSessV_audit]

theorem State.takenTo_supPort {s s1 : State} {i : Instr} {f : Frame} (h : s.takenTo i f s1) :
    s1.main.supPort = s.main.supPort := by
  obtain rfl | ⟨e, -, rfl⟩ := State.takenTo_cases h
  · rfl
  · rw [State.refresh_supPort]
    rfl

theorem State.takenTo_mon {s s1 : State} {i : Instr} {f : Frame} (h : s.takenTo i f s1) :
    s1.main.mon = s.main.mon := by
  obtain rfl | ⟨e, -, rfl⟩ := State.takenTo_cases h
  · rfl
  · rw [State.refresh_mon]
    rfl

theorem State.takenTo_tb {s s1 : State} {i : Instr} {f : Frame} (h : s.takenTo i f s1) :
    s1.tb = s.tb := by
  obtain rfl | ⟨e, -, rfl⟩ := State.takenTo_cases h
  · rfl
  · rw [State.refresh_tb]
    rfl

theorem State.takenTo_now {s s1 : State} {i : Instr} {f : Frame} (h : s.takenTo i f s1) : s1.now = s.now :=
  congrArg Timebase.tick (State.takenTo_tb h)

/-- The audit's state is no matter of a frame's acceptance: only the list of requests ahead of a step is. -/
theorem State.takenTo_auditState {s s1 : State} {i : Instr} {f : Frame} (h : s.takenTo i f s1) :
    s1.main.audit.state = s.main.audit.state := by
  obtain rfl | ⟨e, -, rfl⟩ := State.takenTo_cases h
  · rfl
  · rw [State.refresh_audit]
    rfl

/-- A command without mark F is taken in NORMAL mode only (R184, step 4). -/
theorem State.takenTo_normal {s s1 : State} {i : Instr} {f : Frame} {m : Marks} (h : s.takenTo i f s1)
    (hm : marksOf i = some m) (hf : m.inFault = false) : ¬ s1.inFault := by
  obtain ⟨-, -, hfault, -, -⟩ := marksOf_eq h hm
  rw [State.inFault, State.takenTo_mon h]
  exact fun h1 => Bool.false_ne_true (hf.symm.trans (hfault h1))

/-! ### INFO, TIME and PING (R70, R91, R185) -/

/-- The deadline of a session after its refresh is the one that the refresh gave it (R70). -/
theorem State.refresh_deadline (s : State) (c : Nat) (e : SessEntry) :
    ((s.refresh c e).vol c).deadline = some (tickPlus s.now e.hbTerm.toNat) := by
  have hset : ({ s.vol c with deadline := some (tickPlus s.now e.hbTerm.toNat) } : SessVol) ≠ SessVol.none := fun h =>
    Option.some_ne_none _ (congrArg SessVol.deadline h)
  rw [State.vol, State.refresh_sessV, Tab.set, if_neg hset, Tab.get, Tab.find?_put_self]
  rfl

theorem pingWork_refresh (f : Frame) (s : State) (e : SessEntry) :
    pingWork f (s.refresh f.client.toNat e) =
      .ok (.ok (tickBytes (tickPlus s.now e.hbTerm.toNat))) (s.refresh f.client.toNat e) := by
  rw [pingWork, Take.bind_of_ok (Take.run_get _), State.refresh_deadline]
  rfl

/-- Settles O17: none of the three has work of its own but the answer; PING's deadline is the one that passing the
session check set. -/
theorem infoTimeAndPingAnswer : Obligations.InfoTimeAndPingAnswer := by
  refine ⟨fun s s1 f h => ?_, fun s s1 f h => ?_, fun s f e d ho hf hpass hargs hd => ?_⟩
  · rw [exec_of_work (work := infoWork) h rfl rfl rfl, State.takenTo_supPort h, State.takenTo_mon h]
    rfl
  · rw [← State.takenTo_tb h]
    exact exec_of_work (work := timeWork) h rfl rfl rfl
  · subst hd
    have htaken : s.takenTo (.ping f) f ((s.accept f.port).refresh f.client.toNat e) :=
      ⟨{}, 0x12, rfl, rfl, ho, fun h => absurd h Bool.false_ne_true, fun h => absurd h hf, ⟨e, hpass, rfl⟩,
        by rw [hargs]; rfl⟩
    rw [exec_of_work htaken rfl rfl (pingWork_refresh f _ e)]
    rfl

/-! ### SESSION STATUS (R79) -/

theorem sessionStatusWork_outOfRange {f : Frame} (h : 16 ≤ (byteAt f.args 0).toNat) (s : State) :
    sessionStatusWork f s = .ok (.bare .badArg) s := by
  have hrange : Config.sessions ≤ (byteAt f.args 0).toNat := h
  simp only [sessionStatusWork, hrange, if_true, Take.run_pure]

/-- With no lapse due and no grant to count, SESSION STATUS reads the entry and nothing else. -/
theorem sessionStatusWork_noGrants {f : Frame} {s : State} {c : Nat} {e : SessEntry} (hc : c = (byteAt f.args 0).toNat)
    (hlt : c < 16) (hf : ¬ s.inFault) (he : (sessionWord c).holds s e) (hdue : s.lapseDue c e = false)
    (hslots : s.grantSlots c = []) :
    sessionStatusWork f s = .ok (.ok (statusPayload e 0 (s.vol c).waitCount (s.noticesOf c))) s := by
  have hrange : ¬ Config.sessions ≤ c := Nat.not_le.2 hlt
  rw [sessionStatusWork, ← hc, if_neg hrange, Take.bind_of_ok (readControl_holds he), Take.bind_of_ok (Take.run_get s)]
  simp only [hdue, Bool.false_eq_true, if_false]
  rw [Take.bind_of_ok (Take.run_get s), hslots, countGrants,
    Take.bind_of_ok (Take.run_pure _ s), Take.bind_of_ok (Take.run_get s),
    State.session_holds he (State.entryLost_normal hf c), Take.run_pure]

/-- Settles O21: each of the three is SESSION STATUS's own work in the state that the session check left. -/
theorem sessionStatusReports : Obligations.SessionStatusReports := by
  intro s s1 f c e h hc
  refine ⟨fun hrange => ?_, fun hlt he hdue hslots => ?_⟩
  · exact exec_of_work h rfl rfl (sessionStatusWork_outOfRange (hc ▸ hrange) s1)
  · have hwork := sessionStatusWork_noGrants hc hlt (State.takenTo_normal h rfl rfl) he hdue hslots
    refine ⟨fun hfree => ?_, fun hfree => ?_⟩ <;> rw [exec_of_work h rfl rfl hwork, statusPayload]
    · rw [if_pos hfree]
      rfl
    · rw [if_neg hfree]
      rfl

/-! ### The audit's commands (R154, R160, R161) -/

theorem auditStartWork_reservedKey {f : Frame} (h : reservedKey (keyAt f.args 0) ∨ reservedKey (keyAt f.args 4))
    (s : State) : auditStartWork f s = .ok (.bare .badKey) s := by
  rw [auditStartWork, Take.bind_of_ok (Take.run_get s), if_pos h, Take.run_pure]

theorem auditStartWork_busy {f : Frame} {s : State}
    (hk : ¬ (reservedKey (keyAt f.args 0) ∨ reservedKey (keyAt f.args 4)))
    (h : s.main.audit.state = .running ∨ s.main.audit.state = .suspended) :
    auditStartWork f s = .ok (.bare .auditBusy) s := by
  rw [auditStartWork, Take.bind_of_ok (Take.run_get s), if_neg hk, if_pos h, Take.run_pure]

theorem auditStartWork_starts {f : Frame} {s : State}
    (hk : ¬ (reservedKey (keyAt f.args 0) ∨ reservedKey (keyAt f.args 4)))
    (h : ¬ (s.main.audit.state = .running ∨ s.main.audit.state = .suspended)) :
    auditStartWork f s = .ok (.ok [(auditStarted (keyAt f.args 0) (keyAt f.args 4) s.requests).state.code])
      (s.setAudit (auditStarted (keyAt f.args 0) (keyAt f.args 4) s.requests)) := by
  rw [auditStartWork, Take.bind_of_ok (Take.run_get s), if_neg hk, if_neg h, Take.bind_of_ok (Take.run_set _ s),
    Take.run_pure]

/-- Settles O41: the two refusals of the order of checks, then the branches of AUDIT START's own work. -/
theorem auditStartBeginsTheWalk : Obligations.AuditStartBeginsTheWalk := by
  rintro s f _ _ _ ho rfl rfl rfl
  refine ⟨fun hp => exec_notPrivileged ho rfl hp rfl, fun hp hf => exec_inFault ho (fun _ => hp) hf rfl rfl,
    fun s1 h => ⟨fun hk => ?_, fun hk => ⟨fun hbusy => ?_, fun hrun hsus => ?_⟩⟩⟩
  · exact exec_of_work h rfl rfl (auditStartWork_reservedKey hk s1)
  · rw [← State.takenTo_auditState h] at hbusy
    exact exec_of_work h rfl rfl (auditStartWork_busy hk hbusy)
  · rw [← State.takenTo_auditState h] at hrun hsus
    have hexec := exec_of_work h rfl rfl (auditStartWork_starts hk (not_or.2 ⟨hrun, hsus⟩))
    refine ⟨fun hlt => ?_, fun hle => ?_⟩ <;> rw [hexec, auditStarted]
    · rw [if_pos hlt]
      rfl
    · rw [if_neg (BitVec.not_lt.2 hle)]
      rfl

theorem auditSuspendWork_running {s : State} (h : s.main.audit.state = .running) :
    auditSuspendWork s = .ok (auditReply { s.main.audit with state := .suspended })
      (s.setAudit { s.main.audit with state := .suspended, stepPending := false, ahead := [] }) := by
  rw [auditSuspendWork, Take.bind_of_ok (Take.run_get s), if_pos h, Take.bind_of_ok (Take.run_set _ s), Take.run_pure]

theorem auditSuspendWork_idle {s : State} (h : s.main.audit.state ≠ .running) :
    auditSuspendWork s = .ok (.bare .auditIdle) s := by
  rw [auditSuspendWork, Take.bind_of_ok (Take.run_get s), if_neg h, Take.run_pure]

theorem auditResumeWork_suspended {s : State} (h : s.main.audit.state = .suspended) :
    auditResumeWork s = .ok (auditReply { s.main.audit with state := .running })
      (s.setAudit { s.main.audit with state := .running, stepPending := true, ahead := s.requests }) := by
  rw [auditResumeWork, Take.bind_of_ok (Take.run_get s), if_pos h, Take.bind_of_ok (Take.run_set _ s), Take.run_pure]

theorem auditResumeWork_idle {s : State} (h : s.main.audit.state ≠ .suspended) :
    auditResumeWork s = .ok (.bare .auditIdle) s := by
  rw [auditResumeWork, Take.bind_of_ok (Take.run_get s), if_neg h, Take.run_pure]

/-- Settles O42: each command is one test of the context's state and then one update of it, or none. -/
theorem auditSuspendResumeRead : Obligations.AuditSuspendResumeRead := by
  rintro s s1 f _ rfl
  refine ⟨fun h => ⟨fun ha => ?_, fun ha => ?_⟩, fun h => ⟨fun ha => ?_, fun ha => ?_⟩, fun h => ?_⟩
  · exact exec_of_work h rfl rfl (auditSuspendWork_running ha)
  · exact exec_of_work h rfl rfl (auditSuspendWork_idle ha)
  · exact exec_of_work h rfl rfl (auditResumeWork_suspended ha)
  · exact exec_of_work h rfl rfl (auditResumeWork_idle ha)
  · exact exec_of_work (work := auditReadWork) h rfl rfl rfl

/-! ### STORE STATUS and QUARANTINE LIST (R146, R148) -/

theorem length_trapBytes (o : Option Trap) : (trapBytes o).length = 7 := by
  cases o with
  | none => rfl
  | some t => rfl

/-- The fresh-start flag is reported as it stands, and as set in STORE_FAULT mode with the flags word lost (R146). -/
theorem storeStatusWork_holds {s : State} {fl : StoreFlags} (h : flagsWord.holds s fl) :
    storeStatusWork s = .ok (.ok (storeStatusPayload s.main.mon
      (fl.fresh || (s.main.mon.fault && s.main.mon.lost.getLsbD 19)) s.main.quar.length)) s := by
  rw [storeStatusWork, Take.bind_of_ok (Take.run_get s)]
  by_cases hf : s.inFault
  · have hfault : s.main.mon.fault = true := hf
    rw [if_pos hf]
    simp only [Control.read_holds h, Take.bind_of_ok (Take.run_set s s), Take.run_pure, hfault, Bool.true_and,
      Option.map_some, Option.getD_some]
  · have hfault : s.main.mon.fault = false := Bool.eq_false_iff.2 hf
    rw [if_neg hf, Take.bind_of_ok (readControl_holds h), Take.bind_of_ok (Take.run_get s)]
    simp only [Take.run_pure, hfault, Bool.false_and, Bool.or_false]

theorem quarantineListWork_outOfRange {f : Frame} (h : Config.slots ≤ field f.args 0 2) (s : State) :
    quarantineListWork f s = .ok (.bare .badArg) s := by
  rw [quarantineListWork, Take.bind_of_ok (Take.run_get s), if_pos h, Take.run_pure]

theorem quarantineListWork_lists {f : Frame} (h : field f.args 0 2 < Config.slots) (s : State) :
    quarantineListWork f s =
      .ok (.ok (quarantinePayload (s.main.quar.filter fun e => field f.args 0 2 ≤ e.1))) s := by
  rw [quarantineListWork, Take.bind_of_ok (Take.run_get s), if_neg (Nat.not_le.2 h), Take.run_pure]

theorem quarantineItem_eq (e : Nat × Option Key) : quarantineItem e = beBytes 2 e.1 ++
    (match e.2 with | some k => 1 :: keyBytes k | none => [0, 0, 0, 0, 0]) := by
  obtain ⟨n, _ | k⟩ := e
  · have hkey : keyBytes 0 = [0, 0, 0, 0] := by decide
    simp only [quarantineItem, Option.isSome_none, onOff, Option.getD_none, hkey, Bool.false_eq_true, if_false]
  · rw [quarantineItem]
    rfl

/-- Settles O43: both reports are reads of good words or of none, so nothing changes, and the payload is read off the
state. -/
theorem storeReports : Obligations.StoreReports := by
  constructor
  · rintro s s1 f fl _ h hfl rfl
    refine ⟨trapBytes s1.main.mon.trap, length_trapBytes _, fun ht => by rw [ht]; rfl, fun x hx => by rw [hx]; rfl, ?_⟩
    exact exec_of_work h rfl rfl (storeStatusWork_holds hfl)
  · rintro s s1 f _ _ h rfl rfl
    refine ⟨fun hrange => exec_of_work h rfl rfl (quarantineListWork_outOfRange hrange s1), fun hlt => ?_⟩
    rw [exec_of_work h rfl rfl (quarantineListWork_lists hlt s1), quarantinePayload, funext quarantineItem_eq]
    cases (s1.main.quar.filter fun e => field f.args 0 2 ≤ e.1).drop 8 <;> rfl

/-! ### STORE CLEAR and SCRUB CONTROL (R147, R151) -/

theorem storeClearWork_started {s : State} {fl : StoreFlags} (h : flagsWord.holds s fl) (hf : fl.fresh = false) :
    storeClearWork s = .ok (.bare .ok) (s.setMon s.main.mon.cleared) := by
  rw [storeClearWork, Take.bind_of_ok (readControl_holds h), Take.bind_of_ok (Take.run_modify _ s),
    if_neg (Bool.eq_false_iff.1 hf), Take.run_pure]

theorem storeClearWork_fresh {s : State} {fl : StoreFlags} (h : flagsWord.holds s fl) (hf : fl.fresh = true) :
    storeClearWork s = .ok (.bare .ok)
      ((s.setMon s.main.mon.cleared).commit { flags := some { fl with fresh := false } }) := by
  rw [storeClearWork, Take.bind_of_ok (readControl_holds h), Take.bind_of_ok (Take.run_modify _ s), if_pos hf,
    Take.bind_of_ok (Take.run_modify _ _), Take.run_pure]

/-- Settles O44: STORE CLEAR clears the Store Monitor and commits the flags where the mark is set; SCRUB CONTROL is one
update. -/
theorem storeClearAndScrubControl : Obligations.StoreClearAndScrubControl := by
  constructor
  · rintro s s1 f fl _ hbetween h hfl rfl
    refine ⟨fun hfresh => exec_of_work h rfl rfl (storeClearWork_started hfl hfresh), fun hfresh => ?_⟩
    refine ⟨_, exec_of_work h rfl rfl (storeClearWork_fresh hfl hfresh), ?_⟩
    exact State.becomes_commit_then (State.between_takenTo hbetween h) { flags := some { fl with fresh := false } }
      fun x => rfl
  · intro s s1 f h
    exact exec_of_work (work := scrubControlWork f) h rfl rfl rfl

end Sys2Proof.Machine
end

section
/-! PROOFS. The clock, power, the background steps and the session events. -/

namespace Sys2Proof.Machine

/-! ### The state after a retained POR (R164) -/

/-- A store without a record, with the counter and the map of a retained POR, has sound records. -/
theorem Store.recordsSound_por : Store.por.recordsSound where
  rules _ _ h := absurd h Bool.false_ne_true
  tokens _ _ _ h := absurd h Bool.false_ne_true
  counter v h := by
    obtain rfl := Option.some.inj (show some (1 : Token) = some v from h)
    decide
  zones m z h := by
    obtain rfl := Option.some.inj (show some ZoneMap.por = some m from h)
    have hattr : ZoneMap.por.attr z = ZoneAttr.por := by
      unfold ZoneMap.attr
      split_ifs <;> rfl
    rw [hattr]

/-- Settles O7: nothing is in the tables of the reset state. -/
theorem resetMeetsTheLaws : Obligations.ResetMeetsTheLaws := by
  refine ⟨⟨by decide, by decide, rfl⟩, nofun, ⟨Nat.zero_le _, Nat.zero_le _⟩, ⟨List.nodup_nil, fun p => ?_⟩,
    State.scheduleOk_of_empty rfl, Store.recordsSound_por⟩
  cases p <;> decide

/-! ### Power (R163 to R166) -/

theorem supervisorOf_eq {supsel : BitVec 2} {sup : Option PortId} (h0 : supsel = 0 → sup = none)
    (h1 : supsel = 1 → sup = some .a) (h2 : supsel = 2 → sup = some .b) (h3 : supsel = 3 → sup = some .c) :
    sup = supervisorOf supsel := by
  have hcases : supsel = 0 ∨ supsel = 1 ∨ supsel = 2 ∨ supsel = 3 := by bv_omega
  rcases hcases with h | h | h | h
  · rw [h0 h, h]; rfl
  · rw [h1 h, h]; rfl
  · rw [h2 h, h]; rfl
  · rw [h3 h, h]; rfl

/-- Settles O51: each supply event is its branch of the model, with SUPSEL read as R119 has it. -/
theorem powerStateFollowsTheSupplies : Obligations.PowerStateFollowsTheSupplies := by
  rintro s supsel sup _ _ h0 h1 h2 h3 rfl rfl
  obtain rfl := supervisorOf_eq h0 h1 h2 h3
  refine ⟨fun hbat hdd => ?_, fun hbat hdd => ?_, fun hbat => ?_, fun w k hdd hbat => ?_, fun w k hdd hbat => ?_,
    fun w k hreset hactive => ?_, fun w k => rfl⟩
  · show Host.Outcome.next (takePor supsel s) = _
    simp only [takePor, hbat, hdd, Bool.false_eq_true, if_false]
    rfl
  · show Host.Outcome.next (takePor supsel s) = _
    simp only [takePor, hbat, hdd, Bool.false_eq_true, if_false, if_true]
    rfl
  · show Host.Outcome.next (takeVbatLoss s) = _
    simp only [takeVbatLoss, hbat, if_true]
    rfl
  · refine ⟨takeVddLoss w k s, rfl, ?_, fun hw => ?_⟩
    · simp only [takeVddLoss, hdd, hbat, if_true]
      split <;> rfl
    · simp only [takeVddLoss, hdd, if_true]
      split
      · rename_i ha
        obtain rfl | hidle := hw
        · rfl
        · exact absurd ha hidle
      · rfl
  · show Host.Outcome.next (takeVddReturn supsel s) = _
    simp only [takeVddReturn, hdd, hbat, Bool.false_eq_true, if_false, if_true]
    rfl
  · refine ⟨takeResetLow supsel w k s, rfl, ?_, ?_⟩
    · simp only [takeResetLow, hreset, hactive, if_true]
      rfl
    · rintro rfl
      simp only [takeResetLow, hreset, hactive, if_true]
      rfl

/-! ### The clock (R89, R96, R150) -/

theorem takeAdvance_running {s : State} (h : s.power.vbat = true) (cycles : Nat) : takeAdvance cycles s =
    if s.isActive then
      if s.isReady then ((s.setTb (s.tb.advance cycles)).setSched
          (schedFallDue (s.tb.advance cycles).tick s.main.sched)).setMon
        (s.main.mon.countTicks (s.tb.advances cycles))
      else (s.setTb (s.tb.advance cycles)).setSched (schedFallDue (s.tb.advance cycles).tick s.main.sched)
    else s.setTb (s.tb.advance cycles) := by
  rw [takeAdvance, if_neg (by rw [h]; exact Bool.noConfusion)]
  rfl

theorem exec_timebaseAdvance {s : State} {cycles n : Nat} {tick : Tick} (hbat : s.power.vbat = true)
    (hn : n = s.tb.advances cycles) (htick : tick = (s.tb.advance cycles).tick) :
    ∃ t, exec (.timebaseAdvance cycles) s = .next t ∧ t.tb = s.tb.advance cycles ∧
      (¬ s.isActive → t = s.setTb t.tb) ∧
      (s.power.state = .restarting → t = (s.setTb t.tb).setSched (schedFallDue tick s.main.sched)) ∧
      (s.isReady → t = ((s.setTb t.tb).setSched (schedFallDue tick s.main.sched)).setMon
        (s.main.mon.countTicks n)) := by
  subst hn htick
  refine ⟨takeAdvance cycles s, rfl, ?_⟩
  rw [takeAdvance_running hbat]
  by_cases hready : s.isReady
  · have hactive : s.isActive := .inr hready
    rw [if_pos hactive, if_pos hready]
    refine ⟨rfl, fun h => absurd hactive h, fun h => ?_, fun _ => rfl⟩
    rw [hready] at h
    cases h
  · by_cases hactive : s.isActive
    · rw [if_pos hactive, if_neg hready]
      exact ⟨rfl, fun h => absurd hactive h, fun _ => rfl, fun h => absurd h hready⟩
    · rw [if_neg hactive]
      exact ⟨rfl, fun _ => rfl, fun h => absurd (.inl h) hactive, fun h => absurd h hready⟩

/-- Settles O49: the advance is one update of the Timebase with what the count reaches in the main domain; the two rows of
the internal requests are one update each where the count is reached. -/
theorem clockDrivesTheSchedule : Obligations.ClockDrivesTheSchedule := by
  refine ⟨fun s cycles n tick hbat hn htick => ?_, fun s r hactive => ?_, fun s hready => ⟨fun h0 hle => ?_, fun h => ?_⟩⟩
  · have htick' : tick = (s.tb.advance cycles).tick := by
      apply BitVec.eq_of_toNat_eq
      rw [htick, Timebase.tick_advance, hn]
      rfl
    obtain ⟨t, hexec, htb, hinactive, hrestarting, hrdy⟩ := exec_timebaseAdvance hbat hn htick'
    refine ⟨t, hexec, by rw [htb, htick'], ?_, hinactive, hrestarting, fun h => ?_⟩
    · rw [htb, Timebase.advance, BitVec.toNat_ofNat]
    · refine (hrdy h).trans (congrArg _ ?_)
      have hne : (s.main.mon.interval != 0) = decide (s.main.mon.interval ≠ 0) := by
        rw [decide_not]
        rfl
      rw [Monitor.countTicks, Bool.and_assoc, hne]
  · show Host.Outcome.next (takeFallsDue r s) = _
    rw [takeFallsDue, if_pos hactive]
    refine congrArg (fun es => Host.Outcome.next (s.setSched es)) (List.map_congr_left fun e _ => ?_)
    unfold Entry.reached
    by_cases hr : e.ref = r <;> by_cases hd : e.deadline ≤ s.now <;> simp [hr, hd]
  · show Host.Outcome.next (takeScrubPending s) = _
    rw [takeScrubPending, if_pos ⟨hready, h0, hle⟩]
  · show Host.Outcome.next (takeScrubPending s) = _
    rw [takeScrubPending, if_neg]
    rintro ⟨-, h0, hle⟩
    obtain h | h := h
    · exact h0 h
    · exact absurd hle (Nat.not_le.2 h)

/-! ### The scrub step and the audit step (R150, R155, R156) -/

/-- A checked read of word 0 alone, where it is good, changes nothing. -/
theorem State.readSlot_identGood {s : State} {n : Nat} (h : (s.store.slot n).ecc.head? = some .good) :
    s.readSlot n 1 = (s, true) := by
  have htake : (s.store.slot n).ecc.take 1 = List.replicate 1 .good := by
    obtain ⟨es, hes⟩ := List.head?_eq_some_iff.1 h
    rw [hes]
    rfl
  simp only [State.readSlot, htake, State.logWords_good, readable_replicate_good, singlesFrom_replicate_good,
    List.map_nil, State.writes_nil]
  split <;> rfl

theorem checkFreeSlot_good {s : State} {n : Nat} (h : (s.store.slot n).ecc.head? = some .good) :
    checkFreeSlot n s = .ok true s := by
  have hread : readWords n 1 s = .ok true s := by simp only [readWords, State.readSlot_identGood h]
  rw [checkFreeSlot, Take.bind_of_ok hread]
  rfl

theorem touchOnly_atRest {s : State} {k : Key} {n : Nat} (h : s.atRest k n) : touchOnly n s = .ok () s := by
  rw [touchOnly, Take.bind_of_ok (touch_atRest h)]
  exact closeBench_atRest h

/-- The three kinds of slot that a scrub step passes without an effect (R150). -/
theorem scrubSlot_passes {s : State} {n : Nat}
    (h : (s.isFree n = true ∧ (s.store.slot n).ecc.head? = some .good) ∨
      (s.isFree n = false ∧ Tab.find? s.main.quar n ≠ none) ∨
      (s.isFree n = false ∧ Tab.find? s.main.quar n = none ∧ ∃ k, s.atRest k n)) :
    scrubSlot n s = .ok () s := by
  rw [scrubSlot, Take.bind_of_ok (Take.run_get s)]
  rcases h with ⟨hfree, hgood⟩ | ⟨hfree, hquar⟩ | ⟨hfree, hquar, k, hrest⟩
  · rw [if_pos hfree, Take.run_discard, checkFreeSlot_good hgood]
  · rw [if_neg (Bool.eq_false_iff.1 hfree), if_pos (Option.isSome_iff_ne_none.2 hquar), Take.run_pure]
  · rw [if_neg (Bool.eq_false_iff.1 hfree), if_neg (by rw [hquar]; exact Bool.false_ne_true), touchOnly_atRest hrest]

/-- A record at rest is so whatever the Store Monitor and the audit hold. -/
theorem State.atRest_setMon_taken {s : State} {k : Key} {n : Nat} (h : s.atRest k n) (m : Monitor) (w : Waiting) :
    ((s.setMon m).taken w).atRest k n := ⟨h.indexed, h.good, h.queued, h.quiet, h.kept⟩

theorem takeScrubStep_passes {s : State} {n : Nat} (hready : s.isReady) (hf : ¬ s.inFault)
    (hp : s.main.mon.stepPending = true) (hn : n = s.main.mon.cursor)
    (h : (s.isFree n = true ∧ (s.store.slot n).ecc.head? = some .good) ∨
      (s.isFree n = false ∧ Tab.find? s.main.quar n ≠ none) ∨
      (s.isFree n = false ∧ Tab.find? s.main.quar n = none ∧ ∃ k, s.atRest k n)) :
    takeScrubStep s = (s.setMon { s.main.mon with
      cursor := (n + 1) % 1024, count := 0, stepPending := false }).taken .scrub := by
  subst hn
  have hslot : scrubSlot s.main.mon.cursor
      ((s.setMon { s.main.mon with count := 0, stepPending := false }).taken .scrub) = .ok () _ :=
    scrubSlot_passes (h.imp_right fun h => h.imp_right fun ⟨h1, h2, k, h3⟩ => ⟨h1, h2, k, State.atRest_setMon_taken h3 _ _⟩)
  rw [takeScrubStep, if_pos ⟨hready, hf, hp⟩, State.run, scrubWork, Take.bind_of_ok (Take.run_get _)]
  simp only [State.taken, State.setAudit_mon, State.setMon_mon] at hslot ⊢
  rw [Take.bind_of_ok hslot]
  rfl

theorem State.nextAudited_none {s : State}
    (h : ∀ e ∈ s.main.index, ¬ (s.main.audit.cursor.toNat ≤ e.1 ∧ e.1 ≤ s.main.audit.high.toNat)) :
    s.nextAudited = none :=
  List.find?_eq_none.2 fun e he => by simpa using h e he

theorem State.nextAudited_some {s : State} {pre post : List (Nat × IndexEntry)} {k : Key} {e : IndexEntry}
    (hindex : s.main.index = pre ++ (k.toNat, e) :: post)
    (hpre : ∀ x ∈ pre, ¬ (s.main.audit.cursor.toNat ≤ x.1 ∧ x.1 ≤ s.main.audit.high.toNat))
    (hlow : s.main.audit.cursor ≤ k) (hhigh : k ≤ s.main.audit.high) : s.nextAudited = some (k.toNat, e) := by
  have hnone : List.find? (fun e : Nat × IndexEntry =>
      s.main.audit.cursor.toNat ≤ e.1 && e.1 ≤ s.main.audit.high.toNat) pre = none :=
    List.find?_eq_none.2 fun x hx => by simpa using hpre x hx
  rw [State.nextAudited, hindex, List.find?_append, hnone, Option.none_or, List.find?_cons_of_pos]
  exact Bool.and_eq_true_iff.2 ⟨decide_eq_true hlow, decide_eq_true hhigh⟩

theorem auditImageOf_quarantined {k : Key} {e : IndexEntry} (h : e.quarantined = true) (s : State) :
    auditImageOf k e s = .ok (some (quarantinedImage k, true)) s := by
  rw [auditImageOf, if_pos h, Take.run_pure]

theorem auditImageOf_atRest {k : Key} {e : IndexEntry} {s : State} (h : e.quarantined = false)
    (hrest : s.atRest k e.slot) :
    auditImageOf k e s = .ok (some ((s.recordOf e.slot).auditImage, false)) s := by
  rw [auditImageOf, if_neg (Bool.eq_false_iff.1 h), Take.bind_of_ok (touch_atRest hrest)]
  show (closeBench (s.bench e.slot none) >>= fun _ => pure _) s = _
  rw [Take.bind_of_ok (closeBench_atRest hrest), Take.run_pure]
  rfl

/-- The step passes a key whose image it folds, and the next one waits behind the requests of that moment (R155). -/
theorem auditStepWork_folds {s : State} {k : Key} {e : IndexEntry} {bytes : List Byte} {q : Bool}
    (hnext : s.nextAudited = some (k.toNat, e)) (himage : auditImageOf k e s = .ok (some (bytes, q)) s) :
    auditStepWork s = .ok () (s.setAudit { s.main.audit with
      digest := crc32Fold s.main.audit.digest bytes, visited := min (s.main.audit.visited + 1) 65535,
      qseen := if q then min (s.main.audit.qseen + 1) 65535 else s.main.audit.qseen, cursor := k + 1,
      ahead := s.requests }) := by
  rw [auditStepWork, Take.bind_of_ok (Take.run_get s), hnext]
  show (auditImageOf (BitVec.ofNat 32 k.toNat) e >>= _) s = _
  rw [BitVec.ofNat_toNat, BitVec.setWidth_eq, Take.bind_of_ok himage]
  rfl

/-- The step that finds no key left in its range ends the walk (R156, case 1). -/
theorem auditStepWork_ends {s : State} (hnext : s.nextAudited = none) :
    auditStepWork s = .ok () (s.setAudit s.main.audit.finish) := by
  rw [auditStepWork, Take.bind_of_ok (Take.run_get s), hnext]
  rfl

theorem exec_auditStep_of_work {s t : State} (hready : s.isReady) (hf : ¬ s.inFault)
    (hp : s.main.audit.stepPending = true) (hrun : s.main.audit.state = .running)
    (hahead : ∀ w ∈ s.main.audit.ahead, s.stillWaits w = false) (hw : auditStepWork s = .ok () t) :
    exec .auditStep s = .next t := by
  have hall : s.main.audit.ahead.all (fun w => !s.stillWaits w) = true :=
    List.all_eq_true.2 fun w hmem => by rw [hahead w hmem]; rfl
  show Host.Outcome.next (takeAuditStep s) = _
  rw [takeAuditStep, if_pos ⟨hready, hf, hp, hrun, hall⟩, State.run, hw]

/-- Settles O50: the touch of a record at rest changes nothing, so a step is its own bookkeeping. -/
theorem backgroundStepsPassOneSlotOrKey : Obligations.BackgroundStepsPassOneSlotOrKey := by
  refine ⟨fun s n hready hf hp hn h => ?_, fun s w hw hwaits => ?_, ?_⟩
  · exact congrArg Host.Outcome.next (takeScrubStep_passes hready hf hp hn h)
  · show Host.Outcome.next (takeAuditStep s) = _
    rw [takeAuditStep, if_neg]
    rintro ⟨-, -, -, -, hall⟩
    have := List.all_eq_true.1 hall w hw
    rw [hwaits] at this
    cases this
  · rintro s _ hready hf rfl hp hrun hahead
    have hexec := fun t => exec_auditStep_of_work (t := t) hready hf hp hrun hahead
    refine ⟨fun h => hexec _ (auditStepWork_ends (State.nextAudited_none h)),
      fun pre post k e hindex hpre hlow hhigh => ?_⟩
    have hnext := State.nextAudited_some hindex hpre hlow hhigh
    refine ⟨fun hq => ?_, fun hq hrest => ?_⟩
    · rw [hexec _ (auditStepWork_folds hnext (auditImageOf_quarantined hq s)), if_pos rfl, quarantinedImage, RecState.code]
    · rw [hexec _ (auditStepWork_folds hnext (auditImageOf_atRest hq hrest)), if_neg Bool.false_ne_true]

/-! ### The session events (R72, R87, R98) -/

/-- The Session Table's check of an event: the session's state and deadline, with an entry among the lost control words
counting as none. -/
theorem sessionEvent_holds {k : SessKind} {st : SessState} {c : Nat} {d : Tick} {s : State} {e : SessEntry}
    (h : (sessionWord c).holds s e) : sessionEvent k st c d s = .ok ()
      (if s.entryLost c = false ∧ e.state = st ∧ (s.vol c).deadline = some d then s.requestLapse k c true else s) := by
  rw [sessionEvent]
  cases hl : s.entryLost c with
  | true =>
    rw [Take.bind_of_ok (readSession_lost h hl), if_neg fun h => Bool.noConfusion h.1]
    rfl
  | false =>
    rw [Take.bind_of_ok (readSession_holds h hl)]
    dsimp only
    rw [Take.bind_of_ok (Take.run_get s)]
    by_cases hd : e.state = st ∧ (s.vol c).deadline = some d
    · rw [if_pos hd, if_pos ⟨rfl, hd⟩, Take.run_modify]
    · rw [if_neg hd, if_neg fun h => hd h.2, Take.run_pure]

theorem takeHeartbeat_of_event {s : State} {c : Nat} {d : Tick} {due : Bool} {e : SessEntry}
    (hnext : s.nextSessionEvent = some { kind := .heartbeat, ref := .session c, deadline := d, due := due })
    (h : (sessionWord c).holds s e) : takeHeartbeat c d s =
      if s.entryLost c = false ∧ e.state = .opened ∧ (s.vol c).deadline = some d then
        (s.schedRemove (.session c)).requestLapse .heartbeat c true else s.schedRemove (.session c) := by
  have hwork := sessionEvent_holds (k := .heartbeat) (st := .opened) (d := d) (s := s.schedRemove (.session c)) h
  rw [takeHeartbeat, hnext]
  dsimp only
  rw [if_pos ⟨rfl, rfl, rfl⟩, State.run, hwork]
  rfl

theorem takeGrace_of_event {s : State} {c : Nat} {d : Tick} {due : Bool} {e : SessEntry}
    (hnext : s.nextSessionEvent = some { kind := .grace, ref := .session c, deadline := d, due := due })
    (h : (sessionWord c).holds s e) : takeGrace c d s =
      if s.entryLost c = false ∧ e.state = .suspect ∧ (s.vol c).deadline = some d then
        (s.schedRemove (.session c)).requestLapse .grace c true else s.schedRemove (.session c) := by
  have hwork := sessionEvent_holds (k := .grace) (st := .suspect) (d := d) (s := s.schedRemove (.session c)) h
  rw [takeGrace, hnext]
  dsimp only
  rw [if_pos ⟨rfl, rfl, rfl⟩, State.run, hwork]
  rfl

/-- Settles O47: the event is the next one of the Session Table, so it leaves the schedule; the check decides the rest. -/
theorem sessionEventsRaiseLapses : Obligations.SessionEventsRaiseLapses := by
  rintro s _ c d due e he rfl
  refine ⟨fun hnext => ?_, fun hnext => ?_⟩
  · have htake : exec (.heartbeatEvent c d) s = .next _ := congrArg Host.Outcome.next (takeHeartbeat_of_event hnext he)
    refine ⟨fun hl => ?_, fun h => ?_, fun h => ?_⟩
    · rw [htake, if_neg fun h => Bool.noConfusion (hl.symm.trans h.1)]
    · rw [htake, if_pos h]
      rfl
    · rw [htake, if_neg h]
  · have htake : exec (.graceEvent c d) s = .next _ := congrArg Host.Outcome.next (takeGrace_of_event hnext he)
    refine ⟨fun hl => ?_, fun h => ?_, fun h => ?_⟩
    · rw [htake, if_neg fun h => Bool.noConfusion (hl.symm.trans h.1)]
    · rw [htake, if_pos h]
      rfl
    · rw [htake, if_neg h]

end Sys2Proof.Machine
end

section
/-! PROOFS. One rule per operation that later proofs share: several commits in a row, a session's volatile part, the
attention lines, and a record in hand at its opening, its handoff and its close. -/

namespace Sys2Proof.Machine

/-! ### Commits in a row (R138) -/

/-! What an update of the main domain leaves in the store. -/

@[simp] theorem State.respond_store (s : State) (p : PortId) (b : Byte) (r : Reply) : (s.respond p b r).store = s.store := rfl
@[simp] theorem State.accept_store (s : State) (p : PortId) : (s.accept p).store = s.store := rfl
@[simp] theorem State.taken_store (s : State) (w : Waiting) : (s.taken w).store = s.store := rfl
@[simp] theorem State.told_store (s : State) (k : Key) : (s.told k).store = s.store := rfl
@[simp] theorem State.schedInsert_store (s : State) (k : Kind) (r : Ref) (d : Tick) :
    (s.schedInsert k r d).store = s.store := rfl
@[simp] theorem State.schedMove_store (s : State) (k : Kind) (r : Ref) (d : Tick) :
    (s.schedMove k r d).store = s.store := rfl
@[simp] theorem State.schedRemove_store (s : State) (r : Ref) : (s.schedRemove r).store = s.store := rfl
@[simp] theorem State.setVol_store (s : State) (c : Nat) (v : SessVol) : (s.setVol c v).store = s.store := rfl
@[simp] theorem State.setNoticesOf_store (s : State) (c : Nat) (q : NoticeQueue) :
    (s.setNoticesOf c q).store = s.store := rfl
@[simp] theorem State.setQueueOf_store (s : State) (n : Nat) (q : List Nat) : (s.setQueueOf n q).store = s.store := rfl
@[simp] theorem State.freeWaiter_store (s : State) (id c : Nat) : (s.freeWaiter id c).store = s.store := rfl
@[simp] theorem State.recordKept_store (s : State) (n : Nat) (r : Rec) : (s.recordKept n r).store = s.store := rfl
@[simp] theorem State.recordGone_store (s : State) (n : Nat) (k : Key) : (s.recordGone n k).store = s.store := rfl

/-- Volatile effects behind commits. -/
theorem State.becomes_then {s t : State} {st : Store} (h : s.becomes st id t) {F : State → State}
    (hF : ∀ x, (F x).store = x.store) : s.becomes st F (F t) := by
  obtain ⟨heq, hcore, hmarker⟩ := h
  refine ⟨?_, ?_, ?_⟩
  · rw [hF, ← show t = s.setStore t.store from heq]
  · rw [hF]; exact hcore
  · rw [hF]; exact hmarker

/-- One more commit behind the commits that were made. -/
theorem State.becomes_commit {s t : State} {st : Store} (h : s.becomes st id t) (ht : t.between) (c : Commit) :
    s.becomes (st.putCommit c) id (t.commit c) := by
  obtain ⟨heq, hcore, -⟩ := h
  refine ⟨?_, (State.commit_store ht.uncut ht.canonical c).trans (hcore.putCommit c), State.commit_marker ht.uncut c⟩
  calc t.commit c = t.setStore (t.commit c).store := State.commit_eq t ht.uncut c
    _ = (s.setStore t.store).setStore (t.commit c).store := congrArg (State.setStore · _) heq

theorem Store.setSession_putImage (st : Store) (c : Nat) (x : Copies SessEntry) (i : Image) :
    (st.setSession c x).putImage i = (st.putImage i).setSession c x := by
  cases i with
  | slot n whole img => cases whole <;> rfl
  | zone m => rfl

/-- Of the image that frees a slot word 0 alone is written (R134), so volatile effects may stand behind the commit of any
image with that word 0. -/
theorem State.becomes_freed_then {s : State} (h : s.between) (n : Nat) (img img' : SlotImg) {F : State → State}
    (hF : ∀ x, (F x).store = x.store) :
    s.becomes (s.store.putCommit { images := [.slot n false { img' with ident := IdWord.free }] }) F
      (F (s.commit { images := [.slot n false { img with ident := IdWord.free }] })) := by
  have hput : s.store.putCommit { images := [.slot n false { img' with ident := IdWord.free }] } =
      s.store.putCommit { images := [.slot n false { img with ident := IdWord.free }] } := by
    simp only [Store.putCommit, List.foldl_cons, List.foldl_nil, Store.putImage]
  rw [hput]
  exact State.becomes_commit_then h _ hF

theorem Store.canonical_putCommit {st : Store} (h : st.canonical = true) (c : Commit) :
    (st.putCommit c).canonical = true := (foldl_targets c h).2

/-- The entry that an earlier commit gave a session does not show behind a later commit of the same entry. -/
theorem Store.putCommit_session_again {st : Store} (h : st.canonical = true) (c : Nat) (a b : SessEntry)
    (nonce : Option Nonce) : (st.putCommit { session := some (c, a) }).putCommit { session := some (c, b), nonce := nonce } =
      st.putCommit { session := some (c, b), nonce := nonce } := by
  have hset : (st.putEntry (c, a)).putEntry (c, b) = st.putEntry (c, b) := Store.setSession_setSession h c _ _
  simp only [Store.putCommit, List.foldl_nil, Option.elim_some, Option.elim_none, hset]

/-! A commit and an update of the main domain's tables do not meet. -/

theorem State.commit_setSched (s : State) (x : List Entry) (c : Commit) :
    (s.setSched x).commit c = (s.commit c).setSched x := rfl
theorem State.commit_setVol (s : State) (n : Nat) (v : SessVol) (c : Commit) :
    (s.setVol n v).commit c = (s.commit c).setVol n v := rfl
theorem State.commit_setQueueOf (s : State) (n : Nat) (q : List Nat) (c : Commit) :
    (s.setQueueOf n q).commit c = (s.commit c).setQueueOf n q := rfl
theorem State.commit_setPool (s : State) (x : Tab Waiter) (c : Commit) :
    (s.setPool x).commit c = (s.commit c).setPool x := rfl
theorem State.commit_taken (s : State) (w : Waiting) (c : Commit) : (s.taken w).commit c = (s.commit c).taken w := rfl
theorem State.commit_recordKept (s : State) (n : Nat) (r : Rec) (c : Commit) :
    (s.recordKept n r).commit c = (s.commit c).recordKept n r := rfl

/-- A record, and then a session entry that an earlier commit had changed, with the nonce counter: what one commit of
them all leaves. -/
theorem Store.putCommit_image_session {st : Store} (h : st.canonical = true) (c : Nat) (a b : SessEntry) (i : Image)
    (nonce : Option Nonce) :
    ((st.putCommit { session := some (c, a) }).putCommit { images := [i] }).putCommit
      { session := some (c, b), nonce := nonce } =
      st.putCommit { images := [i], session := some (c, b), nonce := nonce } := by
  have hset : (((st.putEntry (c, a)).putImage i).putEntry (c, b)) = (st.putImage i).putEntry (c, b) := by
    show ((st.setSession c (Copies.two a)).putImage i).setSession c (Copies.two b) = _
    rw [Store.setSession_putImage, Store.setSession_setSession (Store.canonical_putImage h i)]
    rfl
  simp only [Store.putCommit, List.foldl_nil, List.foldl_cons, Option.elim_some, Option.elim_none, hset]

/-! ### The volatile part of a session (R65) -/

theorem State.between_sessV {s : State} (h : s.between) : Tab.wf SessVol.none s.main.sessV = true := by
  obtain ⟨-, -, -, -, hsessV, -⟩ := (Main.canonical_iff s.main).1 h.tables
  exact hsessV

theorem State.between_queues {s : State} (h : s.between) : Tab.wf [] s.main.queues = true := by
  obtain ⟨-, -, -, hqueues, -, -⟩ := (Main.canonical_iff s.main).1 h.tables
  exact hqueues

theorem State.setVol_setVol {s : State} (h : Tab.wf SessVol.none s.main.sessV = true) (c : Nat) (v w : SessVol) :
    (s.setVol c v).setVol c w = s.setVol c w := by
  show s.setSessV (Tab.set SessVol.none (Tab.set SessVol.none s.main.sessV c v) c w) = _
  rw [Tab.set_set h]
  rfl

theorem State.vol_setVol {s : State} (h : Tab.wf SessVol.none s.main.sessV = true) (c d : Nat) (v : SessVol) :
    (s.setVol c v).vol d = if c = d then v else s.vol d := Tab.get_set (Tab.rising_of_wf h) c d v

@[simp] theorem State.vol_setVol_self {s : State} (h : Tab.wf SessVol.none s.main.sessV = true) (c : Nat)
    (v : SessVol) : (s.setVol c v).vol c = v := by rw [State.vol_setVol h, if_pos rfl]

/-! ### The attention lines (R112) -/

theorem State.driveLines_setAudit (s : State) (a : Audit) : (s.setAudit a).driveLines = s.driveLines.setAudit a := by
  by_cases hf : s.inFault
  · rw [State.driveLines, if_pos (show (s.setAudit a).inFault from hf), State.driveLines, if_pos hf]
  · rw [State.driveLines, if_neg (show ¬ (s.setAudit a).inFault from hf), State.driveLines, if_neg hf]
    rfl

theorem State.driveLines_audit (s : State) : s.driveLines.main.audit = s.main.audit := by
  unfold State.driveLines
  split <;> rfl

theorem State.driveLines_taken (s : State) (w : Waiting) : (s.taken w).driveLines = s.driveLines.taken w := by
  rw [State.taken, State.driveLines_setAudit, State.taken, State.driveLines_audit]

theorem State.driveLines_now (s : State) : s.driveLines.now = s.now := by
  unfold State.driveLines
  split <;> rfl

/-! ### A record at rest has nothing due (R7, R8) -/

/-- Handoff only adds results. -/
theorem handoffOver_outs (now : Tick) : ∀ (q : List (Nat × Waiter)) (b : Bench),
    ∃ os, (handoffOver now q b).outs = b.outs ++ os
  | [], b => ⟨[], (List.append_nil _).symm⟩
  | (id, w) :: q, b => by
    rw [handoffOver]
    split
    · obtain ⟨os, hos⟩ := handoffOver_outs now q (b.emit (timeoutOuts now b.body.key id w))
      exact ⟨timeoutOuts now b.body.key id w ++ os, by rw [hos, Bench.emit, List.append_assoc]⟩
    · have hgrant : ∃ os, (b.grantWaiter now id w).outs = b.outs ++ os := ⟨_, by
        simp only [Bench.grantWaiter, Bench.issue, Bench.emit, Bench.setGrants, List.append_assoc]
        rfl⟩
      obtain ⟨gs, hgs⟩ := hgrant
      split
      · split
        · obtain ⟨os, hos⟩ := handoffOver_outs now q (b.grantWaiter now id w)
          exact ⟨gs ++ os, by rw [hos, hgs, List.append_assoc]⟩
        · exact ⟨gs, hgs⟩
      · exact ⟨[], (List.append_nil _).symm⟩

theorem Bench.lazyExpiry_outs (now : Tick) (b : Bench) :
    ∃ os, (b.lazyExpiry now).outs = ((b.expireGrants now).timeoutWaiters now).outs ++ os := by
  unfold Bench.lazyExpiry
  dsimp only
  split
  · exact handoffOver_outs now _ _
  · exact ⟨[], (List.append_nil _).symm⟩

theorem Bench.expireGrants_none {now : Tick} {b : Bench} (h : b.body.grants.filter (Grant.due now) = []) :
    b.expireGrants now = b := by
  rw [Bench.expireGrants]
  exact if_pos (List.isEmpty_iff.2 h)

theorem Bench.expireGrants_due {now : Tick} {b : Bench} (h : b.body.grants.filter (Grant.due now) ≠ []) :
    b.expireGrants now = (b.setGrants (b.body.grants.filter fun g => !g.due now)).emit
      ((b.body.grants.filter (Grant.due now)).flatMap fun g =>
        [.notice g.client (grantNotice now .expired .none b.body.key g.token), .remove (.grant b.slot g.token)]) := by
  rw [Bench.expireGrants]
  exact if_neg fun he => h (List.isEmpty_iff.1 he)

/-- Lazy expiry that changes nothing found no grant and no waiter due. -/
theorem Bench.nothingDue_of_quiet {now : Tick} {b : Bench} (h : b.lazyExpiry now = b) :
    (∀ g ∈ b.body.grants, g.due now = false) ∧ ∀ p ∈ b.queue, p.2.due now = false := by
  obtain ⟨os, hos⟩ := b.lazyExpiry_outs now
  rw [h] at hos
  have houts : (b.expireGrants now).outs = b.outs ∧ (b.expireGrants now).queue = b.queue ∧
      (b.body.grants.filter (Grant.due now) ≠ [] → False) := by
    by_cases hdue : b.body.grants.filter (Grant.due now) = []
    · rw [Bench.expireGrants_none hdue]
      exact ⟨rfl, rfl, fun hne => hne hdue⟩
    · exfalso
      obtain ⟨g, gs, hg⟩ := List.exists_cons_of_ne_nil hdue
      have hlen := congrArg List.length hos
      rw [Bench.timeoutWaiters, Bench.expireGrants_due hdue] at hlen
      simp only [Bench.emit, Bench.setGrants, hg, List.flatMap_cons, List.length_append, List.length_cons] at hlen
      omega
  obtain ⟨h1, h2, h3⟩ := houts
  refine ⟨fun g hg => Bool.eq_false_iff.2 fun hd => h3 (List.ne_nil_of_mem (List.mem_filter.2 ⟨hg, hd⟩)), fun p hp => ?_⟩
  refine Bool.eq_false_iff.2 fun hd => ?_
  have hmem : p ∈ b.queue.filter fun p => p.2.due now := List.mem_filter.2 ⟨hp, hd⟩
  obtain ⟨q, qs, hq⟩ := List.exists_cons_of_ne_nil (List.ne_nil_of_mem hmem)
  have hlen := congrArg List.length hos
  simp only [Bench.timeoutWaiters, h1, h2, hq, timeoutOuts, List.flatMap_cons, List.length_append,
    List.length_cons] at hlen
  omega

theorem State.atRest_noWaiterDue {s : State} {k : Key} {n : Nat} (h : s.atRest k n) :
    ∀ p ∈ s.waitersOf n, p.2.due s.now = false := (Bench.nothingDue_of_quiet h.quiet).2

/-- A record's rest goes by its slot, the token counter, the now and the main domain. -/
theorem State.atRest_congr {s t : State} {k : Key} {n : Nat} (h : s.atRest k n) (hmain : t.main = s.main)
    (hnow : t.now = s.now) (hslot : t.store.slot n = s.store.slot n) (htoken : t.store.token = s.store.token) :
    t.atRest k n := by
  have hlookup : t.lookup k = s.lookup k := by rw [State.lookup, hmain]; rfl
  have hwaiters : t.waitersOf n = s.waitersOf n := by
    simp only [State.waitersOf, State.queueOf, State.waiter, hmain]
  have hqueue : t.queueOf n = s.queueOf n := by rw [State.queueOf, hmain]; rfl
  have hnext : t.nextToken = s.nextToken := by
    simp only [State.nextToken, Control.peek, tokenWord, htoken]
  have hbench : t.bench n none = s.bench n none := by
    simp only [State.bench, hslot, hwaiters, hnext]
  obtain ⟨hindexed, hgood, hqueued, hquiet, hkept⟩ := h
  exact ⟨by rw [hlookup]; exact hindexed, by rw [hslot]; exact hgood, by rw [hwaiters, hqueue]; exact hqueued,
    by rw [hbench, hnow]; exact hquiet, by rw [hbench]; exact hkept⟩

/-! ### Handoff that grants nobody (R51) -/

theorem handoff_of_stopped {now : Tick} {b : Bench}
    (h : ∀ p, b.queue.head? = some p → p.2.due now = false ∧ b.body.admits p.2.client p.2.mode = false) :
    b.handoff now = b := by
  rw [Bench.handoff]
  cases hq : b.queue with
  | nil =>
    rw [handoffOver, ← hq]
  | cons p q =>
    obtain ⟨id, w⟩ := p
    obtain ⟨hdue, hadmits⟩ := h (id, w) (by rw [hq]; rfl)
    rw [handoffOver, if_neg (Bool.eq_false_iff.1 hdue), if_neg (Bool.eq_false_iff.1 hadmits), ← hq]

/-! ### The summary and retirement (R2, R15) -/

theorem summaryOf_eq_vacant {gs : List Grant} : summaryOf gs = .vacant ↔ gs = [] := by
  cases gs with
  | nil => exact ⟨fun _ => rfl, fun _ => rfl⟩
  | cons g gs =>
    by_cases hg : g.mode = .exclusive <;> simp [summaryOf, hg]

/-- A record in hand with its summary up to date is retired exactly where R15 has it retired. -/
theorem Bench.toRetire_iff {b : Bench} (h : b.body.state = summaryOf b.body.grants) :
    b.toRetire = true ↔ b.body.retires (b.queue.map Prod.fst) := by
  simp only [Bench.toRetire, Rec.retires, Bool.and_eq_true, beq_iff_eq, h, summaryOf_eq_vacant, List.isEmpty_iff,
    List.map_eq_nil_iff, and_assoc]

/-! ### The close of a record in hand (R5, R9, R53) -/

theorem State.requeue_same {s : State} {b : Bench} (h : b.queue.map Prod.fst = s.queueOf b.slot) :
    s.requeue b = s := if_pos h

/-- The close of a changed record that stays: one commit of the whole record, then the index, the set of FREE slots and the
audit, then its results. -/
theorem closeBench_kept {s : State} {b : Bench} {tok : Token} (hd : b.dirty = true) (hr : b.toRetire = false)
    (hq : b.queue.map Prod.fst = s.queueOf b.slot) (hf : freedClients b.outs = [])
    (ht : 0 < b.issued → tokenWord.holds s tok) : closeBench b s = .ok ()
      (((s.commit { images := [.slot b.slot true b.next.image],
                    token := if 0 < b.issued then some b.token else none }).recordKept b.slot b.body).handOuts b.outs) := by
  rw [closeBench_of_ok hf ht, closeBenches_dirty hd hr, State.requeue_same (by exact hq)]
  rfl

/-- The close of a record that is retired: word 0 of its slot is committed FREE, its key leaves the index, then its
results. -/
theorem closeBench_retired {s : State} {b : Bench} (hr : b.toRetire = true) (hi : b.issued = 0)
    (hq : b.queue.map Prod.fst = s.queueOf b.slot) (hf : freedClients b.outs = []) : closeBench b s = .ok ()
      (((s.commit { images := [.slot b.slot false { b.body.image with ident := IdWord.free }] }).recordGone b.slot
        b.body.key).handOuts b.outs) := by
  rw [closeBench_of_ok (tok := 0) hf (fun h => absurd h (by omega)), closeBenches_retired hr hi,
    State.requeue_same (by exact hq)]
  rfl

/-! ### The record that a command names (R35, R126) -/

theorem locateGrant_atRest {s : State} {k : Key} {n : Nat} {tok : Token} (hk : ¬ reservedKey k) (ht : tok ≠ 0)
    (h : s.atRest k n) : locateGrant k tok s = .ok (.ok (s.bench n none)) s := by
  obtain ⟨holders, hindexed⟩ := h.indexed
  rw [locateGrant, Take.bind_of_ok (Take.run_get s), if_neg hk, if_neg ht, hindexed]
  dsimp only
  rw [if_neg Bool.false_ne_true, Take.bind_of_ok (touch_atRest h)]
  rfl

/-- A command on the caller's own grant of a record at rest is its work on that grant (R35). -/
theorem onGrant_atRest {s : State} {f : Frame} {k : Key} {n : Nat} {tok : Token} {g : Grant}
    {work : Bench → Grant → Take Reply} (hkey : k = keyAt f.args 0) (hk : ¬ reservedKey k) (htok : tok = tokenAt f.args 4)
    (ht : tok ≠ 0) (h : s.atRest k n) (hg : (s.recordOf n).liveGrant f.client.toNat tok = some g) :
    onGrant f work s = work (s.bench n none) g s := by
  subst hkey htok
  rw [onGrant, Take.bind_of_ok (locateGrant_atRest hk ht h)]
  dsimp only [State.bench_body]
  rw [hg]

end Sys2Proof.Machine
end

section
/-! PROOFS. Chapter 2 and its neighbours: one grant issued, changed or removed on a record at rest (R25, R30, R35 to R40,
R126, R127). -/

namespace Sys2Proof.Machine

/-! ### A grant changed or removed, and the close (R4, R15, R53) -/

theorem Bench.emit_nil (b : Bench) : b.emit [] = b := by rw [Bench.emit, List.append_nil]

/-- The close of a record at rest in which one grant was changed. -/
theorem closeBench_changed {s : State} {k : Key} {n : Nat} (h : s.atRest k n) (hne : (s.recordOf n).grants ≠ [])
    (tok : Token) (change : Grant → Grant) {os : List Out} (hos : freedClients os = []) :
    closeBench (((s.bench n none).changeGrant tok change).emit os) s = .ok ()
      (((s.commit { images := [.slot n true ((s.recordOf n).changed tok change).image] }).recordKept n
        ((s.recordOf n).changed tok change)).handOuts os) := by
  have hretire : (((s.bench n none).changeGrant tok change).emit os).toRetire = false := by
    refine Bool.eq_false_iff.2 fun hr => ?_
    obtain ⟨-, hgrants, -⟩ := (Bench.toRetire_iff rfl).1 hr
    exact hne (List.map_eq_nil_iff.1 hgrants)
  exact closeBench_kept (tok := 0) rfl hretire h.queued hos fun hi => absurd hi (Nat.lt_irrefl 0)

/-- What the removal of a grant hands over: its schedule entry goes where it is LIVE (R22). -/
def removedOuts (n : Nat) (g : Grant) : List Out := if g.gstate = .live then [.remove (.grant n g.token)] else []

theorem freedClients_removedOuts (n : Nat) (g : Grant) (os : List Out) :
    freedClients (removedOuts n g ++ os) = freedClients os := by
  unfold removedOuts
  split <;> rfl

/-- The close of a record at rest from which a grant was removed and which is kept. -/
theorem closeBench_without {s : State} {k : Key} {n : Nat} {g : Grant} (h : s.atRest k n)
    (hr : ¬ ((s.recordOf n).without g.token).retires (s.queueOf n)) {os : List Out} (hos : freedClients os = []) :
    closeBench (((s.bench n none).removeGrant g).emit os) s = .ok ()
      (((s.commit { images := [.slot n true ((s.recordOf n).without g.token).image] }).recordKept n
        ((s.recordOf n).without g.token)).handOuts (removedOuts n g ++ os)) := by
  have hretire : (((s.bench n none).removeGrant g).emit os).toRetire = false := by
    refine Bool.eq_false_iff.2 fun ht => hr ?_
    obtain ⟨hpersist, hgrants, hqueue⟩ := (Bench.toRetire_iff rfl).1 ht
    exact ⟨hpersist, hgrants, h.queued.symm.trans hqueue⟩
  exact closeBench_kept (tok := 0) rfl hretire h.queued ((freedClients_removedOuts n g os).trans hos)
    fun hi => absurd hi (Nat.lt_irrefl 0)

/-- The close of a record at rest that the removal of a grant has retired. -/
theorem closeBench_without_retired {s : State} {k : Key} {n : Nat} {g : Grant} (h : s.atRest k n)
    (hr : ((s.recordOf n).without g.token).retires (s.queueOf n)) {os : List Out} (hos : freedClients os = []) :
    closeBench (((s.bench n none).removeGrant g).emit os) s = .ok ()
      (((s.commit { images := [.slot n false { ((s.bench n none).removeGrant g).body.image with ident := IdWord.free }] }
        ).recordGone n (s.recordOf n).key).handOuts (removedOuts n g ++ os)) := by
  obtain ⟨hpersist, hgrants, hqueue⟩ := hr
  have hretire : (((s.bench n none).removeGrant g).emit os).toRetire = true :=
    (Bench.toRetire_iff rfl).2 ⟨hpersist, hgrants, h.queued.trans hqueue⟩
  exact closeBench_retired hretire rfl h.queued ((freedClients_removedOuts n g os).trans hos)

/-- No handoff follows the removal of a grant where no waiter of the record can be granted. -/
theorem handoff_without {s : State} {k : Key} {n : Nat} {g : Grant} (h : s.atRest k n)
    (hno : ((s.recordOf n).without g.token).noHandoff (s.waitersOf n)) (os : List Out) :
    (((s.bench n none).removeGrant g).emit os).handoff s.now = ((s.bench n none).removeGrant g).emit os :=
  handoff_of_stopped fun p hp => ⟨State.atRest_noWaiterDue h p (List.mem_of_mem_head? hp), hno p hp⟩

/-! ### RENEW and DOWNGRADE (R36, R38) -/

theorem mem_of_liveGrant {r : Rec} {client : Nat} {tok : Token} {g : Grant} (h : r.liveGrant client tok = some g) :
    g ∈ r.grants ∧ g.token = tok ∧ g.gstate = .live ∧ g.client = client := by
  have hp := List.find?_some h
  simp only [Bool.and_eq_true, beq_iff_eq] at hp
  exact ⟨List.mem_of_find?_eq_some h, hp.1.1, hp.1.2, hp.2⟩

theorem renewGrant_tooLong {s : State} {k : Key} {n : Nat} {term : Term} (h : s.atRest k n)
    (hlt : (s.recordOf n).maxTerm < (s.recordOf n).resolve term) (g : Grant) :
    renewGrant term (s.bench n none) g s = .ok (.bare .badArg) s := by
  rw [renewGrant, Take.bind_of_ok (Take.run_get s),
    if_pos (show (s.bench n none).body.maxTerm < (s.bench n none).body.resolve term from hlt), Take.bind_of_ok (closeBench_atRest h), Take.run_pure]

theorem renewGrant_renews {s : State} {k : Key} {n : Nat} {t term : Term} {g : Grant} {e : Tick} (h : s.atRest k n)
    (ht : term = (s.recordOf n).resolve t) (he : e = tickPlus s.now term.toNat)
    (hle : term ≤ (s.recordOf n).maxTerm) (hg : g ∈ (s.recordOf n).grants) :
    renewGrant t (s.bench n none) g s = .ok (.ok (tokenBytes g.token ++ tickBytes e ++ termBytes term))
      (((s.commit { images := [.slot n true ((s.recordOf n).changed g.token fun x =>
        { x with term := term, expiry := e }).image] }).recordKept n ((s.recordOf n).changed g.token fun x =>
        { x with term := term, expiry := e })).handOuts [.move .grantExpiry (.grant n g.token) e]) := by
  subst ht he
  rw [renewGrant, Take.bind_of_ok (Take.run_get s),
    if_neg (show ¬ (s.bench n none).body.maxTerm < (s.bench n none).body.resolve t from BitVec.not_lt.2 hle),
    Take.bind_of_ok (closeBench_changed h (List.ne_nil_of_mem hg) _ _ rfl),
    Take.run_pure]
  rfl

theorem downgradeGrant_shared {s : State} {k : Key} {n : Nat} {g : Grant} (h : s.atRest k n) (hg : g.mode = .shared) :
    downgradeGrant (s.bench n none) g s = .ok (.bare .badArg) s := by
  rw [downgradeGrant, Take.bind_of_ok (Take.run_get s), if_pos hg, Take.bind_of_ok (closeBench_atRest h), Take.run_pure]

theorem downgradeGrant_exclusive {s : State} {k : Key} {n : Nat} {g : Grant} (h : s.atRest k n)
    (hg : g ∈ (s.recordOf n).grants) (hmode : g.mode = .exclusive)
    (hno : ((s.recordOf n).changed g.token fun x => { x with mode := .shared }).noHandoff (s.waitersOf n)) :
    downgradeGrant (s.bench n none) g s = .ok (.ok (tokenBytes g.token ++ tickBytes g.expiry ++ termBytes g.term))
      ((s.commit { images := [.slot n true ((s.recordOf n).changed g.token fun x =>
        { x with mode := .shared }).image] }).recordKept n ((s.recordOf n).changed g.token fun x =>
        { x with mode := .shared })) := by
  have hshared : ¬ g.mode = .shared := by rw [hmode]; exact Mode.noConfusion
  have hstop := handoff_of_stopped (now := s.now)
    (b := (s.bench n none).changeGrant g.token fun x => { x with mode := .shared })
    fun p hp => ⟨State.atRest_noWaiterDue h p (List.mem_of_mem_head? hp), hno p hp⟩
  have hclose := closeBench_changed h (List.ne_nil_of_mem hg) g.token (fun x => { x with mode := .shared }) (os := []) rfl
  rw [Bench.emit_nil] at hclose
  rw [downgradeGrant, Take.bind_of_ok (Take.run_get s), if_neg hshared, hstop, Take.bind_of_ok hclose, Take.run_pure]
  rfl

/-- Settles O31: either command is its work on the grant that R35 finds, closed in one commit of the record. -/
theorem renewAndDowngradeChangeTheGrant : Obligations.RenewAndDowngradeChangeTheGrant := by
  constructor
  · rintro s s1 f k n _ tok g term e hbetween htaken hkey hk htok ht hrest rfl hlive hterm he
    have hs1 := State.between_takenTo hbetween htaken
    obtain ⟨hmem, rfl, -, -⟩ := mem_of_liveGrant hlive
    have hwork := fun work => onGrant_atRest (work := work) hkey hk htok ht hrest hlive
    refine ⟨fun hlt => ?_, fun hle => ?_⟩
    · subst hterm
      exact exec_of_work htaken rfl rfl ((hwork _).trans (renewGrant_tooLong hrest hlt g))
    · rw [← State.takenTo_now htaken] at he
      exact ⟨_, exec_of_work htaken rfl rfl ((hwork _).trans (renewGrant_renews hrest hterm he hle hmem)),
        State.becomes_commit_then hs1 _ fun _ => by simp⟩
  · rintro s s1 f k n _ _ tok g hbetween htaken hkey hk htok ht hrest rfl hlive rfl hno
    have hs1 := State.between_takenTo hbetween htaken
    obtain ⟨hmem, rfl, -, -⟩ := mem_of_liveGrant hlive
    have hwork := fun work => onGrant_atRest (work := work) hkey hk htok ht hrest hlive
    refine ⟨fun hmode => ?_, fun hmode => ?_⟩
    · exact exec_of_work htaken rfl rfl ((hwork _).trans (downgradeGrant_shared hrest hmode))
    · exact ⟨_, exec_of_work htaken rfl rfl ((hwork _).trans (downgradeGrant_exclusive hrest hmem hmode hno)),
        State.becomes_commit_then hs1 _ fun _ => by simp⟩

/-! ### RELEASE and FORCE RELEASE without a handoff (R37, R127) -/

theorem releaseGrant_closes {s s2 : State} {b : Bench} {g : Grant} (hno : (b.removeGrant g).handoff s.now = b.removeGrant g)
    (hclose : closeBench (b.removeGrant g) s = .ok () s2) : releaseGrant b g s = .ok (.bare .ok) s2 := by
  rw [releaseGrant, Take.bind_of_ok (Take.run_get s), hno, Take.bind_of_ok hclose, Take.run_pure]

/-- Settles O32: the removal is one change of the record, without a handoff, and the close keeps or retires it. -/
theorem releaseRemovesTheGrant : Obligations.ReleaseRemovesTheGrant := by
  rintro s s1 f k n _ _ tok g hbetween htaken hkey hk htok ht hrest rfl hlive rfl hno
  have hs1 := State.between_takenTo hbetween htaken
  obtain ⟨-, rfl, hgstate, -⟩ := mem_of_liveGrant hlive
  have hstop := handoff_without hrest hno []
  rw [Bench.emit_nil] at hstop
  have houts : removedOuts n g = [.remove (.grant n g.token)] := if_pos hgstate
  have hexec := fun t hclose => exec_of_work htaken rfl rfl ((onGrant_atRest hkey hk htok ht hrest hlive).trans
    (releaseGrant_closes (s2 := t) hstop hclose))
  by_cases hr : ((s1.recordOf n).without g.token).retires (s1.queueOf n)
  · have hclose := closeBench_without_retired hrest hr (os := []) rfl
    rw [Bench.emit_nil, houts] at hclose
    exact ⟨_, hexec _ hclose, fun hn => absurd hr hn, fun _ => State.becomes_freed_then hs1 n _ _ fun _ => by simp⟩
  · have hclose := closeBench_without hrest hr (os := []) rfl
    rw [Bench.emit_nil, houts] at hclose
    exact ⟨_, hexec _ hclose, fun _ => State.becomes_commit_then hs1 _ fun _ => by simp, fun hy => absurd hy hr⟩

theorem forceReleaseWork_closes {s s2 : State} {f : Frame} {k : Key} {n : Nat} {tok : Token} {g : Grant}
    (hkey : k = keyAt f.args 0) (hk : ¬ reservedKey k) (htok : tok = tokenAt f.args 4) (ht : tok ≠ 0)
    (h : s.atRest k n) (hg : (s.recordOf n).grantWith tok = some g)
    (hclose : closeBench ((s.bench n none).forceRelease s.now g) s = .ok () s2) :
    forceReleaseWork f s = .ok (.ok [BitVec.ofNat 8 g.client, g.mode.code, g.gstate.code]) s2 := by
  subst hkey htok
  have hfound : (s.bench n none).body.grantWith (tokenAt f.args 4) = some g := hg
  rw [forceReleaseWork, Take.bind_of_ok (locateGrant_atRest hk ht h)]
  dsimp only
  rw [hfound]
  dsimp only
  rw [Take.bind_of_ok (Take.run_get s), Take.bind_of_ok hclose, Take.run_pure]

/-- Settles O39: as RELEASE's, for a grant of any holder and state, with the notice to its holder. -/
theorem forceReleaseRevokesTheGrant : Obligations.ForceReleaseRevokesTheGrant := by
  rintro s s1 f k n _ _ tok g _ hbetween htaken hkey hk htok ht hrest rfl hg rfl hno rfl
  have hs1 := State.between_takenTo hbetween htaken
  obtain rfl : g.token = tok := by simpa using List.find?_some hg
  have hstop := handoff_without hrest hno
    [.notice g.client (grantNotice s1.now .revoked .force (s1.recordOf n).key g.token)]
  have hexec := fun t hclose => exec_of_work htaken rfl rfl
    (forceReleaseWork_closes (s2 := t) hkey hk htok ht hrest hg hclose)
  rw [← State.takenTo_now htaken]
  have hremoved : ∀ x : State, (x.handOuts (removedOuts n g)) =
      if g.gstate = .live then x.schedRemove (.grant n g.token) else x := fun x => by
    unfold removedOuts
    split <;> rfl
  have hstore : ∀ x : State, ((if g.gstate = .live then x.schedRemove (.grant n g.token) else x).offer g.client
      (grantNotice s1.now .revoked .force (s1.recordOf n).key g.token)).store = x.store := fun x => by
    rw [State.offer_store]
    split <;> rfl
  by_cases hr : ((s1.recordOf n).without g.token).retires (s1.queueOf n)
  · have hclose := closeBench_without_retired hrest hr
      (os := [.notice g.client (grantNotice s1.now .revoked .force (s1.recordOf n).key g.token)]) rfl
    rw [← hstop, State.handOuts_append, hremoved] at hclose
    refine ⟨_, hexec _ hclose, fun hn => absurd hr hn, fun _ => State.becomes_freed_then hs1 n _ _ fun x => hstore _⟩
  · have hclose := closeBench_without hrest hr
      (os := [.notice g.client (grantNotice s1.now .revoked .force (s1.recordOf n).key g.token)]) rfl
    rw [← hstop, State.handOuts_append, hremoved] at hclose
    refine ⟨_, hexec _ hclose, fun _ => State.becomes_commit_then hs1 _ fun x => hstore _,
      fun hy => absurd hy hr⟩

/-! ### The expiry event of a grant (R39, R40, R98) -/

theorem takeGrantExpiry_of_event {s : State} {n : Nat} {tok : Token} {d : Tick} {due : Bool}
    (h : s.nextDirectoryEvent = some { kind := .grantExpiry, ref := .grant n tok, deadline := d, due := due }) :
    takeGrantExpiry n tok d s = (s.schedRemove (.grant n tok)).run (expireRecord n tok d) := by
  rw [takeGrantExpiry, h]
  dsimp only
  rw [if_pos ⟨rfl, rfl, rfl⟩]

theorem expireRecord_noRecord {s : State} {n : Nat} (h : s.isFree n = true ∨ Tab.find? s.main.quar n ≠ none)
    (tok : Token) (d : Tick) : expireRecord n tok d s = .ok () s := by
  rw [expireRecord, Take.bind_of_ok (Take.run_get s), if_pos (h.imp_right Option.isSome_iff_ne_none.2), Take.run_pure]

/-- The event's own check: the record's LIVE grant with the token and the deadline, or nothing (R40). -/
theorem expireRecord_checks {s : State} {n : Nat} (hfree : s.isFree n = false) (hquar : Tab.find? s.main.quar n = none)
    (hgood : (s.store.slot n).ecc = tenGood) (tok : Token) (d : Tick) : expireRecord n tok d s =
      (match (s.recordOf n).grantWith tok with
      | none => pure ()
      | some g => if g.gstate = .live ∧ g.expiry = d then do
          match (← freshen (s.bench n none)) with
          | .quarantined => pure ()
          | .gone => pure ()
          | .held b1 => closeBench b1
        else pure () : Take Unit) s := by
  have hused : ¬ (s.isFree n = true ∨ (Tab.find? s.main.quar n).isSome = true) := by
    rw [hfree, hquar]
    simp
  rw [expireRecord, Take.bind_of_ok (Take.run_get s), if_neg hused, Take.bind_of_ok (openSlot_good hgood none)]
  rfl

/-- A retirement by lazy expiry is the close of the record in hand. -/
theorem freshen_gone {s s2 : State} {b : Bench} (hr : (b.lazyExpiry s.now).toRetire = true)
    (hclose : closeBench (b.lazyExpiry s.now) s = .ok () s2) : freshen b s = .ok .gone s2 := by
  rw [closeBench, Take.run_bind] at hclose
  rw [freshen, Take.run_bind, freshenHeld, Take.bind_of_ok (Take.run_get s), if_pos hr, Take.run_bind]
  cases hc : closeBenches [b.lazyExpiry s.now] s with
  | error e s1 => rw [hc] at hclose; cases hclose
  | ok u s1 =>
    rw [hc] at hclose
    dsimp only at hclose ⊢
    rw [Take.run_pure]
    dsimp only
    rw [Take.bind_of_ok hclose, Take.run_pure]

/-- A record with one grant due and no waiter: lazy expiry removes that grant, with its notice (R39). -/
theorem lazyExpiry_oneDue {s : State} {n : Nat} {g : Grant} (hdue : (s.recordOf n).grants.filter (Grant.due s.now) = [g])
    (htok : ∀ x ∈ (s.recordOf n).grants, x.token = g.token → x = g) (hq : s.waitersOf n = []) :
    (s.bench n none).lazyExpiry s.now =
      ((s.bench n none).setGrants ((s.recordOf n).grants.filter fun x => x.token != g.token)).emit
        [.notice g.client (grantNotice s.now .expired .none (s.recordOf n).key g.token), .remove (.grant n g.token)] := by
  have hg : g ∈ (s.recordOf n).grants ∧ g.due s.now = true := List.mem_filter.1 (hdue ▸ List.mem_singleton_self g)
  have hfilter : ((s.recordOf n).grants.filter fun x => !x.due s.now) =
      (s.recordOf n).grants.filter fun x => x.token != g.token := by
    refine List.filter_congr fun x hx => ?_
    rw [Bool.eq_iff_iff, Bool.not_eq_true', bne_iff_ne]
    refine ⟨fun hnot ht => ?_, fun hne => Bool.eq_false_iff.2 fun hd => hne ?_⟩
    · rw [htok x hx ht, hg.2] at hnot
      cases hnot
    · rw [List.mem_singleton.1 (hdue ▸ List.mem_filter.2 ⟨hx, hd⟩ : x ∈ [g])]
  have hexpire : (s.bench n none).expireGrants s.now =
      ((s.bench n none).setGrants ((s.recordOf n).grants.filter fun x => x.token != g.token)).emit
        [.notice g.client (grantNotice s.now .expired .none (s.recordOf n).key g.token), .remove (.grant n g.token)] := by
    rw [Bench.expireGrants_due (by rw [State.bench_body, hdue]; exact List.cons_ne_nil _ _), State.bench_body, hfilter, hdue]
    rfl
  have hany : (s.bench n none).body.grants.any (Grant.due s.now) = true := List.any_eq_true.2 ⟨g, hg⟩
  rw [Bench.lazyExpiry, hexpire, if_pos (by rw [hany]; rfl)]
  simp only [Bench.timeoutWaiters, Bench.handoff, Bench.emit, Bench.setGrants, State.bench_queue, hq, List.filter_nil,
    List.flatMap_nil, List.append_nil, handoffOver]

/-- The check of an event that names the one due grant of a record without waiters ends in the close of the record without
that grant (R40). -/
theorem expireRecord_oneDue {s s2 : State} {n : Nat} {g : Grant} (hfree : s.isFree n = false)
    (hquar : Tab.find? s.main.quar n = none) (hgood : (s.store.slot n).ecc = tenGood)
    (hdue : (s.recordOf n).grants.filter (Grant.due s.now) = [g]) (hg : (s.recordOf n).grantWith g.token = some g)
    (hclose : closeBench ((s.bench n none).lazyExpiry s.now) s = .ok () s2) :
    expireRecord n g.token g.expiry s = .ok () s2 := by
  have hlive : g.gstate = .live := by
    have hd := (List.mem_filter.1 (hdue ▸ List.mem_singleton_self g)).2
    rw [Grant.due, Bool.and_eq_true, beq_iff_eq] at hd
    exact hd.1
  rw [expireRecord_checks hfree hquar hgood, hg]
  dsimp only
  rw [if_pos ⟨hlive, rfl⟩]
  cases hr : ((s.bench n none).lazyExpiry s.now).toRetire with
  | true =>
    rw [Take.bind_of_ok (freshen_gone hr hclose)]
    rfl
  | false =>
    rw [Take.bind_of_ok (freshen_kept hr)]
    exact hclose

/-- Settles O46: the check of the event, then lazy expiry and the close of the record, kept or retired. -/
theorem grantExpiryEventExpires : Obligations.GrantExpiryEventExpires := by
  rintro s s0 n tok d due _ _ hbetween hnext hs0 rfl rfl
  have hbetween0 : s0.between := hs0 ▸ State.between_of_main hbetween rfl rfl id
  have hsame : s0.now = s.now ∧ s0.isFree n = s.isFree n ∧ s0.main.quar = s.main.quar ∧ s0.store = s.store ∧
      s0.queueOf n = s.queueOf n := by rw [hs0]; exact ⟨rfl, rfl, rfl, rfl, rfl⟩
  obtain ⟨hnow, hisFree, hmquar, hstore, hqueueOf⟩ := hsame
  have hrun : ∀ t, expireRecord n tok d s0 = .ok () t → exec (.grantExpiryEvent n tok d) s = .next t := fun t ht => by
    show Host.Outcome.next (takeGrantExpiry n tok d s) = _
    rw [takeGrantExpiry_of_event hnext, ← hs0, State.run, ht]
  have hrec : s.recordOf n = s0.recordOf n := by rw [State.recordOf, State.recordOf, hstore]
  rw [hrec, ← hnow, ← hisFree, ← hmquar, ← hstore, ← hqueueOf]
  refine ⟨fun h => hrun _ (expireRecord_noRecord h tok d), fun hfree hquar hgood => ⟨fun h => hrun _ ?_, ?_⟩⟩
  · rw [expireRecord_checks hfree hquar hgood]
    rcases h with hnone | ⟨g, hg, hne⟩
    · rw [hnone]
      rfl
    · rw [hg]
      dsimp only
      rw [if_neg (by rintro ⟨hl, he⟩; exact hne.elim (fun h => h hl) fun h => h he)]
      rfl
  · rintro g _ hdue rfl rfl hg huniq hqueue rfl
    have hwaiters : s0.waitersOf n = [] := by rw [State.waitersOf, hqueue]; rfl
    have hlazy := lazyExpiry_oneDue hdue huniq hwaiters
    have hqueued : (((s0.bench n none).lazyExpiry s0.now).queue.map Prod.fst) = s0.queueOf n := by
      rw [hlazy, hqueue]
      exact congrArg (List.map Prod.fst) hwaiters
    have hexec := fun t hclose => hrun t (expireRecord_oneDue hfree hquar hgood hdue hg hclose)
    by_cases hr : ((s0.recordOf n).without g.token).retires []
    · have hretire : ((s0.bench n none).lazyExpiry s0.now).toRetire = true := by
        obtain ⟨hpersist, hgrants, -⟩ := hr
        refine (Bench.toRetire_iff (by rw [hlazy]; rfl)).2 ⟨by rw [hlazy]; exact hpersist, by rw [hlazy]; exact hgrants, ?_⟩
        rw [hqueued, hqueue]
      have hclose := closeBench_retired (s := s0) hretire (by rw [hlazy]; rfl) (by rw [hqueued, hlazy]; rfl) (by rw [hlazy]; rfl)
      rw [hlazy] at hclose hexec
      refine ⟨_, hexec _ hclose, fun hn => absurd hr hn, fun _ => State.becomes_freed_then hbetween0 n _ _ fun x => ?_⟩
      exact State.offer_store _ _ _
    · have hretire : ((s0.bench n none).lazyExpiry s0.now).toRetire = false := by
        refine Bool.eq_false_iff.2 fun ht => hr ?_
        obtain ⟨hpersist, hgrants, -⟩ := (Bench.toRetire_iff (by rw [hlazy]; rfl)).1 ht
        rw [hlazy] at hpersist hgrants
        exact ⟨hpersist, hgrants, rfl⟩
      have hclose := closeBench_kept (s := s0) (tok := 0) (by rw [hlazy]; rfl) hretire (by rw [hqueued, hlazy]; rfl)
        (by rw [hlazy]; rfl) (by rw [hlazy]; exact fun hi => absurd hi (Nat.lt_irrefl 0))
      rw [hlazy] at hclose hexec
      refine ⟨_, hexec _ hclose, fun _ => State.becomes_commit_then hbetween0 _ fun x => ?_, fun hy => absurd hy hr⟩
      exact State.offer_store _ _ _

end Sys2Proof.Machine
end

section
/-! PROOFS. Chapter 2: ACQUIRE that grants at once, makes its record, queues or answers BUSY (R13, R28 to R31). -/

namespace Sys2Proof.Machine

/-! ### The request on a record (R23, R24, R29) -/

/-- The model's test of a request is the table of R23. -/
theorem Rec.admits_iff (r : Rec) (client : Nat) (m : Mode) : r.admits client m = true ↔ r.admissible client m := by
  cases m with
  | exclusive => simp [Rec.admits, Rec.admissible]
  | shared => simp [Rec.admits, Rec.admissible]

/-- The summary of a grant list that an admissible request's grant has joined (R2, R23). -/
theorem summaryOf_append {r : Rec} {client : Nat} {g : Grant} (hs : r.state = summaryOf r.grants)
    (h : r.admissible client g.mode) :
    summaryOf (r.grants ++ [g]) = if g.mode = .exclusive then .heldExclusive else .heldShared := by
  cases hgs : r.grants with
  | nil => rfl
  | cons x xs =>
    rw [hgs] at hs
    have hnot : r.state ≠ .vacant := fun hv => List.cons_ne_nil x xs (summaryOf_eq_vacant.1 (hs.symm.trans hv))
    rcases h with ⟨-, hv⟩ | ⟨hshared, hv | ⟨hheld, -⟩, -⟩
    · exact absurd hv hnot
    · exact absurd hv hnot
    · have hmode : x.mode ≠ .exclusive := fun hx => by
        rw [hs, summaryOf, if_pos hx] at hheld
        cases hheld
      rw [List.cons_append, summaryOf, if_neg hmode, if_neg (by rw [hshared]; exact Mode.noConfusion)]

theorem State.waitersOf_nil {s : State} {n : Nat} (h : s.queueOf n = []) : s.waitersOf n = [] := by
  rw [State.waitersOf, h]
  rfl

/-- A request of a client that the record names nowhere passes check 1 of R29. -/
theorem Bench.names_eq_false {client : Nat} {b : Bench} (hg : b.body.grantOf client = none)
    (hw : ∀ p ∈ b.queue, p.2.client ≠ client) : b.names client = false := by
  have hnone : b.waiterOf client = none := List.find?_eq_none.2 fun p hp => by simpa using hw p hp
  rw [Bench.names, hg, hnone]
  rfl

theorem Bench.grantable_iff (client : Nat) (m : Mode) (b : Bench) :
    b.grantable client m = true ↔ b.body.admissible client m ∧ b.queue = [] := by
  rw [Bench.grantable, Bool.and_eq_true, Rec.admits_iff, List.isEmpty_iff]

/-! ### A grant issued at once (R30) -/

/-- A request that passes the checks of R29 and is grantable is issued and closed. -/
theorem acquireOn_grants {s s2 : State} {b : Bench} {client : Nat} {m : Mode} {t wait term : Term}
    (hnames : b.names client = false) (hterm : term = b.body.resolve t) (hle : term ≤ b.body.maxTerm)
    (hgrant : b.grantable client m = true) (hclose : closeBench (b.issue s.now client m term) s = .ok () s2) :
    acquireOn b client m t wait s = .ok (.ok (tokenBytes b.token ++ tickBytes (tickPlus s.now term.toNat) ++
      termBytes term)) s2 := by
  subst hterm
  rw [acquireOn, Take.bind_of_ok (Take.run_get s), if_neg (Bool.eq_false_iff.1 hnames), if_neg (BitVec.not_lt.2 hle),
    if_pos hgrant, Take.bind_of_ok hclose, Take.run_pure]

/-- The record in hand with the grant that an admissible request gets. -/
theorem issue_body {b : Bench} {now : Tick} {client : Nat} {m : Mode} {term : Term}
    (hs : b.body.state = summaryOf b.body.grants) (h : b.body.admissible client m) :
    (b.issue now client m term).body =
      { b.body.granted (Grant.fresh now client m term b.token) with gen := b.body.gen } := by
  have hsum := summaryOf_append (g := Grant.fresh now client m term b.token) hs h
  simp only [Bench.issue, Bench.emit, Bench.setGrants, Rec.withGrants, Rec.granted]
  rw [← hsum]
  rfl

/-- The close of a record on which one grant was issued: the record and the advanced counter in one commit (R30). -/
theorem closeBench_issued {s : State} {b : Bench} {client : Nat} {m : Mode} {term : Term}
    (hs : b.body.state = summaryOf b.body.grants) (hadm : b.body.admissible client m) (hissued : b.issued = 0)
    (hq : b.queue.map Prod.fst = s.queueOf b.slot) (houts : b.outs = []) (ht : tokenWord.holds s b.token) :
    closeBench (b.issue s.now client m term) s = .ok ()
      (((s.commit
        { images := [.slot b.slot true { b.body.granted (Grant.fresh s.now client m term b.token) with
            gen := if b.isNew then 0 else b.body.gen + 1 }.image],
          token := some (tokenNext b.token) }).recordKept b.slot
        (b.body.granted (Grant.fresh s.now client m term b.token))).schedInsert .grantExpiry (.grant b.slot b.token)
        (tickPlus s.now term.toNat)) := by
  have hbody := issue_body (now := s.now) (term := term) hs hadm
  have hretire : (b.issue s.now client m term).toRetire = false := by
    refine Bool.eq_false_iff.2 fun hr => ?_
    obtain ⟨-, hgrants, -⟩ := (Bench.toRetire_iff (b := b.issue s.now client m term) rfl).1 hr
    exact List.append_ne_nil_of_right_ne_nil _ (List.cons_ne_nil _ _) hgrants
  have hiss : (b.issue s.now client m term).issued = 1 := congrArg (· + 1) hissued
  have hos : (b.issue s.now client m term).outs =
      [.insert .grantExpiry (.grant b.slot b.token) (tickPlus s.now term.toNat)] := by
    simp only [Bench.issue, Bench.emit, Bench.setGrants, houts, List.nil_append]
  have hclose := closeBench_kept (s := s) (tok := b.token) rfl hretire hq (by rw [hos]; rfl) fun _ => ht
  have hnext : (b.issue s.now client m term).next = { b.body.granted (Grant.fresh s.now client m term b.token) with
      gen := if b.isNew then 0 else b.body.gen + 1 } := by
    rw [Bench.next, hbody]
    rfl
  rw [hclose, hiss, hos, if_pos Nat.one_pos, hnext, hbody]
  rfl

theorem acquireWork_located {f : Frame} {s s1 : State} {k : Key} {m : Mode} {b : Bench} (hkey : k = keyAt f.args 0)
    (hk : ¬ reservedKey k) (hm : modeOf (byteAt f.args 4) = some m) (hb : locate k none [] s = .ok (.ok b) s1) :
    acquireWork f s = acquireOn b f.client.toNat m (termAt f.args 5) (termAt f.args 8) s1 := by
  subst hkey
  simp only [acquireWork, if_neg hk, hm]
  rw [Take.bind_of_ok hb]

theorem locate_atRest {s : State} {k : Key} {n : Nat} (h : s.atRest k n) :
    locate k none [] s = .ok (.ok (s.bench n none)) s := by
  obtain ⟨holders, hindexed⟩ := h.indexed
  rw [locate, Take.bind_of_ok (Take.run_get s), hindexed]
  dsimp only
  rw [if_neg Bool.false_ne_true, Take.bind_of_ok (touch_atRest h)]
  rfl

theorem State.nextToken_holds {s : State} {tok : Token} (h : tokenWord.holds s tok) : s.nextToken = tok := by
  rw [State.nextToken, Control.peek_holds h]
  rfl

/-- The work of an ACQUIRE that grants at once: the record at rest is located unchanged, and the grant is one commit of
record and counter (R30). -/
theorem acquireWork_grants {s : State} {f : Frame} {k : Key} {n : Nat} {m : Mode} {tok : Token} {term : Term}
    (hkey : k = keyAt f.args 0) (hk : ¬ reservedKey k) (hm : modeOf (byteAt f.args 4) = some m) (hrest : s.atRest k n)
    (hholding : (s.recordOf n).holding) (hnone : (s.recordOf n).grantOf f.client.toNat = none)
    (hadm : (s.recordOf n).admissible f.client.toNat m) (hqueue : s.queueOf n = [])
    (hterm : term = (s.recordOf n).termFor (termAt f.args 5)) (hle : term ≤ (s.recordOf n).maxTerm)
    (htok : tokenWord.holds s tok) :
    acquireWork f s = .ok (.ok (tokenBytes tok ++ tickBytes (tickPlus s.now term.toNat) ++ termBytes term))
      (((s.commit
        { images := [.slot n true ((s.recordOf n).granted (Grant.fresh s.now f.client.toNat m term tok)).image],
          token := some (tokenNext tok) }).recordKept n
        ((s.recordOf n).granted (Grant.fresh s.now f.client.toNat m term tok))).schedInsert .grantExpiry (.grant n tok)
        (tickPlus s.now term.toNat)) := by
  have hwaiters := State.waitersOf_nil hqueue
  have hnext := State.nextToken_holds htok
  have hnames : (s.bench n none).names f.client.toNat = false :=
    Bench.names_eq_false hnone (by rw [State.bench_queue, hwaiters]; exact nofun)
  have hgrant : (s.bench n none).grantable f.client.toNat m = true := (Bench.grantable_iff _ _ _).2 ⟨hadm, hwaiters⟩
  have hclose := closeBench_issued (term := term) (b := s.bench n none) hholding.summary hadm rfl hrest.queued rfl
    (by rw [State.bench_token, hnext]; exact htok)
  have hwork := (acquireWork_located hkey hk hm (locate_atRest hrest)).trans
    (acquireOn_grants (wait := termAt f.args 8) hnames hterm hle hgrant hclose)
  rwa [State.bench_token, hnext] at hwork

/-- Settles O27, by the work of such an ACQUIRE. -/
theorem acquireGrantsAtOnce : Obligations.AcquireGrantsAtOnce := by
  rintro s s1 f k n m _ tok term _ hbetween htaken hkey hk hm hrest rfl hholding hnone hadm hqueue hterm hle htok rfl
  have hs1 := State.between_takenTo hbetween htaken
  have hwork := acquireWork_grants hkey hk hm hrest hholding hnone hadm hqueue hterm hle htok
  rw [← State.takenTo_now htaken]
  exact ⟨_, exec_of_work htaken rfl rfl hwork, State.becomes_commit_then hs1 _ fun _ => by simp⟩

/-! ### A record made for its first grant (R13, R14) -/

theorem locate_prepares {s : State} {k : Key} {map : ZoneMap} {n : Nat} (h : s.lookup k = none)
    (hmap : zoneWord.holds s map) (hauto : (map.attr (map.classify k)).autoCreate = true) (hn : s.lowestFree [] = some n)
    (hgood : (s.store.slot n).ecc.head? = some .good) :
    locate k none [] s = .ok (.ok (newBench n s.nextToken (preparedRecord map k))) s := by
  rw [locate, Take.bind_of_ok (Take.run_get s), h]
  dsimp only
  rw [prepareRecord, Take.bind_of_ok (readControl_holds hmap), Take.bind_of_ok (Take.run_get s),
    if_neg (by rw [hauto]; exact Bool.noConfusion), hn]
  dsimp only
  rw [Take.bind_of_ok (checkFreeSlot_good hgood)]
  rfl

/-- Settles O28: the prepared record gets its first grant in the commit that makes it. -/
theorem acquireMakesTheRecord : Obligations.AcquireMakesTheRecord := by
  rintro s s1 f k n m map _ r tok term _ hbetween htaken hkey hk hm hlookup hmap rfl hauto hlt hfree hbelow hgood hqueue
    hr hterm hle htok rfl
  have hs1 := State.between_takenTo hbetween htaken
  have hnext := State.nextToken_holds htok
  have hlocate := locate_prepares hlookup hmap hauto (State.lowestFree_eq_some hlt hfree hbelow) hgood
  rw [hnext, show preparedRecord map k = r from hr.symm] at hlocate
  have hbody : r.state = .vacant ∧ r.grants = [] := by rw [hr]; exact ⟨rfl, rfl⟩
  obtain ⟨hvacant, hgrants⟩ := hbody
  have hadm : r.admissible f.client.toNat m := by
    cases m with
    | exclusive => exact .inl ⟨rfl, hvacant⟩
    | shared => exact .inr ⟨rfl, .inl hvacant, by rw [hgrants]; exact nofun⟩
  have hnames : (newBench n tok r).names f.client.toNat = false :=
    Bench.names_eq_false (by rw [Rec.grantOf, show (newBench n tok r).body.grants = [] from hgrants]; rfl) nofun
  have hgrant : (newBench n tok r).grantable f.client.toNat m = true := (Bench.grantable_iff _ _ _).2 ⟨hadm, rfl⟩
  have hclose := closeBench_issued (term := term) (b := newBench n tok r) (by rw [newBench, hvacant, hgrants]; rfl) hadm
    rfl hqueue.symm rfl htok
  have hwork := (acquireWork_located hkey hk hm hlocate).trans
    (acquireOn_grants (wait := termAt f.args 8) hnames hterm hle hgrant hclose)
  rw [← State.takenTo_now htaken]
  exact ⟨_, exec_of_work htaken rfl rfl hwork, State.becomes_commit_then hs1 _ fun _ => by simp⟩

/-! ### A request that waits, or is BUSY (R31, R45, R48) -/

/-- A request that is not grantable on a record at rest: BUSY with wait 0, the checks of R31 otherwise. -/
theorem acquireOn_waits {s : State} {k : Key} {n : Nat} {client : Nat} {m : Mode} {t wait term : Term}
    (h : s.atRest k n) (hnames : (s.bench n none).names client = false) (hterm : term = (s.recordOf n).resolve t)
    (hle : term ≤ (s.recordOf n).maxTerm) (hgrant : (s.bench n none).grantable client m = false) :
    acquireOn (s.bench n none) client m t wait s =
      if wait = 0 then .ok (.bare .busy) s else waitRequest (s.bench n none) client m term wait s := by
  subst hterm
  have hclose : closeRefused (s.bench n none) s = .ok () s := closeBench_atRest h
  rw [acquireOn, Take.bind_of_ok (Take.run_get s), if_neg (Bool.eq_false_iff.1 hnames),
    if_neg (show ¬ (s.bench n none).body.maxTerm < (s.bench n none).body.resolve t from BitVec.not_lt.2 hle),
    if_neg (Bool.eq_false_iff.1 hgrant)]
  by_cases hw : wait = 0
  · rw [if_pos hw, if_pos hw, Take.bind_of_ok hclose, Take.run_pure]
  · rw [if_neg hw, if_neg hw, Take.bind_of_ok hclose]
    rfl

theorem State.freeEntry_eq_some {s : State} {id : Nat} (hid : id < Config.waiters) (hfree : s.waiter id = none)
    (hbelow : ∀ j, j < id → s.waiter j ≠ none) : s.freeEntry = some id := by
  rw [State.freeEntry, List.find?_range_eq_some]
  refine ⟨by rw [hfree]; rfl, List.mem_range.2 hid, fun j hj => ?_⟩
  obtain ⟨w, hw⟩ := Option.ne_none_iff_exists'.1 (hbelow j hj)
  rw [hw]
  rfl

theorem waitRequest_queues {s : State} {b : Bench} {client : Nat} {m : Mode} {term wait : Term} {map : ZoneMap} {id : Nat}
    (hmap : zoneWord.holds s map) (hwaits : (map.attr b.body.zone).waits = true) (hid : s.freeEntry = some id)
    (hroom : (s.vol client).waitCount < 8) : waitRequest b client m term wait s =
      queueRequest id
        { client := client, slot := b.slot, mode := m, term := term, deadline := tickPlus s.now wait.toNat } s := by
  rw [waitRequest, Take.bind_of_ok (readControl_holds hmap), Take.bind_of_ok (Take.run_get s),
    if_neg (by rw [hwaits]; exact Bool.noConfusion), hid]
  dsimp only
  rw [if_neg (Nat.not_le.2 hroom)]

/-- A waiter is one update each of the pool, its record's queue, its session's count and the schedule (R48). -/
theorem State.enqueue_eq (s : State) (id : Nat) (w : Waiter) : s.enqueue id w =
    (((s.setPool (Tab.put s.main.pool id w)).setQueueOf w.slot (s.queueOf w.slot ++ [id])).setVol w.client
      { s.vol w.client with waitCount := (s.vol w.client).waitCount + 1 }).schedInsert .waitDeadline (.waiter id)
      w.deadline := rfl

theorem State.enqueue_commit (s : State) (id : Nat) (w : Waiter) (c : Commit) : (s.enqueue id w).commit c =
    ((((s.commit c).setPool (Tab.put s.main.pool id w)).setQueueOf w.slot (s.queueOf w.slot ++ [id])).setVol w.client
      { s.vol w.client with waitCount := (s.vol w.client).waitCount + 1 }).schedInsert .waitDeadline (.waiter id)
      w.deadline := by
  rw [State.enqueue_eq, State.schedInsert, State.commit_setSched, State.commit_setVol, State.commit_setQueueOf,
    State.commit_setPool]
  rfl

theorem queueRequest_later {s : State} {id : Nat} {w : Waiter} (h : (s.vol w.client).waitCount ≠ 0) :
    queueRequest id w s = .ok { status := .queued, payload := BitVec.ofNat 8 id :: tickBytes w.deadline }
      (s.enqueue id w) := by
  rw [queueRequest, Take.bind_of_ok (Take.run_get s), if_neg h, Take.bind_of_ok (Take.run_modify _ s)]
  rfl

theorem queueRequest_first {s : State} {id : Nat} {w : Waiter} {e : SessEntry} (h : (s.vol w.client).waitCount = 0)
    (he : (sessionWord w.client).holds s e) :
    queueRequest id w s = .ok { status := .queued, payload := BitVec.ofNat 8 id :: tickBytes w.deadline }
      ((s.enqueue id w).commit { session := some (w.client, { e with waitsHeld := true }) }) := by
  rw [queueRequest, Take.bind_of_ok (Take.run_get s), if_pos h]
  show (readControl (sessionWord w.client) >>= fun e => modify (fun s => (s.enqueue id w).commit
    { session := some (w.client, { e with waitsHeld := true }) }) >>= fun _ => pure _) s = _
  rw [Take.bind_of_ok (readControl_holds he), Take.bind_of_ok (Take.run_modify _ s), Take.run_pure]

/-- Settles O29: behind the checks of R29 the request is BUSY, or one waiter that joins the tail of the queue. -/
theorem acquireWaitsOrAnswersBusy : Obligations.AcquireWaitsOrAnswersBusy := by
  rintro s s1 f k n _ m _ term hbetween htaken hkey hk rfl hm hrest rfl hnone hclients hnot hterm hle
  have hs1 := State.between_takenTo hbetween htaken
  have hnames : (s1.bench n none).names f.client.toNat = false := Bench.names_eq_false hnone hclients
  have hgrant : (s1.bench n none).grantable f.client.toNat m = false := by
    refine Bool.eq_false_iff.2 fun hg => ?_
    obtain ⟨hadm, hqueue⟩ := (Bench.grantable_iff _ _ _).1 hg
    refine hnot.elim (fun h => h hadm) fun h => h ?_
    rw [← hrest.queued]
    exact congrArg (List.map Prod.fst) hqueue
  have hwork := (acquireWork_located hkey hk hm (locate_atRest hrest)).trans
    (acquireOn_waits (wait := termAt f.args 8) hrest hnames hterm hle hgrant)
  refine ⟨fun hzero => ?_, ?_⟩
  · rw [if_pos hzero] at hwork
    exact exec_of_work htaken rfl rfl hwork
  · rintro map e id w _ hwait hmap hwaits hid hfree hbelow hroom he rfl rfl
    rw [if_neg hwait, waitRequest_queues (b := s1.bench n none) hmap hwaits (State.freeEntry_eq_some hid hfree hbelow)
      hroom, State.takenTo_now htaken] at hwork
    refine ⟨fun hlater => ?_, fun hfirst => ?_⟩
    · exact exec_of_work htaken rfl rfl (hwork.trans (queueRequest_later hlater))
    · have hqueued := queueRequest_first (s := s1) (id := id) (w :=
        { client := f.client.toNat, slot := n, mode := m, term := term,
          deadline := tickPlus s.now (termAt f.args 8).toNat }) hfirst he
      rw [State.enqueue_commit] at hqueued
      exact ⟨_, exec_of_work htaken rfl rfl (hwork.trans hqueued), State.becomes_commit_then hs1 _ fun _ => by simp⟩

end Sys2Proof.Machine
end

section
/-! PROOFS. Chapter 4: OPEN, CLOSE, DISMISS, REATTACH and the lapse of a session (R68, R73 to R84, R87). -/

namespace Sys2Proof.Machine

/-! ### A settle whose work goes to its end (R74) -/

/-- The slots of a settle are found in the main domain, which the commit of SETTLING leaves as it is. -/
theorem settle_of_ok {α : Type} {form : SettleForm} {c : Nat} {e : SessEntry} {finish : Take α} {s s1 s2 : State}
    {n : Nat} {a : α}
    (hrecords : settleRecords form c (s.settleSlots c)
      (s.commit { session := some (c, { e with state := .settling, action := form.action }) }) = .ok n s1)
    (hfinish : finish s1 = .ok a s2) : settle form c e finish s = .ok (n, a) s2 := by
  rw [settle, Take.bind_of_ok (Take.run_modify _ s), Take.run_tryCatch, Take.bind_of_ok (Take.run_get _)]
  rw [show State.settleSlots (s.commit { session := some (c, { e with state := .settling, action := form.action }) }) c =
    s.settleSlots c from rfl, Take.bind_of_ok hrecords, Take.bind_of_ok hfinish, Take.run_pure]

/-- A settle of a session that holds nothing is its two commits and part 3 (R74). -/
theorem settle_noRecords {α : Type} {form : SettleForm} {c : Nat} {e : SessEntry} {finish : Take α} {s s2 : State} {a : α}
    (hslots : s.settleSlots c = [])
    (hfinish : finish (s.commit { session := some (c, { e with state := .settling, action := form.action }) }) = .ok a s2) :
    settle form c e finish s = .ok (0, a) s2 :=
  settle_of_ok (by rw [hslots, settleRecords, Take.run_pure]) hfinish

/-- Two commits of one session entry, the second perhaps with the nonce counter, leave what the second alone leaves. -/
theorem State.becomes_session_again {s : State} (h : s.between) (c : Nat) (a b : SessEntry) (nonce : Option Nonce)
    {F : State → State} (hF : ∀ x, (F x).store = x.store) :
    s.becomes (s.store.putCommit { session := some (c, b), nonce := nonce }) F
      (F ((s.commit { session := some (c, a) }).commit { session := some (c, b), nonce := nonce })) := by
  rw [← Store.putCommit_session_again h.canonical c a b nonce]
  exact State.becomes_then (State.becomes_commit (State.commit_becomes h _) (State.between_commit h _) _) hF

/-! ### The end of a session (R75, R76) -/

/-- The volatile effects of part 3 of action RELEASE (R75). -/
def State.sessionGone (s : State) (c : Nat) (v : SessVol) : State :=
  (((s.setVol c { v with deadline := none, waitCount := 0, restarted := false }).setNoticesOf c
    NoticeQueue.empty).schedRemove (.session c)).driveLines

@[simp] theorem State.sessionGone_store (s : State) (c : Nat) (v : SessVol) : (s.sessionGone c v).store = s.store := by
  rw [State.sessionGone, State.driveLines_store, State.schedRemove_store, State.setNoticesOf_store, State.setVol_store]

theorem State.freeSession_eq (s : State) (c : Nat) : s.freeSession c =
    (s.commit { session := some (c, SessEntry.free) }).sessionGone c (s.vol c) := rfl

theorem settleRelease_noRecords {s : State} {c : Nat} {e : SessEntry} (hslots : s.settleSlots c = []) :
    settleRelease c e s = .ok () ((((s.commit
      { session := some (c, { e with state := .settling, action := .release }) }).commit
      { session := some (c, SessEntry.free) }).sessionGone c (s.vol c))) := by
  rw [settleRelease, Take.run_discard, settle_noRecords hslots (Take.run_modify _ _), State.freeSession_eq]
  rfl

theorem closeWork_of_settle {s s2 : State} {f : Frame} {e : SessEntry} (he : (sessionWord f.client.toNat).holds s e)
    (h : settleRelease f.client.toNat e s = .ok () s2) : closeWork f s = .ok (.bare .ok) s2 := by
  rw [closeWork, Take.bind_of_ok (readControl_holds he), Take.bind_of_ok h, Take.run_pure]

theorem dismissWork_of_settle {s s2 : State} {f : Frame} {e : SessEntry} (hc : (byteAt f.args 0).toNat < 16)
    (he : (sessionWord (byteAt f.args 0).toNat).holds s e) (hstate : e.state ≠ .free)
    (h : settleRelease (byteAt f.args 0).toNat e s = .ok () s2) : dismissWork f s = .ok (.bare .ok) s2 := by
  have hrange : ¬ Config.sessions ≤ (byteAt f.args 0).toNat := Nat.not_le.2 hc
  rw [dismissWork, if_neg hrange, Take.bind_of_ok (readControl_holds he), if_neg hstate, Take.bind_of_ok h,
    Take.run_pure]

/-- Settles O19: either command is one settle with no record to work, in the state that the session check left. -/
theorem closeAndDismissFreeTheSession : Obligations.CloseAndDismissFreeTheSession := by
  intro s s1 f c e i cmd hbetween htaken hc he hslots hi
  have hs1 := State.between_takenTo hbetween htaken
  have hsettle := settleRelease_noRecords (e := e) hslots
  have hbecomes := State.becomes_session_again hs1 c { e with state := .settling, action := .release } SessEntry.free none
    (F := fun x => (x.sessionGone c (s1.vol c)).respond f.port cmd (.bare .ok)) (fun x => by simp)
  rcases hi with ⟨rfl, rfl, rfl⟩ | ⟨rfl, rfl, rfl, hstate⟩
  · exact ⟨_, exec_of_work htaken rfl rfl (closeWork_of_settle he hsettle), hbecomes⟩
  · exact ⟨_, exec_of_work htaken rfl rfl (dismissWork_of_settle hc he hstate hsettle), hbecomes⟩

/-! ### The lapse of a session (R73, R76, R87) -/

/-- The volatile effects of part 3 of action ORPHAN (R76). -/
def State.sessionLapsed (s : State) (c : Nat) (v : SessVol) : State :=
  (s.setVol c { v with deadline := none, waitCount := 0 }).schedRemove (.session c)

theorem State.lapseSession_eq {s : State} (h : s.between) (c : Nat) (e : SessEntry) : s.lapseSession c e =
    (s.commit { session := some (c, e.lapsed) }).sessionLapsed c (s.vol c) := by
  have hw : Tab.wf SessVol.none (s.commit { session := some (c, e.lapsed) }).main.sessV = true :=
    State.between_sessV (State.between_commit h _)
  have hvol : ((s.commit { session := some (c, e.lapsed) }).dropDeadline c).vol c =
      { s.vol c with deadline := none } := State.vol_setVol_self hw c _
  rw [State.lapseSession, hvol, State.sessionLapsed,
    ← State.setVol_setVol hw c { s.vol c with deadline := none } { s.vol c with deadline := none, waitCount := 0 }]
  rfl

theorem lapse_hold {s : State} {c : Nat} {e : SessEntry} (h : s.between) (hp : e.policy = .hold)
    (hslots : s.settleSlots c = []) : lapse c e s = .ok e.lapsed (((s.commit
      { session := some (c, { e with state := .settling, action := .orphan }) }).commit
      { session := some (c, e.lapsed) }).sessionLapsed c (s.vol c)) := by
  have hsettle := settle_noRecords (form := .orphan) (e := e) hslots
    (Take.run_modify (fun s => s.lapseSession c e) _)
  rw [State.lapseSession_eq (State.between_commit h _)] at hsettle
  have hlapse : lapse c e = (do
      discard (settle .orphan c e (modify fun s => s.lapseSession c e))
      pure e.lapsed) := by rw [lapse, hp]
  rw [hlapse, Take.bind_of_ok (by rw [Take.run_discard, hsettle]), Take.run_pure]
  rfl

theorem lapse_release {s : State} {c : Nat} {e : SessEntry} (hp : e.policy = .release) (hslots : s.settleSlots c = []) :
    lapse c e s = .ok SessEntry.free (((s.commit
      { session := some (c, { e with state := .settling, action := .release }) }).commit
      { session := some (c, SessEntry.free) }).sessionGone c (s.vol c)) := by
  have hlapse : lapse c e = (do
      settleRelease c e
      pure SessEntry.free) := by rw [lapse, hp]
  rw [hlapse, Take.bind_of_ok (settleRelease_noRecords hslots), Take.run_pure]

/-! What the effects of part 3 make of a volatile part set before, and of a request taken before. -/

theorem State.sessionLapsed_setVol {s : State} (h : Tab.wf SessVol.none s.main.sessV = true) (c : Nat) (v u : SessVol) :
    (s.setVol c v).sessionLapsed c u = s.sessionLapsed c u := by
  rw [State.sessionLapsed, State.setVol_setVol h, State.sessionLapsed]

theorem State.sessionLapsed_taken (s : State) (w : Waiting) (c : Nat) (u : SessVol) :
    (s.taken w).sessionLapsed c u = (s.sessionLapsed c u).taken w := rfl

theorem State.sessionGone_setVol {s : State} (h : Tab.wf SessVol.none s.main.sessV = true) (c : Nat) (v u : SessVol) :
    (s.setVol c v).sessionGone c u = s.sessionGone c u := by
  rw [State.sessionGone, State.setVol_setVol h, State.sessionGone]

theorem State.sessionGone_taken (s : State) (w : Waiting) (c : Nat) (u : SessVol) :
    (s.taken w).sessionGone c u = (s.sessionGone c u).taken w := by
  rw [State.sessionGone, State.sessionGone, ← State.driveLines_taken]
  rfl

/-- A lapse request finds its session in the state it must find and due, or does nothing (R73, R87). -/
theorem lapseWork_due {s s2 : State} {k : SessKind} {c : Nat} {e e1 : SessEntry} (he : (sessionWord c).holds s e)
    (hst : e.state = lapseState k) (hd : s.lapseDue c e = true) (hl : lapse c e s = .ok e1 s2) :
    lapseWork k c s = .ok () s2 := by
  rw [lapseWork, Take.bind_of_ok (readControl_holds he), Take.bind_of_ok (Take.run_get s), if_pos ⟨hst, hd⟩,
    Take.run_discard, hl]

theorem lapseWork_notDue {s : State} {k : SessKind} {c : Nat} {e : SessEntry} (he : (sessionWord c).holds s e)
    (h : ¬ (e.state = lapseState k ∧ s.lapseDue c e = true)) : lapseWork k c s = .ok () s := by
  rw [lapseWork, Take.bind_of_ok (readControl_holds he), Take.bind_of_ok (Take.run_get s), if_neg h, Take.run_pure]

theorem State.requestLapse_eq {s : State} {k : SessKind} {c : Nat} {v : SessVol}
    (hv : v = match k with
      | .heartbeat => { s.vol c with lapseHeartbeat := false }
      | .grace => { s.vol c with lapseGrace := false }) : s.requestLapse k c false = s.setVol c v := by
  subst hv
  cases k <;> rfl

/-- Settles O48: the request leaves its source, and the lapse is one settle with no record to work. -/
theorem lapseRequestSettles : Obligations.LapseRequestSettles := by
  intro s k c e v hbetween hready hf hwaits he hv
  have hw := State.between_sessV hbetween
  have hw2 : ∀ a b, Tab.wf SessVol.none ((s.commit a).commit b).main.sessV = true := fun _ _ => hw
  have hdeadline : v.deadline = (s.vol c).deadline := by subst hv; cases k <;> rfl
  have hvol : ((s.setVol c v).taken (.lapse k c)).vol c = v := State.vol_setVol_self hw c v
  have hs0 : ((s.setVol c v).taken (.lapse k c)).between :=
    steady_between.taken _ _ (steady_between.setVol _ _ _ hbetween)
  have hdue : ((s.setVol c v).taken (.lapse k c)).lapseDue c e = s.lapseDue c e := by
    rw [State.lapseDue, hvol, hdeadline]
    rfl
  have hexec : ∀ t, lapseWork k c ((s.setVol c v).taken (.lapse k c)) = .ok () t →
      exec (.lapseRequest k c) s = .next t := fun t ht => by
    show Host.Outcome.next (takeLapse k c s) = _
    rw [takeLapse, if_pos ⟨hready, hf, hwaits⟩, State.requestLapse_eq hv, State.run, ht]
  refine ⟨fun h => hexec _ (lapseWork_notDue he (by rw [hdue]; exact h)), fun hst hd hslots => ?_⟩
  have hwork := fun t e1 hl => hexec t (lapseWork_due (e1 := e1) he hst (hdue.trans hd) hl)
  obtain hp | hp : e.policy = .hold ∨ e.policy = .release := by cases e.policy <;> simp
  · have hnot : e.policy ≠ .release := by rw [hp]; exact Policy.noConfusion
    refine ⟨_, hwork _ _ (lapse_hold hs0 hp hslots), fun _ => ?_, fun h => absurd h hnot⟩
    rw [hvol, State.commit_taken, State.commit_taken, State.commit_setVol, State.commit_setVol, State.sessionLapsed_taken,
      State.sessionLapsed_setVol (hw2 _ _)]
    exact State.becomes_session_again hbetween c _ e.lapsed none
      (F := fun x => (x.sessionLapsed c v).taken (.lapse k c)) fun _ => rfl
  · have hnot : e.policy ≠ .hold := by rw [hp]; exact Policy.noConfusion
    refine ⟨_, hwork _ _ (lapse_release hp hslots), fun h => absurd h hnot, fun _ => ?_⟩
    rw [hvol, State.commit_taken, State.commit_taken, State.commit_setVol, State.commit_setVol, State.sessionGone_taken,
      State.sessionGone_setVol (hw2 _ _)]
    exact State.becomes_session_again hbetween c _ SessEntry.free none
      (F := fun x => (x.sessionGone c v).taken (.lapse k c)) fun x => by simp

/-! ### A new deadline (R68, R81) -/

/-- A deadline placed behind a change of the session's volatile part is one change of it and an insert. -/
theorem State.placeDeadline_setVol {s : State} (h : Tab.wf SessVol.none s.main.sessV = true) (k : Kind) (c : Nat)
    (v : SessVol) (d : Tick) : (s.setVol c v).placeDeadline k c d =
      (s.setVol c { v with deadline := some d }).schedInsert k (.session c) d := by
  rw [State.placeDeadline, State.vol_setVol_self h, State.setVol_setVol h]

theorem State.beginSession_eq {s : State} (h : Tab.wf SessVol.none s.main.sessV = true) (c : Nat) (hb : Term) :
    s.beginSession c hb = ((s.setVol c { s.vol c with
      waitCount := 0, restarted := false, deadline := some (tickPlus s.now hb.toNat) }).setNoticesOf c
      NoticeQueue.empty).schedInsert .heartbeat (.session c) (tickPlus s.now hb.toNat) := by
  have hplace := State.placeDeadline_setVol (s := s.setNoticesOf c NoticeQueue.empty) h .heartbeat c
    { s.vol c with waitCount := 0, restarted := false } (tickPlus s.now hb.toNat)
  exact hplace

/-! ### OPEN (R68) -/

theorem firstFreeSession_finds {s : State} {c : Nat} {post : List Nat}
    (hc : ∃ e, (sessionWord c).holds s e ∧ e.state = .free) :
    ∀ pre : List Nat, (∀ b ∈ pre, ∃ e, (sessionWord b).holds s e ∧ e.state ≠ .free) →
      firstFreeSession (pre ++ c :: post) s = .ok (some c) s
  | [], _ => by
    obtain ⟨e, he, hfree⟩ := hc
    rw [List.nil_append, firstFreeSession, Take.bind_of_ok (readControl_holds he), if_pos hfree, Take.run_pure]
  | b :: pre, hpre => by
    obtain ⟨⟨e, he, hused⟩, hpre⟩ := List.forall_mem_cons.1 hpre
    rw [List.cons_append, firstFreeSession, Take.bind_of_ok (readControl_holds he), if_neg hused]
    exact firstFreeSession_finds hc pre hpre

theorem range_eq_append {c n : Nat} (h : c < n) : ∃ post, List.range n = List.range c ++ c :: post := by
  obtain ⟨m, rfl⟩ := Nat.exists_eq_add_of_lt h
  refine ⟨(List.range m).map fun i => c + (i + 1), ?_⟩
  rw [Nat.add_assoc, List.range_add, List.range_succ_eq_map, List.map_cons, List.map_map]
  rfl

theorem openWith_opens {s : State} {p : PortId} {hb : Term} {pol : Policy} {attn : Bool} {c : Nat} {nonce : Nonce}
    (h : s.between) (hc : c < 16) (hused : ∀ b, b < c → ∃ e, (sessionWord b).holds s e ∧ e.state ≠ .free)
    (hfree : ∃ e, (sessionWord c).holds s e ∧ e.state = .free) (hnonce : nonceWord.holds s nonce) :
    openWith p hb pol attn s = .ok
      (.ok (BitVec.ofNat 8 c :: (beBytes 2 nonce.toNat ++ tickBytes (tickPlus s.now hb.toNat))))
      ((((s.commit { session := some (c, openEntry p nonce hb pol attn), nonce := some (nonceNext nonce) }).setVol c
        { s.vol c with waitCount := 0, restarted := false, deadline := some (tickPlus s.now hb.toNat) }).setNoticesOf c
        NoticeQueue.empty).schedInsert .heartbeat (.session c) (tickPlus s.now hb.toNat)).driveLines := by
  obtain ⟨post, hpost⟩ := range_eq_append hc
  have hfirst := firstFreeSession_finds (post := post) hfree (List.range c) fun b hb => hused b (List.mem_range.1 hb)
  rw [← hpost] at hfirst
  have hbegin := State.beginSession_eq (s := s.commit
    { session := some (c, openEntry p nonce hb pol attn), nonce := some (nonceNext nonce) })
    (State.between_sessV (State.between_commit h _)) c hb
  rw [openWith, Take.bind_of_ok hfirst]
  dsimp only
  rw [Take.bind_of_ok (readControl_holds hnonce), Take.bind_of_ok (Take.run_modify _ s), hbegin,
    Take.bind_of_ok (Take.run_get _), Take.run_pure, State.driveLines_now]
  rfl

theorem openWork_opens {f : Frame} {pol : Policy} {attn : Bool} (hlen : f.args.length = 5)
    (hlow : 64 ≤ (termAt f.args 0).toNat) (hhigh : (termAt f.args 0).toNat ≤ 1048576)
    (hpol : policyOf (byteAt f.args 3) = some pol) (hattn : onOffOf (byteAt f.args 4) = some attn) :
    openWork f = openWith f.port (termAt f.args 0) pol attn := by
  have hrange : ¬ ((termAt f.args 0).toNat < 64 ∨ 1048576 < (termAt f.args 0).toNat) := by omega
  rw [openWork, if_neg (not_not.2 hlen), if_neg hrange, hpol, hattn]

/-- An OPEN frame that is offered in NORMAL mode for no client is its own work (R68). -/
theorem exec_openSession {s s2 : State} {f : Frame} {r : Reply} (ho : s.offers (.openSession f) f.port)
    (hf : ¬ s.inFault) (hc : f.client = noClient) (hw : openWork f (s.accept f.port) = .ok r s2) :
    exec (.openSession f) s = .next (s2.respond f.port 0x10 r) := by
  show Host.Outcome.next (s.takeFrame (.openSession f) 0x10 f (judgedWith { need := .skip, args := f.args.length } f
    (pure (if f.client = noClient then none else some .badArg)) (openWork f))) = _
  rw [takeFrame_offers ho, judgedWith_passes (s := s.accept f.port) (s1 := s.accept f.port)
    (fun h => absurd h Bool.false_ne_true) (fun h => absurd h hf) (by rw [if_pos hc, Take.run_pure]) rfl, hw]

/-- Settles O18: the lowest FREE entry is found among good words, and the rest is one commit with its effects. -/
theorem openBeginsASession : Obligations.OpenBeginsASession := by
  rintro s _ f c pol attn nonce _ hbetween ho hf hclient rfl hlen hlow hhigh hpol hattn hc hused hfree hnonce rfl
  have hs1 := State.between_accept hbetween f.port
  have hopen := openWith_opens (s := s.accept f.port) (p := f.port) (hb := termAt f.args 0) (pol := pol) (attn := attn)
    hs1 hc hused hfree hnonce
  rw [← openWork_opens hlen hlow hhigh hpol hattn] at hopen
  exact ⟨_, exec_openSession ho hf hclient hopen, State.becomes_commit_then hs1 _ fun x => by simp⟩

/-! ### REATTACH (R80 to R83) -/

/-- The volatile effects of a session that is OPEN again (R81). -/
def State.sessionReopened (s : State) (c : Nat) (v : SessVol) (d : Tick) : State :=
  ((s.setVol c { v with restarted := false, deadline := some d }).schedInsert .heartbeat (.session c) d).driveLines

@[simp] theorem State.sessionReopened_store (s : State) (c : Nat) (v : SessVol) (d : Tick) :
    (s.sessionReopened c v d).store = s.store := by
  rw [State.sessionReopened, State.driveLines_store, State.schedInsert_store, State.setVol_store]

theorem reopen_commits {s : State} {c : Nat} {e : SessEntry} {p : PortId} {counter : Nonce} (h : s.between)
    (hn : nonceWord.holds s counter) : reopen c e p s = .ok (freshNonce counter e.nonce)
      ((s.commit { session := some (c, e.reattached p (freshNonce counter e.nonce)),
                   nonce := some (nonceNext (freshNonce counter e.nonce)) }).sessionReopened c (s.vol c)
        (tickPlus s.now e.hbTerm.toNat)) := by
  rw [reopen, Take.bind_of_ok (readControl_holds hn), Take.bind_of_ok (Take.run_modify _ s)]
  dsimp only
  rw [State.placeDeadline_setVol (State.between_sessV (State.between_commit h _)), Take.run_pure]
  rfl

/-- A REATTACH frame that is offered in NORMAL mode is its own work (R80). -/
theorem exec_reattach {s s2 : State} {f : Frame} {r : Reply} (ho : s.offers (.reattach f) f.port) (hf : ¬ s.inFault)
    (hw : reattachWork f (s.accept f.port) = .ok r s2) : exec (.reattach f) s = .next (s2.respond f.port 0x13 r) := by
  show Host.Outcome.next (s.takeFrame (.reattach f) 0x13 f (judgedWith { need := .skip, args := f.args.length } f
    (pure none) (reattachWork f))) = _
  rw [takeFrame_offers ho, judgedWith_passes (s := s.accept f.port) (s1 := s.accept f.port)
    (fun h => absurd h Bool.false_ne_true) (fun h => absurd h hf) (Take.run_pure _ _) rfl, hw]

/-- The checks of REATTACH on a session whose lapse is not due (R80). -/
theorem reattachWork_notDue {s : State} {f : Frame} {e : SessEntry} (hc : f.client.toNat < 16)
    (he : (sessionWord f.client.toNat).holds s e) (hn : e.nonce = f.nonce) (hargs : f.args = [])
    (hst : e.state = .suspect ∨ e.state = .lapsed) (hd : s.lapseDue f.client.toNat e = false) :
    reattachWork f s = (if e.state = .suspect then reattachSuspect f.client.toNat e f.port
      else reattachRevive .revive f.client.toNat e f.port) s := by
  have hrange : ¬ Config.sessions ≤ f.client.toNat := Nat.not_le.2 hc
  have hfree : e.state ≠ .free := by rintro h; rw [h] at hst; simp at hst
  rw [reattachWork, if_neg hrange, Take.bind_of_ok (readControl_holds he), Take.bind_of_ok (Take.run_get s), if_neg hfree,
    if_neg (fun h => Bool.false_ne_true (hd.symm.trans h.1)), if_neg (Bool.eq_false_iff.1 hd), Take.bind_of_ok (Take.run_pure e s),
    if_neg (by simp [hfree, hn])]
  by_cases hs : e.state = .suspect
  · rw [if_pos hs, if_pos hs, if_neg (not_not.2 hargs)]
  · rw [if_neg hs, if_neg hs, if_pos (hst.resolve_left hs), if_neg (not_not.2 hargs)]

theorem reattachWork_due {s : State} {f : Frame} {e : SessEntry} (hc : f.client.toNat < 16)
    (he : (sessionWord f.client.toNat).holds s e) (hn : e.nonce = f.nonce) (hargs : f.args = [])
    (hfree : e.state ≠ .free) (hd : s.lapseDue f.client.toNat e = true) (hp : e.policy = .hold) :
    reattachWork f s = reattachRevive .reviveDue f.client.toNat e f.port s := by
  have hrange : ¬ Config.sessions ≤ f.client.toNat := Nat.not_le.2 hc
  rw [reattachWork, if_neg hrange, Take.bind_of_ok (readControl_holds he), Take.bind_of_ok (Take.run_get s), if_neg hfree, if_pos ⟨hd, hp, hn, hargs⟩]

theorem reattachSuspect_reopens {s : State} {c : Nat} {e : SessEntry} {p : PortId} {counter : Nonce} (h : s.between)
    (hn : nonceWord.holds s counter) : reattachSuspect c e p s =
      .ok (reattachReply s.now e (s.vol c).restarted (freshNonce counter e.nonce) 0)
        ((s.commit { session := some (c, e.reattached p (freshNonce counter e.nonce)),
                     nonce := some (nonceNext (freshNonce counter e.nonce)) }).sessionReopened c (s.vol c)
          (tickPlus s.now e.hbTerm.toNat)) := by
  rw [reattachSuspect, Take.bind_of_ok (Take.run_get s), Take.bind_of_ok (reopen_commits h hn), Take.run_pure]

/-- A reattachment by a settle, from what its records and its part 3 do (R82, R83). -/
theorem reattachRevive_of_ok {form : SettleForm} {s s1 s2 : State} {c : Nat} {e : SessEntry} {p : PortId} {n : Nat}
    {nonce : Nonce} (hrecords : settleRecords form c (s.settleSlots c)
      (s.commit { session := some (c, { e with state := .settling, action := form.action }) }) = .ok n s1)
    (hreopen : reopen c { e with waitsHeld := false } p s1 = .ok nonce s2) :
    reattachRevive form c e p s = .ok (reattachReply s.now e (s.vol c).restarted nonce n) s2 := by
  rw [reattachRevive, Take.bind_of_ok (Take.run_get s), Take.bind_of_ok (settle_of_ok hrecords hreopen), Take.run_pure]

/-- Flags 0 and 1 of REATTACH's marks byte (R190). -/
theorem flagBits_eq (a b : Bool) : (flagBit 0 a ||| flagBit 1 b : Byte) =
    (if a then 1 else 0) ||| (if b then 2 else 0) := by
  cases a <;> cases b <;> rfl

theorem reattachReply_eq (now : Tick) (e : SessEntry) (restarted : Bool) (nonce : Nonce) (n : Nat) :
    reattachReply now e restarted nonce n = .ok (beBytes 2 nonce.toNat ++
      [revivedByte n, (if e.waitsLost then 1 else 0) ||| (if restarted then 2 else 0)] ++
      tickBytes (tickPlus now e.hbTerm.toNat)) := by
  rw [reattachReply, flagBits_eq]

/-- The nonce counter is as it was behind a commit that does not carry it. -/
theorem nonceWord_holds_commit {s : State} {v : Nonce} (h : s.between) (hn : nonceWord.holds s v) (is : List Image)
    (p : Option (Nat × SessEntry)) : nonceWord.holds (s.commit { images := is, session := p }) v := by
  have hcore := State.commit_store h.uncut h.canonical { images := is, session := p }
  obtain ⟨-, -, -, -, hnonce, -⟩ := hcore
  have hkeeps : ∀ (l : List Image) (st : Store), (l.foldl Store.putImage st).nonce = st.nonce := by
    intro l
    induction l with
    | nil => exact fun _ => rfl
    | cons i l ih =>
      intro st
      rw [List.foldl_cons, ih]
      cases i with
      | slot n whole img => cases whole <;> rfl
      | zone m => rfl
  have hput : (s.store.putCommit { images := is, session := p }).nonce = s.store.nonce := by
    cases p with
    | none => exact hkeeps is _
    | some p => exact hkeeps is _
  show (s.commit _).store.nonce = _
  rw [hnonce, hput]
  exact hn

/-- REATTACH with no record to work: the session's entry and the nonce counter in the commit that counts (R81, R82). -/
theorem reattachRevive_noRecords {s : State} {c : Nat} {e : SessEntry} {p : PortId} {counter : Nonce} (h : s.between)
    (hn : nonceWord.holds s counter) (hslots : s.settleSlots c = []) : reattachRevive .revive c e p s =
      .ok (reattachReply s.now e (s.vol c).restarted (freshNonce counter e.nonce) 0)
        (((s.commit { session := some (c, { e with state := .settling, action := .revive }) }).commit
          { session := some (c, { e with waitsHeld := false }.reattached p (freshNonce counter e.nonce)),
            nonce := some (nonceNext (freshNonce counter e.nonce)) }).sessionReopened c (s.vol c)
          (tickPlus s.now e.hbTerm.toNat)) := by
  refine reattachRevive_of_ok (by rw [hslots, settleRecords, Take.run_pure]) ?_
  exact reopen_commits (State.between_commit h _) (nonceWord_holds_commit h hn [] _)

/-- REATTACH of a SUSPECT session, or of a LAPSED one that holds nothing. -/
theorem reattach_noRecords {s s1 : State} {f : Frame} {c : Nat} {e : SessEntry} {counter nonce : Nonce} {d : Tick}
    (hbetween : s.between) (ho : s.offers (.reattach f) f.port) (hf : ¬ s.inFault) (hs1 : s1 = s.accept f.port)
    (hargs : f.args = []) (hc : c = f.client.toNat) (hlt : c < 16) (he : (sessionWord c).holds s e)
    (hn : e.nonce = f.nonce) (hst : e.state = .suspect ∨ (e.state = .lapsed ∧ s.settleSlots c = []))
    (hd : s.lapseDue c e = false) (hcounter : nonceWord.holds s counter) (hnonce : nonce = freshNonce counter e.nonce)
    (htick : d = tickPlus s.now e.hbTerm.toNat) :
    ∃ t, exec (.reattach f) s = .next t ∧ s1.becomes
      (s.store.putCommit { session := some (c, { e with
          state := .opened, action := .none, port := some f.port, nonce := nonce, waitsLost := false,
          waitsHeld := e.waitsHeld && e.state == .suspect }), nonce := some (nonceNext nonce) })
      (fun x => (x.sessionReopened c (s.vol c) d).respond f.port 0x13 (.ok (beBytes 2 nonce.toNat ++
        [0, (if e.waitsLost then 1 else 0) ||| (if (s.vol c).restarted then 2 else 0)] ++ tickBytes d))) t := by
  subst hs1 hc hnonce htick
  have hs1 := State.between_accept hbetween f.port
  have hwork := reattachWork_notDue (s := s.accept f.port) hlt he hn hargs (hst.imp_right And.left) hd
  by_cases hs : e.state = .suspect
  · rw [if_pos hs, reattachSuspect_reopens hs1 hcounter, reattachReply_eq] at hwork
    refine ⟨_, exec_reattach ho hf hwork, ?_⟩
    rw [show (e.state == .suspect) = true by rw [hs]; rfl, Bool.and_true]
    exact State.becomes_commit_then hs1 _ fun x => by simp
  · rw [if_neg hs, reattachRevive_noRecords hs1 hcounter (hst.resolve_left hs).2, reattachReply_eq] at hwork
    refine ⟨_, exec_reattach ho hf hwork, ?_⟩
    rw [show (e.state == .suspect) = false by rw [(hst.resolve_left hs).1]; rfl, Bool.and_false]
    exact State.becomes_session_again hs1 f.client.toNat _ _ (some _) (F := fun x => (x.sessionReopened _ _ _).respond _ _ _)
      fun x => by simp

/-! REATTACH with one record to work (R80, R82). -/

/-- The schedule request for a grant that runs again: a LAPSED session's was removed at its lapse, and that of a session
whose lapse is due is held still. -/
def revivalOut (form : SettleForm) (n : Nat) (now : Tick) (g : Grant) : Out :=
  match form with
  | .reviveDue => .move .grantExpiry (.grant n g.token) (tickPlus now g.term.toNat)
  | _ => .insert .grantExpiry (.grant n g.token) (tickPlus now g.term.toNat)

/-- The form of settle that revives a grant in this state. -/
def SettleForm.revives (form : SettleForm) (g : Grant) : Prop :=
  form = .revive ∧ g.gstate = .orphaned ∨ form = .reviveDue ∧ g.gstate = .live

theorem freedClients_revivalOut (form : SettleForm) (n : Nat) (now : Tick) (g : Grant) :
    freedClients [revivalOut form n now g] = [] := by
  cases form <;> rfl

theorem handOuts_revivalOut_commit (x : State) (form : SettleForm) (n : Nat) (now : Tick) (g : Grant) (cm : Commit) :
    (x.handOuts [revivalOut form n now g]).commit cm = (x.commit cm).handOuts [revivalOut form n now g] := by
  cases form <;> rfl

theorem handOuts_revivalOut_vol (x : State) (form : SettleForm) (n : Nat) (now : Tick) (g : Grant) (c : Nat) :
    (x.handOuts [revivalOut form n now g]).vol c = x.vol c := by
  cases form <;> rfl

theorem handOuts_revivalOut_now (x : State) (form : SettleForm) (n : Nat) (now : Tick) (g : Grant) :
    (x.handOuts [revivalOut form n now g]).now = x.now := by
  cases form <;> rfl

theorem SettleForm.action_of_revives {form : SettleForm} {g : Grant} (h : form.revives g) : form.action = .revive := by
  rcases h with ⟨rfl, -⟩ | ⟨rfl, -⟩ <;> rfl

theorem settleWork_revives {form : SettleForm} {now : Tick} {c : Nat} {b : Bench} {g : Grant} (hf : form.revives g)
    (hg : b.body.grantOf c = some g) (hno : b.waiterOf c = none) : b.settleWork form now c =
      (b.changeGrant g.token (Grant.revived now)).emit [revivalOut form b.slot now g] ∧ b.revivedBy form c = 1 := by
  rcases hf with ⟨rfl, hst⟩ | ⟨rfl, -⟩
  · simp only [Bench.settleWork, Bench.settleRevive, Bench.revivedBy, hg, hst, if_true, revivalOut, and_self]
  · simp only [Bench.settleWork, Bench.settleReviveDue, Bench.dropWaiterOf, Bench.revivedBy, hg, hno, revivalOut, and_self]

/-- Part 2 of a settle that revives the one grant of its session. -/
theorem settleRecords_revives {form : SettleForm} {s : State} {c n : Nat} {k : Key} {g : Grant} (hf : form.revives g)
    (h : s.atRest k n) (hg : (s.recordOf n).grantOf c = some g) (hno : ∀ p ∈ s.waitersOf n, p.2.client ≠ c) :
    settleRecords form c [n] s = .ok 1
      (((s.commit { images := [.slot n true ((s.recordOf n).changed g.token (Grant.revived s.now)).image] }).recordKept n
        ((s.recordOf n).changed g.token (Grant.revived s.now))).handOuts [revivalOut form n s.now g]) := by
  have hwaiter : (s.bench n none).waiterOf c = none :=
    List.find?_eq_none.2 fun p hp => by simpa using hno p hp
  obtain ⟨hwork, hcount⟩ := settleWork_revives (b := s.bench n none) (now := s.now) hf hg hwaiter
  have hclose := closeBench_changed h (List.ne_nil_of_mem (List.mem_of_find?_eq_some hg)) g.token (Grant.revived s.now)
    (os := [revivalOut form n s.now g]) (freedClients_revivalOut form n s.now g)
  rw [settleRecords, Take.run_bind, Take.bind_of_ok (touch_atRest h)]
  dsimp only
  rw [Take.bind_of_ok (Take.run_get s), hwork, hcount]
  have hone : (do
      closeBench (((s.bench n none).changeGrant g.token (Grant.revived s.now)).emit
        [revivalOut form (s.bench n none).slot s.now g])
      pure 1 : Take Nat) s = .ok 1 _ := Take.bind_of_ok hclose
  rw [hone]
  rfl

/-- With distinct tokens only the named grant changes. -/
theorem Rec.changed_of_nodup {r : Rec} {g : Grant} {f f' : Grant → Grant} (hg : g ∈ r.grants)
    (hnodup : (r.grants.map Grant.token).Nodup) (h : f g = f' g) : r.changed g.token f = r.changed g.token f' := by
  have hmap : (r.grants.map fun x => if x.token = g.token then f x else x) =
      r.grants.map fun x => if x.token = g.token then f' x else x := by
    refine List.map_congr_left fun x hx => ?_
    split
    next ht => rw [List.inj_on_of_nodup_map hnodup hx hg ht, h]
    next => rfl
  rw [Rec.changed, hmap, Rec.changed]

/-- REATTACH by a settle that revives the session's one grant. -/
theorem reattachRevive_oneRecord {form : SettleForm} {s : State} {c n : Nat} {k : Key} {e : SessEntry} {p : PortId}
    {counter : Nonce} {g : Grant} (hs : s.between) (hf : form.revives g) (hslots : s.settleSlots c = [n])
    (h : s.atRest k n) (hg : (s.recordOf n).grantOf c = some g) (hno : ∀ p ∈ s.waitersOf n, p.2.client ≠ c)
    (hheld : e.waitsHeld = false) (hn : nonceWord.holds s counter) :
    reattachRevive form c e p s =
      .ok (reattachReply s.now e (s.vol c).restarted (freshNonce counter e.nonce) 1)
        ((((((s.commit { session := some (c, { e with state := .settling, action := .revive }) }).commit
          { images := [.slot n true ((s.recordOf n).changed g.token (Grant.revived s.now)).image] }).commit
          { session := some (c, e.reattached p (freshNonce counter e.nonce)),
            nonce := some (nonceNext (freshNonce counter e.nonce)) }).recordKept n
          ((s.recordOf n).changed g.token (Grant.revived s.now))).handOuts
          [revivalOut form n s.now g]).sessionReopened c (s.vol c) (tickPlus s.now e.hbTerm.toNat)) := by
  have hentry : ({ e with waitsHeld := false } : SessEntry) = e := by rw [← hheld]
  obtain ⟨hslotEq, -, -, htoken, -⟩ := State.commit_store hs.uncut hs.canonical
    { session := some (c, { e with state := .settling, action := .revive }) }
  have hslot : (s.commit { session := some (c, { e with state := .settling, action := .revive }) }).store.slot n =
      s.store.slot n := by
    simp only [Store.slot, hslotEq]
    rfl
  have hrest : (s.commit { session := some (c, { e with state := .settling, action := .revive }) }).atRest k n :=
    State.atRest_congr h rfl rfl hslot htoken
  have hrec : (s.commit { session := some (c, { e with state := .settling, action := .revive }) }).recordOf n =
      s.recordOf n := by rw [State.recordOf, State.recordOf, hslot]
  have hmid := State.between_commit hs { session := some (c, { e with state := .settling, action := .revive }) }
  have hrecords := settleRecords_revives (c := c) hf hrest (by rw [hrec]; exact hg) hno
  rw [hrec, show (s.commit _).now = s.now from rfl] at hrecords
  have hkept := steady_between.keeps_settleRecords form c [n] _ hmid
  rw [Take.fin, hrecords] at hkept
  dsimp only at hkept
  have hnonce := nonceWord_holds_commit hmid (nonceWord_holds_commit hs hn [] _)
    [.slot n true ((s.recordOf n).changed g.token (Grant.revived s.now)).image] none
  have hreopen := reopen_commits (c := c) (e := { e with waitsHeld := false }) (p := p) hkept
    (by rw [Control.holds, State.handOuts_store]; exact hnonce)
  have hfinal := reattachRevive_of_ok (s := s) (by rw [hslots, SettleForm.action_of_revives hf]; exact hrecords) hreopen
  rw [hfinal, hentry, handOuts_revivalOut_commit, handOuts_revivalOut_vol, handOuts_revivalOut_now]
  rfl

/-- The three commits of a REATTACH with one record, and its volatile effects. -/
theorem reattachRevive_becomes {s : State} (hs : s.between) (c n : Nat) (a b : SessEntry) (r : Rec) (nonce : Nonce)
    {F : State → State} (hF : ∀ x, (F x).store = x.store) :
    s.becomes (s.store.putCommit { images := [.slot n true r.image], session := some (c, b), nonce := some nonce }) F
      (F (((s.commit { session := some (c, a) }).commit { images := [.slot n true r.image] }).commit
        { session := some (c, b), nonce := some nonce })) := by
  have hmid := State.between_commit hs { session := some (c, a) }
  rw [← Store.putCommit_image_session hs.canonical c a b]
  exact State.becomes_then (State.becomes_commit (State.becomes_commit (State.commit_becomes hs _) hmid _)
    (State.between_commit hmid _) _) hF

/-- Settles O20: a session with no record to work takes its entry alone; one with a grant to revive takes the settle. -/
theorem reattachOpensTheSession : Obligations.ReattachOpensTheSession := by
  refine ⟨fun s s1 f c e counter nonce d hb ho hf hs1 hargs hc hlt he hn hst hd hcounter hnonce htick =>
    reattach_noRecords hb ho hf hs1 hargs hc hlt he hn hst hd hcounter hnonce htick, ?_⟩
  rintro s _ f k n _ e counter _ _ _ _ g _ hb ho hf rfl hargs rfl hlt he hn hslots hrest rfl hg hnodup hno hheld hcounter
    rfl rfl rfl rfl hcase
  have hs1 := State.between_accept hb f.port
  have hmem := List.mem_of_find?_eq_some hg
  have hrevived : ∀ {form : SettleForm}, form.revives g → _ := fun hform =>
    reattachRevive_oneRecord (p := f.port) hs1 hform hslots hrest hg hno hheld hcounter
  have hchanged : ((s.recordOf n).changed g.token fun _ =>
      { g with gstate := .live, expiry := tickPlus s.now g.term.toNat }) =
      (s.recordOf n).changed g.token (Grant.revived s.now) := Rec.changed_of_nodup hmem hnodup rfl
  rw [hchanged]
  rcases hcase with ⟨hst, hg⟩ | ⟨hst, hp, hd, hg⟩
  · have hwork := reattachWork_notDue (s := s.accept f.port) hlt he hn hargs (Or.inr hst)
      (by rw [State.lapseDue, hst]; rfl)
    rw [if_neg (by rw [hst]; exact SessState.noConfusion), hrevived (Or.inl ⟨rfl, hg⟩), reattachReply_eq] at hwork
    refine ⟨_, exec_reattach ho hf hwork, ?_⟩
    simp only [if_pos hst]
    exact reattachRevive_becomes hs1 f.client.toNat n _ _ _ _
      (F := fun x => (((x.recordKept n _).schedInsert _ _ _).sessionReopened _ _ _).respond _ _ _) fun x => by simp
  · have hfree : e.state ≠ .free ∧ e.state ≠ .lapsed := by rcases hst with h | h <;> rw [h] <;> decide
    have hwork := reattachWork_due (s := s.accept f.port) hlt he hn hargs hfree.1 hd hp
    rw [hrevived (Or.inr ⟨rfl, hg⟩), reattachReply_eq] at hwork
    refine ⟨_, exec_reattach ho hf hwork, ?_⟩
    simp only [if_neg hfree.2]
    exact reattachRevive_becomes hs1 f.client.toNat n _ _ _ _
      (F := fun x => (((x.recordKept n _).schedMove _ _ _).sessionReopened _ _ _).respond _ _ _) fun x => by simp

end Sys2Proof.Machine
end

section
/-! PROOFS. Chapter 1: CREATE, RETIRE, LOOKUP and ENUMERATE (R10 to R12, R16 to R19). -/

namespace Sys2Proof.Machine

/-! ### CREATE (R10, R11) -/

theorem State.mayCreate_of {s : State} {z : ZoneAttr} {p : PortId} (h : z.supOnly = false ∨ s.main.supPort = some p) :
    s.mayCreate z p = true := by
  rcases h with h | h
  · rw [State.mayCreate, h]
    rfl
  · rw [State.mayCreate, h, Bool.or_eq_true]
    exact .inr (beq_self_eq_true _)

theorem createArgsOk_of {share : Nat} {d m : Term} (h1 : 1 ≤ share) (h4 : share ≤ 4) (hm : m ≠ 0) (hd : d ≠ 0)
    (hle : d ≤ m) : createArgsOk share d m = true := by
  simp only [createArgsOk, h1, h4, hle, decide_true, Bool.true_and, Bool.and_true, Bool.and_eq_true, bne_iff_ne]
  exact ⟨hm, hd⟩

/-- The commit of a new record in a FREE slot. -/
theorem createIn_good {s : State} {n : Nat} {r : Rec} (hgood : (s.store.slot n).ecc.head? = some .good)
    (hqueue : s.queueOf n = []) (hpinned : r.persist = .pinned) (hgen : r.gen = 0) : createIn n r s =
      .ok (.ok (r.summary 0)) ((s.commit { images := [.slot n true r.image] }).recordKept n r) := by
  have hretire : (newBench n 0 r).toRetire = false := by
    rw [Bench.toRetire, show (newBench n 0 r).body.persist = .pinned from hpinned]
    rfl
  have hnext : (newBench n 0 r).next = r := by
    rw [Bench.next]
    show { r with gen := 0 } = r
    rw [← hgen]
  have hclose := closeBench_kept (s := s) (b := newBench n 0 r) (tok := 0) rfl hretire hqueue.symm rfl
    fun hi => absurd hi (Nat.lt_irrefl 0)
  rw [hnext] at hclose
  rw [createIn, Take.bind_of_ok (checkFreeSlot_good hgood), if_pos rfl, Take.bind_of_ok hclose, Take.run_pure]
  rfl

theorem keyUnused_absent {s : State} {k : Key} (h : s.lookup k = none) : keyUnused k s = .ok none s := by
  rw [keyUnused, Take.bind_of_ok (Take.run_get s), h]
  rfl

/-- The checks of R10, all passed. -/
theorem createWork_passes {s : State} {f : Frame} {map : ZoneMap} {n : Nat} {k : Key} (hmap : zoneWord.holds s map)
    (hkey : k = keyAt f.args 0) (hk : ¬ reservedKey k) (hmay : s.mayCreate (map.attr (map.classify k)) f.port = true)
    (hlookup : s.lookup k = none) (hn : s.lowestFree [] = some n)
    (hargs : createArgsOk (byteAt f.args 4).toNat (termAt f.args 5) (termAt f.args 8) = true) :
    createWork f s = createIn n (newRecord k (map.classify k) .pinned (byteAt f.args 4).toNat (termAt f.args 5)
      (termAt f.args 8)) s := by
  subst hkey
  rw [createWork, Take.bind_of_ok (readControl_holds hmap), Take.bind_of_ok (Take.run_get s),
    hmay, if_neg (by decide), if_neg hk, Take.bind_of_ok (keyUnused_absent hlookup)]
  dsimp only
  rw [Take.bind_of_ok (Take.run_get s), hn]
  dsimp only
  rw [hargs, if_neg (by decide)]

/-- Settles O22: behind its checks CREATE is the commit of one new record. -/
theorem createCommitsARecord : Obligations.CreateCommitsARecord := by
  intro s s1 f map n k r hbetween htaken hmap hkey hk hmay hlookup hn hfree hbelow hgood hqueue hr h1 h4 hm hd hle
  have hs1 := State.between_takenTo hbetween htaken
  have hmay : s1.mayCreate (map.attr (map.classify k)) f.port = true :=
    State.mayCreate_of (hmay.imp_right fun h => (State.takenTo_supPort htaken).trans h)
  subst hr
  have hwork := (createWork_passes hmap hkey hk hmay hlookup (State.lowestFree_eq_some hn hfree hbelow)
    (createArgsOk_of h1 h4 hm hd hle)).trans (createIn_good hgood hqueue rfl rfl)
  exact ⟨_, exec_of_work htaken rfl rfl hwork, State.becomes_commit_then hs1 _ fun _ => by simp⟩

/-! ### RETIRE (R12) -/

theorem retireRecord_atRest {s : State} {k : Key} {n : Nat} (h : s.atRest k n) : retireRecord k s =
    (if (s.recordOf n).state = .vacant ∧ s.waitersOf n = [] then (do
        closeBench (s.bench n none).doomed
        pure (.bare .ok))
      else (do
        closeBench (s.bench n none)
        pure (.bare .busy)) : Take Reply) s := by
  obtain ⟨holders, hindexed⟩ := h.indexed
  rw [retireRecord, Take.bind_of_ok (Take.run_get s), hindexed]
  dsimp only
  rw [if_neg Bool.false_ne_true, Take.bind_of_ok (touch_atRest h)]
  rfl

theorem retireWork_passes {s : State} {f : Frame} {map : ZoneMap} {k : Key} (hmap : zoneWord.holds s map)
    (hkey : k = keyAt f.args 0) (hk : ¬ reservedKey k) (hmay : s.mayCreate (map.attr (map.classify k)) f.port = true) :
    retireWork f s = retireRecord k s := by
  subst hkey
  rw [retireWork, Take.bind_of_ok (readControl_holds hmap), Take.bind_of_ok (Take.run_get s),
    hmay, if_neg (by decide), if_neg hk]

/-- Settles O23: a record that nothing uses is doomed and its close frees the slot; another is left as it is. -/
theorem retireFreesTheSlot : Obligations.RetireFreesTheSlot := by
  intro s s1 f map n k hbetween htaken hmap hkey hk hmay hrest hreckey
  have hs1 := State.between_takenTo hbetween htaken
  have hmay : s1.mayCreate (map.attr (map.classify k)) f.port = true :=
    State.mayCreate_of (hmay.imp_right fun h => (State.takenTo_supPort htaken).trans h)
  have hwork := (retireWork_passes hmap hkey hk hmay).trans (retireRecord_atRest hrest)
  refine ⟨fun hvacant hqueue => ?_, fun hused => ?_⟩
  · have hwaiters := State.waitersOf_nil hqueue
    have hretire : (s1.bench n none).doomed.toRetire = true := by
      rw [Bench.toRetire, show (s1.bench n none).doomed.body.state = .vacant from hvacant,
        show (s1.bench n none).doomed.queue = [] from hwaiters]
      rfl
    have hclose := closeBench_retired (s := s1) hretire rfl hrest.queued rfl
    rw [if_pos ⟨hvacant, hwaiters⟩, Take.bind_of_ok hclose, Take.run_pure] at hwork
    refine ⟨_, exec_of_work htaken rfl rfl hwork, ?_⟩
    rw [← hreckey]
    exact State.becomes_freed_then hs1 n (s1.bench n none).doomed.body.image _ fun _ => by simp
  · have hnot : ¬ ((s1.recordOf n).state = .vacant ∧ s1.waitersOf n = []) := by
      rintro ⟨hvacant, hwaiters⟩
      refine hused.elim (fun h => h hvacant) fun h => h ?_
      rw [← hrest.queued, hwaiters]
      rfl
    rw [if_neg hnot, Take.bind_of_ok (closeBench_atRest hrest), Take.run_pure] at hwork
    exact exec_of_work htaken rfl rfl hwork

/-! ### LOOKUP (R16, R19) -/

theorem State.zoneByte_holds {s : State} {map : ZoneMap} (h : zoneWord.holds s map) (k : Key) :
    s.zoneByte k = (map.classify k).setWidth 8 := by
  rw [State.zoneByte, Control.peek_holds h]

theorem showRecord_good {s : State} {n : Nat} (h : (s.store.slot n).ecc = tenGood) :
    showRecord n s = .ok (some (s.recordOf n)) s := by
  rw [showRecord, Take.bind_of_ok (Take.run_get s), Take.bind_of_ok (readWords_good h _)]
  rfl

theorem State.atRest_queueLength {s : State} {k : Key} {n : Nat} (h : s.atRest k n) :
    (s.bench n none).queue.length = (s.queueOf n).length := by
  rw [← h.queued, List.length_map, State.bench_queue]

theorem lookupRecord_atRest {s : State} {k : Key} {n : Nat} (hf : ¬ s.inFault) (h : s.atRest k n) :
    lookupRecord k n s = .ok (.ok ((s.recordOf n).summary (s.queueOf n).length)) s := by
  rw [lookupRecord, Take.bind_of_ok (Take.run_get s), if_neg hf, Take.bind_of_ok (touch_atRest h)]
  dsimp only
  rw [Take.bind_of_ok (closeBench_atRest h), Take.run_pure, State.atRest_queueLength h]
  rfl

theorem lookupRecord_inFault {s : State} {n : Nat} (hf : s.inFault) (h : (s.store.slot n).ecc = tenGood) (k : Key) :
    lookupRecord k n s = .ok (.ok ((s.recordOf n).summary (s.queueOf n).length)) s := by
  rw [lookupRecord, Take.bind_of_ok (Take.run_get s), if_pos hf, Take.bind_of_ok (showRecord_good h)]
  rfl

theorem lookupWork_indexed {s : State} {f : Frame} {k : Key} {e : IndexEntry} (hkey : k = keyAt f.args 0)
    (hk : ¬ reservedKey k) (h : s.lookup k = some e) : lookupWork f s =
      (if e.quarantined then pure (quarantinedReply k (s.zoneByte k)) else lookupRecord k e.slot : Take Reply) s := by
  subst hkey
  rw [lookupWork, Take.bind_of_ok (Take.run_get s), if_neg hk, h]

/-- Settles O24: each answer is read off the index entry and the record as it stands. -/
theorem lookupReports : Obligations.LookupReports := by
  intro s s1 f k htaken hkey
  have hexec := fun r (hw : lookupWork f s1 = .ok r s1) => exec_of_work htaken rfl rfl hw
  refine ⟨fun hk => hexec _ ?_, fun hk => ⟨fun hnone => hexec _ ?_, fun e map he hq hmap => hexec _ ?_,
    fun n hf hrest => hexec _ ?_, fun e hf he hq hgood => hexec _ ?_⟩⟩
  · subst hkey
    rw [lookupWork, Take.bind_of_ok (Take.run_get s1)]
    exact congrFun (if_pos hk) s1
  · subst hkey
    rw [lookupWork, Take.bind_of_ok (Take.run_get s1), if_neg hk, hnone]
    rfl
  · rw [lookupWork_indexed hkey hk he, if_pos hq, State.zoneByte_holds hmap, Take.run_pure]
    rfl
  · obtain ⟨holders, hindexed⟩ := hrest.indexed
    rw [lookupWork_indexed hkey hk hindexed, if_neg Bool.false_ne_true]
    exact lookupRecord_atRest hf hrest
  · rw [lookupWork_indexed hkey hk he, if_neg (by rw [hq]; exact Bool.false_ne_true)]
    exact lookupRecord_inFault hf hgood k

/-! ### ENUMERATE (R17, R18) -/

/-- The entry that a page shows of a record at rest or QUARANTINED. -/
def State.listed (s : State) (e : Nat × IndexEntry) : List Byte :=
  if e.2.quarantined then keyBytes (BitVec.ofNat 32 e.1) ++ [3, 0, 0, 0, 0, 0, 0]
  else (s.recordOf e.2.slot).entry (s.queueOf e.2.slot).length

theorem listRecord_listed {s : State} {e : Nat × IndexEntry} (hf : ¬ s.inFault)
    (h : e.2.quarantined = true ∨ s.atRest (BitVec.ofNat 32 e.1) e.2.slot) :
    listRecord (BitVec.ofNat 32 e.1) e.2 s = .ok (some (s.listed e)) s := by
  rw [listRecord, Take.bind_of_ok (Take.run_get s), State.listed]
  by_cases hq : e.2.quarantined = true
  · rw [if_pos hq, if_pos hq]
    rfl
  · have hrest := h.resolve_left hq
    rw [if_neg hq, if_neg hf, if_neg hq, Take.bind_of_ok (touch_atRest hrest)]
    dsimp only
    rw [Take.bind_of_ok (closeBench_atRest hrest), Take.run_pure, State.atRest_queueLength hrest]
    rfl

/-- The walk lists the first `n` of its keys and stops at the next one. -/
theorem enumWalk_listed {s : State} (hf : ¬ s.inFault) : ∀ (es : List (Nat × IndexEntry)) (n : Nat),
    (∀ e ∈ es, e.2.quarantined = true ∨ s.atRest (BitVec.ofNat 32 e.1) e.2.slot) →
    enumWalk es n s = .ok ((es.take n).flatMap s.listed, (es.take n).length,
      ((es.drop n).head?.map fun e => BitVec.ofNat 32 e.1).getD 0) s
  | [], n, _ => by
    rw [List.take_nil, List.drop_nil]
    rfl
  | e :: es, n, h => by
    obtain ⟨he, hes⟩ := List.forall_mem_cons.1 h
    rw [enumWalk, Take.bind_of_ok (listRecord_listed hf he)]
    cases n with
    | zero => rfl
    | succ n =>
      dsimp only
      rw [Take.bind_of_ok (enumWalk_listed hf es n hes), Take.run_pure]
      rfl

/-- Settles O25: the walk of the page over records that it leaves as they are. -/
theorem enumerateListsAPage : Obligations.EnumerateListsAPage := by
  rintro s s1 f n _ htaken hf hstart hn h1 h8 rfl hrest
  subst hn
  have hf1 : ¬ s1.inFault := by rw [State.inFault, State.takenTo_mon htaken]; exact hf
  have hcount : ¬ ((byteAt f.args 4).toNat = 0 ∨ 8 < (byteAt f.args 4).toNat) := by omega
  refine exec_of_work (work := enumerateWork f) htaken rfl rfl ?_
  rw [enumerateWork, Take.bind_of_ok (Take.run_get s1), if_neg hstart, if_neg hcount,
    Take.bind_of_ok (enumWalk_listed hf1 _ _ hrest), Take.run_pure]
  rfl

/-! ### What a notice offered leaves as it is (R106, R112) -/

theorem State.driveLines_cases (s : State) : s.driveLines = s ∨ ∃ l, s.driveLines = s.setAttn l := by
  unfold State.driveLines
  split
  · exact .inl rfl
  · exact .inr ⟨_, rfl⟩

/-- A notice offered to a session changes its notice queue and the attention lines at most. -/
theorem State.offer_cases (s : State) (c : Nat) (n : Notice) : s.offer c n = s ∨
    ∃ l, s.offer c n = (s.setNoticesOf c ((s.noticesOf c).join n)).setAttn l := by
  unfold State.offer
  split
  · rcases State.driveLines_cases (s.setNoticesOf c ((s.noticesOf c).join n)) with h | ⟨l, h⟩
    · exact .inr ⟨s.main.attn, h⟩
    · exact .inr ⟨l, h⟩
  · exact .inl rfl

/-! ### A slot withdrawn for an uncorrectable word (R142) -/

/-- One uncorrectable word behind word 0 of a slot: what a checked read of all ten words makes of it. -/
theorem tenGood_set_double {j : Nat} (h1 : 1 ≤ j) (h10 : j < 10) :
    readable ((tenGood.set j .double).take Config.slotWords) = false ∧
      singlesFrom 0 ((tenGood.set j .double).take Config.slotWords) = [] ∧
      (tenGood.set j .double).headD .good = .good ∧ (tenGood.set j .double).set 0 .good = tenGood.set j .double := by
  interval_cases j <;> exact ⟨rfl, rfl, rfl, rfl⟩

theorem logWords_set_double (n : Nat) (m : Monitor) {j : Nat} (h1 : 1 ≤ j) (h10 : j < 10) :
    (Monitor.logWords .record n 0 0 ((tenGood.set j .double).take Config.slotWords) m).uncorrected =
        min (m.uncorrected + 1) 255 ∧
      (Monitor.logWords .record n 0 0 ((tenGood.set j .double).take Config.slotWords) m).fault = m.fault ∧
      (Monitor.logWords .record n 0 0 ((tenGood.set j .double).take Config.slotWords) m).lost = m.lost := by
  interval_cases j <;> exact ⟨rfl, rfl, rfl⟩

/-- The results that a quarantine hands over for the holders that the index named (R142, step 3). -/
def revocations (now : Tick) (n : Nat) (k : Key) (holders : List (Nat × Token)) : List Out :=
  holders.flatMap fun h =>
    [.remove (.grant n h.2), .notice h.1 (grantNotice now .revoked .quarantine k h.2)]

theorem freedClients_revocations (now : Tick) (n : Nat) (k : Key) (holders : List (Nat × Token)) :
    freedClients (revocations now n k holders) = [] := by
  induction holders with
  | nil => rfl
  | cons x xs ih => exact ih

/-- The state behind the commit of a quarantine, its results still to be handed over (R142, steps 5 and 6). -/
def State.withdrawn (s : State) (n : Nat) (k : Key) : State :=
  (((s.logWords .record n 0 ((s.store.slot n).ecc.take Config.slotWords)).setQueueOf n []).commitIdent n
    { (s.store.slot n).val.ident with inUse := true, state := .quarantined }).listQuarantined n (some k) true

theorem State.listQuarantined_tables (s : State) (n : Nat) (key : Option Key) (known : Bool) :
    (s.listQuarantined n key known).main.sched = s.main.sched ∧
      (s.listQuarantined n key known).main.notices = s.main.notices := by
  unfold State.listQuarantined
  cases key with
  | none => exact ⟨rfl, rfl⟩
  | some k => cases known <;> exact ⟨rfl, rfl⟩

/-- The schedule and the notice queues are as they were behind the commit of a quarantine. -/
theorem State.withdrawn_tables (s : State) (n : Nat) (k : Key) :
    (s.withdrawn n k).main.sched = s.main.sched ∧ (s.withdrawn n k).main.notices = s.main.notices := by
  obtain ⟨hsched, hnotices⟩ := State.listQuarantined_tables (((s.logWords .record n 0
    ((s.store.slot n).ecc.take Config.slotWords)).setQueueOf n []).commitIdent n
    { (s.store.slot n).val.ident with inUse := true, state := .quarantined }) n (some k) true
  rw [State.commitIdent, State.commit_main] at hsched hnotices
  exact ⟨hsched, hnotices⟩

/-- The touch of a record without waiters in which a word behind word 0 is uncorrectable. -/
theorem touch_withdraws {s : State} {n j : Nat} {k : Key} {h : List (Nat × Token)} (h1 : 1 ≤ j) (h10 : j < 10)
    (hecc : (s.store.slot n).ecc = tenGood.set j .double)
    (hkey : s.keyOfSlot n = some (k, { slot := n, quarantined := false, holders := h })) (hq : s.queueOf n = []) :
    touch n none s = .ok .quarantined ((s.withdrawn n k).handOuts (revocations s.now n k h)) := by
  obtain ⟨hread, hsingles, hhead, -⟩ := tenGood_set_double h1 h10
  have hwords : readWords n Config.slotWords s =
      .ok false (s.logWords .record n 0 ((s.store.slot n).ecc.take Config.slotWords)) := by
    simp only [readWords, State.readSlot, hecc, hread, hsingles, List.map_nil, State.writes_nil, ite_self]
  have hident : identReadable (s.store.slot n) = true := by rw [identReadable, hecc, hhead]; rfl
  have hwork : quarantineWork n (s.logWords .record n 0 ((s.store.slot n).ecc.take Config.slotWords)) =
      .ok (revocations s.now n k h) (s.withdrawn n k) := by
    have hkey' : (s.logWords .record n 0 ((s.store.slot n).ecc.take Config.slotWords)).keyOfSlot n = _ := hkey
    have hwaiters : (s.logWords .record n 0 ((s.store.slot n).ecc.take Config.slotWords)).waitersOf n = [] :=
      State.waitersOf_nil (s := s.logWords .record n 0 _) hq
    rw [quarantineWork, Take.bind_of_ok (Take.run_get _), hkey', hwaiters, State.logWords_store,
      hident, quarantinedIdent, if_pos hident]
    simp only [quarantineOuts, List.flatMap_nil, List.append_nil, Option.getD_some]
    rfl
  have hheld : openHeld n none s = .ok (.error (revocations s.now n k h)) (s.withdrawn n k) := by
    rw [openHeld, Take.bind_of_ok hwords, if_neg Bool.false_ne_true, Take.bind_of_ok hwork, Take.run_pure]
  have htouch : touchHeld n none s = .ok (.quarantined, revocations s.now n k h) (s.withdrawn n k) := by
    rw [touchHeld, Take.bind_of_ok hheld]
    rfl
  rw [touch, Take.bind_of_ok htouch, Take.bind_of_ok (deliver_of_ok (freedClients_revocations _ _ _ _)), Take.run_pure]

theorem handOuts_revocations_cons (s : State) (now : Tick) (n : Nat) (k : Key) (x : Nat × Token)
    (xs : List (Nat × Token)) : s.handOuts (revocations now n k (x :: xs)) =
      ((s.schedRemove (.grant n x.2)).offer x.1 (grantNotice now .revoked .quarantine k x.2)).handOuts
        (revocations now n k xs) := rfl

/-- What the revocations leave as it is, and the schedule behind them. -/
theorem handOuts_revocations (now : Tick) (n : Nat) (k : Key) : ∀ (h : List (Nat × Token)) (s : State),
    (s.handOuts (revocations now n k h)).main.index = s.main.index ∧
      (s.handOuts (revocations now n k h)).main.quar = s.main.quar ∧
      (s.handOuts (revocations now n k h)).main.free = s.main.free ∧
      (s.handOuts (revocations now n k h)).now = s.now ∧
      (s.handOuts (revocations now n k h)).main.sched = h.foldl (fun q x => schedDrop (.grant n x.2) q) s.main.sched
  | [], _ => ⟨rfl, rfl, rfl, rfl, rfl⟩
  | x :: xs, s => by
    rw [handOuts_revocations_cons]
    have ih := handOuts_revocations now n k xs
    rcases State.offer_cases (s.schedRemove (.grant n x.2)) x.1 (grantNotice now .revoked .quarantine k x.2)
      with h | ⟨l, h⟩
    · rw [h]; exact ih _
    · rw [h]; exact ih _

theorem State.session_congr {s t : State} (hstore : t.store = s.store) (hmon : t.main.mon = s.main.mon) (c : Nat) :
    t.session c = s.session c := by
  rw [State.session, State.session, State.entryLost, State.entryLost, Control.peek, Control.peek, hstore, hmon]

/-- A notice offered to a session that keeps it and has room joins its queue; other queues stay (R106, R107). -/
theorem State.offer_queue {s : State} (hw : Tab.rising s.main.notices = true) (c d : Nat) (n : Notice)
    (hk : (s.session c).keepsNotices = true) (hroom : d = c → (s.noticesOf c).queue.length < 16) :
    ((s.offer d n).noticesOf c).queue = (s.noticesOf c).queue ++ if d = c then [n] else [] := by
  have hset : ∀ l, (((s.setNoticesOf d ((s.noticesOf d).join n)).setAttn l).noticesOf c) =
      if d = c then (s.noticesOf d).join n else s.noticesOf c := fun l => Tab.get_set hw d c _
  by_cases hd : d = c
  · subst hd
    have hlines := State.driveLines_cases (s.setNoticesOf d ((s.noticesOf d).join n))
    have hoffer : ∃ l, s.offer d n = (s.setNoticesOf d ((s.noticesOf d).join n)).setAttn l := by
      rw [State.offer, if_pos hk]
      exact hlines.elim (fun h => ⟨s.main.attn, h⟩) fun h => h
    obtain ⟨l, hl⟩ := hoffer
    rw [hl, hset, if_pos rfl, if_pos rfl, NoticeQueue.join, if_pos (hroom rfl)]
  · rw [if_neg hd, List.append_nil]
    rcases State.offer_cases s d n with h | ⟨l, h⟩
    · rw [h]
    · rw [h, hset, if_neg hd]

theorem State.offer_rising {s : State} (h : Tab.wf NoticeQueue.empty s.main.notices = true) (d : Nat) (n : Notice) :
    Tab.wf NoticeQueue.empty (s.offer d n).main.notices = true := by
  rcases State.offer_cases s d n with ho | ⟨l, ho⟩
  · rw [ho]; exact h
  · rw [ho]; exact Tab.wf_set h d _

/-- Each holder with room in its queue is told of every grant it held (R142, step 3). -/
theorem handOuts_revocations_queue (now : Tick) (n : Nat) (k : Key) (c : Nat) : ∀ (h : List (Nat × Token)) (s : State),
    Tab.wf NoticeQueue.empty s.main.notices = true → (s.session c).keepsNotices = true →
    (s.noticesOf c).queue.length + h.length ≤ 16 →
    ((s.handOuts (revocations now n k h)).noticesOf c).queue = (s.noticesOf c).queue ++
      (h.filter fun x => x.1 == c).map fun x => grantNotice now .revoked .quarantine k x.2
  | [], _, _, _, _ => (List.append_nil _).symm
  | x :: xs, s, hw, hk, hroom => by
    rw [List.length_cons] at hroom
    have hqueue := State.offer_queue (s := s.schedRemove (.grant n x.2)) (Tab.rising_of_wf hw) c x.1
      (grantNotice now .revoked .quarantine k x.2) hk fun _ => by
        show (s.noticesOf c).queue.length < 16
        omega
    have hlen : ((if x.1 = c then [grantNotice now .revoked .quarantine k x.2] else []) : List Notice).length ≤ 1 := by
      split <;> simp
    have hsession : (((s.schedRemove (.grant n x.2)).offer x.1 (grantNotice now .revoked .quarantine k x.2)).session
        c).keepsNotices = true := by
      rw [State.session_congr (State.offer_store _ _ _) (State.offer_mon _ _ _)]
      exact hk
    rw [handOuts_revocations_cons, handOuts_revocations_queue now n k c xs _
      (State.offer_rising (s := s.schedRemove (.grant n x.2)) hw _ _) hsession (by
        rw [hqueue, List.length_append]
        show (s.noticesOf c).queue.length + _ + _ ≤ 16
        omega), hqueue, List.append_assoc]
    by_cases hx : x.1 = c
    · rw [if_pos hx, List.filter_cons_of_pos (by simpa using hx), List.map_cons]
      rfl
    · rw [if_neg hx, List.filter_cons_of_neg (by simpa using hx)]
      rfl

/-! ### LOOKUP of a record with an uncorrectable word (R16, R142) -/

theorem lookupRecord_withdraws {s : State} {n j : Nat} {k : Key} {h : List (Nat × Token)} (hf : ¬ s.inFault) (h1 : 1 ≤ j)
    (h10 : j < 10) (hecc : (s.store.slot n).ecc = tenGood.set j .double)
    (hkey : s.keyOfSlot n = some (k, { slot := n, quarantined := false, holders := h })) (hq : s.queueOf n = []) :
    lookupRecord k n s = .ok (quarantinedReply k ((s.store.slot n).val.ident.zone.setWidth 8))
      ((s.withdrawn n k).handOuts (revocations s.now n k h)) := by
  obtain ⟨-, -, hhead, -⟩ := tenGood_set_double h1 h10
  have hident : identReadable (s.store.slot n) = true := by rw [identReadable, hecc, hhead]; rfl
  rw [lookupRecord, Take.bind_of_ok (Take.run_get s), if_neg hf, Take.bind_of_ok (touch_withdraws h1 h10 hecc hkey hq),
    State.zoneOfBad, if_pos hident]
  rfl

/-- The slot of an index in which one entry alone names it. -/
theorem State.keyOfSlot_of_unique {s : State} {k : Key} {n : Nat} {e : IndexEntry} (h : s.lookup k = some e)
    (hslot : e.slot = n) (huniq : ∀ x ∈ s.main.index, x.2.slot = n → x = (k.toNat, e)) :
    s.keyOfSlot n = some (k, e) := by
  have hfind : List.find? (fun x => x.2.slot == n) s.main.index = some (k.toNat, e) := by
    cases hfound : List.find? (fun x => x.2.slot == n) s.main.index with
    | none => exact absurd (beq_iff_eq.2 hslot) (List.find?_eq_none.1 hfound _ (Tab.mem_of_find? h))
    | some x => rw [huniq x (List.mem_of_find?_eq_some hfound) (by simpa using List.find?_some hfound)]
  rw [State.keyOfSlot, hfind, Option.map_some, BitVec.ofNat_toNat, BitVec.setWidth_eq]

theorem State.withdrawn_store {s : State} (h : s.between) {n j : Nat} (k : Key) (h1 : 1 ≤ j) (h10 : j < 10)
    (hecc : (s.store.slot n).ecc = tenGood.set j .double) : (s.withdrawn n k).store.coreEq
      (s.store.setSlot n { s.store.slot n with val := { (s.store.slot n).val with
        ident := { (s.store.slot n).val.ident with inUse := true, state := .quarantined } } }) := by
  obtain ⟨-, -, -, hset⟩ := tenGood_set_double h1 h10
  have hlog := steady_between.logWords s .record n 0 ((s.store.slot n).ecc.take Config.slotWords) h
  have hcommit := State.commit_store
    (s := (s.logWords .record n 0 ((s.store.slot n).ecc.take Config.slotWords)).setQueueOf n [])
    hlog.uncut hlog.canonical { images := [.slot n false { (s.store.slot n).val with
      ident := { (s.store.slot n).val.ident with inUse := true, state := .quarantined } }] }
  have hput : (⟨{ (s.store.slot n).val with
      ident := { (s.store.slot n).val.ident with inUse := true, state := .quarantined } }, (s.store.slot n).ecc⟩ :
      Block SlotImg) = ⟨_, (s.store.slot n).ecc.set 0 .good⟩ := congrArg (Block.mk _) (by rw [hecc, hset])
  rw [hput]
  exact hcommit

theorem State.port_respond (s : State) (p : PortId) (cmd : Byte) (r : Reply) :
    ((s.respond p cmd r).port p).respBuf = responseBytes cmd s.now r := by
  rw [State.respond, State.port_setPort, if_pos rfl]

theorem State.isFree_markFree_false (s : State) (n : Nat) : (s.markFree n false).isFree n = false := by
  simp only [State.isFree, State.markFree, State.setFree, Bool.false_eq_true, if_false, BitVec.getLsbD_and,
    BitVec.getLsbD_not, BitVec.getLsbD_shiftLeft, Nat.lt_irrefl, Nat.sub_self]
  by_cases hn : n < 1024 <;> simp [hn]

/-- The sessions are as they were behind the commit of a quarantine. -/
theorem State.withdrawn_session {s : State} (h : s.between) {n j : Nat} (k : Key) (h1 : 1 ≤ j) (h10 : j < 10)
    (hecc : (s.store.slot n).ecc = tenGood.set j .double) (c : Nat) : (s.withdrawn n k).session c = s.session c := by
  obtain ⟨-, hfault, hlost⟩ := logWords_set_double n s.main.mon h1 h10
  rw [← hecc] at hfault hlost
  have hstore : (s.withdrawn n k).store.session c = s.store.session c :=
    (State.withdrawn_store h k h1 h10 hecc).session c
  have hentry : (s.withdrawn n k).entryLost c = s.entryLost c :=
    congrArg₂ (fun (a : Bool) (b : BitVec 24) => a && b.getLsbD c) hfault hlost
  simp only [State.session, Control.peek, sessionWord, hentry, hstore]

/-- A LOOKUP that quarantines its record. -/
theorem lookup_withdraws {s s1 : State} {f : Frame} {k : Key} {h : List (Nat × Token)} {n j : Nat}
    (htaken : s.takenTo (.lookup f) f s1) (hf : ¬ s.inFault) (hkey : k = keyAt f.args 0) (hk : ¬ reservedKey k)
    (hlookup : s1.lookup k = some { slot := n, quarantined := false, holders := h })
    (huniq : ∀ e ∈ s1.main.index, e.2.slot = n → e = (k.toNat, { slot := n, quarantined := false, holders := h }))
    (h1 : 1 ≤ j) (h10 : j < 10) (hecc : (s1.store.slot n).ecc = tenGood.set j .double) (hq : s1.queueOf n = []) :
    exec (.lookup f) s = .next (((s1.withdrawn n k).handOuts (revocations s1.now n k h)).respond f.port 0x22
      (quarantinedReply k ((s1.store.slot n).val.ident.zone.setWidth 8))) := by
  have hf1 : ¬ s1.inFault := by rw [State.inFault, State.takenTo_mon htaken]; exact hf
  have hwork := lookupRecord_withdraws (k := k) hf1 h1 h10 hecc (State.keyOfSlot_of_unique hlookup rfl huniq) hq
  refine exec_of_work htaken rfl rfl ?_
  rw [lookupWork_indexed hkey hk hlookup, if_neg Bool.false_ne_true]
  exact hwork

/-! ### ZONE READ of a map that is lost (R135, R136) -/

/-- A frame whose work a lost control word ends answers STORE_FAULT (R136). -/
theorem exec_of_halt {s s1 s2 : State} {i : Instr} {cmd : Byte} {f : Frame} {m : Marks} {work : Take Reply} {e : Halt}
    (h : s.takenTo i f s1) (hm : marksOf i = some m)
    (hexec : exec i s = .next (s.takeFrame i cmd f (judged m f work))) (hw : work s1 = .error e s2) :
    exec i s = .next (s2.respond f.port cmd (.bare .storeFault)) := by
  rw [hexec, takeFrame_taken h hm, hw]

theorem Take.bind_of_error {α β : Type} {t : Take α} {g : α → Take β} {s s1 : State} {e : Halt}
    (h : t s = .error e s1) : (t >>= g) s = .error e s1 := by
  rw [Take.run_bind, h]

theorem logWords_twoDoubles (m : Monitor) :
    (Monitor.logWords .control 16 2 0 (sevenGood.set 6 .double)
      (Monitor.logWords .control 16 1 0 (sevenGood.set 0 .double) m)).uncorrected = min (m.uncorrected + 2) 255 := by
  have h1 : (Monitor.logWords .control 16 1 0 (sevenGood.set 0 .double) m).uncorrected = min (m.uncorrected + 1) 255 := by
    simp only [List.set, Monitor.logWords, Monitor.log]
  have h2 : ∀ x : Monitor, (Monitor.logWords .control 16 2 0 (sevenGood.set 6 .double) x).uncorrected =
      min (x.uncorrected + 1) 255 := fun x => by simp only [List.set, Monitor.logWords, Monitor.log]
  rw [h2, h1]
  omega

theorem State.takenTo_store {s s1 : State} {i : Instr} {f : Frame} (h : s.takenTo i f s1) : s1.store = s.store := by
  obtain rfl | ⟨e, -, rfl⟩ := State.takenTo_cases h
  · rfl
  · rw [State.refresh, State.schedMove_store, State.setVol_store, State.accept_store]

/-- Settles O59: a LOOKUP that meets an uncorrectable word, and a ZONE READ that finds no copy of the map. -/
theorem uncorrectableWordsAreWithdrawn : Obligations.UncorrectableWordsAreWithdrawn := by
  constructor
  · rintro s s1 f k h n j _ hb htaken hf hkey hk hlookup huniq rfl h1 h10 hecc hident hq
    have hs1 := State.between_takenTo hb htaken
    obtain ⟨hindex, hquar, hfree, hnow, hsched⟩ := handOuts_revocations s1.now n k h (s1.withdrawn n k)
    obtain ⟨hsameSched, hsame⟩ := State.withdrawn_tables s1 n k
    rw [hsameSched] at hsched
    obtain ⟨-, -, -, -, -, hnotices⟩ := (Main.canonical_iff s1.main).1 hs1.tables
    obtain ⟨hcount, -, -⟩ := logWords_set_double n s1.main.mon h1 h10
    refine ⟨_, lookup_withdraws htaken hf hkey hk hlookup huniq h1 h10 hecc hq, ?_, ?_, ?_, ?_, ?_, hsched,
      fun c hc hroom => ?_, ?_⟩
    · rw [State.respond_store, State.handOuts_store]
      exact State.withdrawn_store hs1 k h1 h10 hecc
    · show Tab.find? ((s1.withdrawn n k).handOuts _).main.index k.toNat = _
      rw [hindex]
      exact Tab.find?_put_self _ _ _
    · show Tab.find? ((s1.withdrawn n k).handOuts _).main.quar n = _
      rw [hquar]
      exact Tab.find?_put_self _ _ _
    · show ((s1.withdrawn n k).handOuts _).main.free.getLsbD n = _
      rw [hfree]
      exact State.isFree_markFree_false _ n
    · show ((s1.withdrawn n k).handOuts _).main.mon.uncorrected = _
      rw [State.handOuts_mon, ← hcount, ← hecc]
      rfl
    · rw [← State.takenTo_now htaken]
      have hqueue : (s1.withdrawn n k).noticesOf c = s1.noticesOf c := by rw [State.noticesOf, hsame, State.noticesOf]
      have htold := handOuts_revocations_queue s1.now n k c h (s1.withdrawn n k) (by rw [hsame]; exact hnotices)
        (by rw [State.withdrawn_session hs1 k h1 h10 hecc]; exact hc) (by rw [hqueue]; exact hroom)
      rw [hqueue] at htold
      exact htold
    · rw [State.port_respond, hnow, ← State.takenTo_now htaken]
      rfl
  · intro s s1 f htaken h1 h2
    have hread : readControl zoneWord s1 = .error .storeFault
        (((s1.logWords .control 16 1 (sevenGood.set 0 .double)).logWords .control 16 2 (sevenGood.set 6 .double)).enterFault
          (lostBit 16)) := by
      have hnone : s1.store.zone.value = none := by
        rw [Copies.value, h1, h2]
        rfl
      simp only [readControl, Control.read, zoneWord, hnone, h1, h2]
    have hmon := State.takenTo_mon htaken
    refine ⟨_, exec_of_halt (work := zoneReadWork) htaken rfl rfl (Take.bind_of_error hread), ?_, rfl, ?_, ?_, ?_⟩
    · rw [State.respond_store, State.enterFault, State.setMon_store, State.logWords_store, State.logWords_store]
      exact State.takenTo_store htaken
    · rw [← hmon]
      rfl
    · rw [← hmon]
      exact logWords_twoDoubles s1.main.mon
    · rw [State.port_respond, ← State.takenTo_now htaken]
      rfl

end Sys2Proof.Machine
end

section
/-! PROOFS. Chapter 3: waiters that leave and waiters that are granted (R47, R51 to R58). -/

namespace Sys2Proof.Machine

/-! ### A mark cleared behind a notice (R47, R106, R112) -/

/-- A change of an entry that neither the notices nor the attention lines see. -/
def SessEntry.looksLike (a b : SessEntry) : Prop :=
  a.state = b.state ∧ a.action = b.action ∧ a.port = b.port ∧ a.attention = b.attention

theorem SessEntry.looksLike.keepsNotices {a b : SessEntry} (h : a.looksLike b) : a.keepsNotices = b.keepsNotices := by
  obtain ⟨hstate, haction, -, -⟩ := h
  rw [SessEntry.keepsNotices, SessEntry.keepsNotices, hstate, haction]

theorem State.driveLines_congr {s t : State} (hfault : t.main.mon.fault = s.main.mon.fault)
    (hnotices : t.main.notices = s.main.notices) (h : ∀ c, (t.session c).looksLike (s.session c)) :
    t.driveLines = if s.inFault then t
      else t.setAttn { a := s.lineLow .a, b := s.lineLow .b, c := s.lineLow .c } := by
  have hline : ∀ p, t.lineLow p = s.lineLow p := fun p => by
    have hone : ∀ c, t.drivesLine p c = s.drivesLine p c := fun c => by
      obtain ⟨hstate, -, hport, hattn⟩ := h c
      rw [State.drivesLine, State.drivesLine, hstate, hport, hattn, State.noticesOf, State.noticesOf, hnotices]
    rw [State.lineLow, State.lineLow, funext hone]
  rw [State.driveLines, hline, hline, hline]
  exact if_congr (by rw [State.inFault, State.inFault, hfault]) rfl rfl

/-- The commit that clears a session's waits-held mark is not seen. -/
theorem State.session_commit_mark {s : State} (hcut : s.cut = none) (hcan : s.canonical) {c : Nat} {e : SessEntry}
    (he : (sessionWord c).holds s e) (d : Nat) :
    ((s.commit { session := some (c, { e with waitsHeld := false }) }).session d).looksLike (s.session d) := by
  have hstore := (State.commit_store hcut hcan { session := some (c, { e with waitsHeld := false }) }).session d
  have hset : (s.store.putCommit { session := some (c, { e with waitsHeld := false }) }).session d =
      if c = d then Copies.two { e with waitsHeld := false } else s.store.session d :=
    Store.session_setSession hcan c d _
  rw [hset] at hstore
  rw [State.session, State.session, show (s.commit _).entryLost d = s.entryLost d from rfl]
  by_cases hl : s.entryLost d = true
  · rw [if_pos hl, if_pos hl]
    exact ⟨rfl, rfl, rfl, rfl⟩
  · rw [if_neg hl, if_neg hl, Control.peek, show (sessionWord d).get _ = _ from hstore]
    by_cases hd : c = d
    · subst hd
      rw [if_pos rfl, Control.peek_holds he]
      exact ⟨rfl, rfl, rfl, rfl⟩
    · rw [if_neg hd]
      exact ⟨rfl, rfl, rfl, rfl⟩

theorem State.driveLines_commit_mark {s : State} (hcut : s.cut = none) (hcan : s.canonical) {c : Nat} {e : SessEntry}
    (he : (sessionWord c).holds s e) : s.driveLines.commit { session := some (c, { e with waitsHeld := false }) } =
      (s.commit { session := some (c, { e with waitsHeld := false }) }).driveLines := by
  have hlines := State.driveLines_congr (s := s) (t := s.commit { session := some (c, { e with waitsHeld := false }) })
    rfl rfl (State.session_commit_mark hcut hcan he)
  rw [hlines, State.driveLines]
  split <;> rfl

/-- The commit that clears a session's waits-held mark does not meet a notice offered before it. -/
theorem State.offer_commit_mark {s : State} (h : s.between) {c : Nat} {e : SessEntry} (he : (sessionWord c).holds s e)
    (d : Nat) (n : Notice) : (s.offer d n).commit { session := some (c, { e with waitsHeld := false }) } =
      (s.commit { session := some (c, { e with waitsHeld := false }) }).offer d n := by
  rw [State.offer, State.offer, (State.session_commit_mark h.uncut h.canonical he d).keepsNotices]
  split
  · exact State.driveLines_commit_mark (s := s.setNoticesOf d ((s.noticesOf d).join n)) h.uncut h.canonical he
  · rfl

/-! ### Results that free one waiter (R9, R47) -/

/-- The results of a take in which one waiter has left: its session's mark is cleared in a commit where it was the last
waiter and the mark is set. -/
theorem deliver_frees {s : State} {outs : List Out} {c m : Nat} {e : SessEntry} (hf : freedClients outs = [c])
    (he : (sessionWord c).holds s e) (hst : e.state ≠ .settling)
    (hm : ((s.handOuts outs).vol c).waitCount = m - 1) : deliver outs s = .ok ()
      (if m ≤ 1 ∧ e.waitsHeld = true then
        (s.handOuts outs).commit { session := some (c, { e with waitsHeld := false }) } else s.handOuts outs) := by
  have hholds : (sessionWord c).holds (s.handOuts outs) e := by rw [Control.holds, State.handOuts_store]; exact he
  rw [deliver, Take.bind_of_ok (Take.run_modify _ s), hf, clearMarks, Take.bind_of_ok (Take.run_get _)]
  rw [hm]
  by_cases hone : m ≤ 1
  · rw [if_pos (show m - 1 = 0 by omega), Take.run_bind, clearMark, Take.bind_of_ok (readControl_holds hholds)]
    by_cases hheld : e.waitsHeld = true
    · rw [if_pos ⟨hheld, hst⟩, if_pos ⟨hone, hheld⟩]
      rfl
    · rw [if_neg fun h => hheld h.1, if_neg fun h => hheld h.2]
      rfl
  · rw [if_neg (show ¬ m - 1 = 0 by omega), if_neg fun h => hone h.1]
    rfl

theorem State.vol_freeWaiter {s : State} (h : Tab.wf SessVol.none s.main.sessV = true) (id c : Nat) :
    ((s.freeWaiter id c).vol c).waitCount = (s.vol c).waitCount - 1 := by
  have hvol : (s.freeWaiter id c).vol c = { s.vol c with waitCount := (s.vol c).waitCount - 1 } :=
    State.vol_setVol_self (s := s.setPool (Tab.del s.main.pool id)) h c _
  rw [hvol]

theorem State.requeue_eq {s : State} (h : s.between) (b : Bench) :
    s.requeue b = s.setQueueOf b.slot (b.queue.map Prod.fst) := by
  unfold State.requeue
  split
  next hsame =>
    rw [hsame]
    show s = s.setQueues (Tab.set [] s.main.queues b.slot (Tab.get [] s.main.queues b.slot))
    rw [Tab.set_get (State.between_queues h)]
    rfl
  next => rfl

/-- The close of a record in hand that only a waiter has left: its queue, and then its results. -/
theorem closeBench_waiterLeft {s : State} {b : Bench} {c m : Nat} {e : SessEntry} (h : s.between) (hd : b.dirty = false)
    (hr : b.toRetire = false) (hi : b.issued = 0) (hf : freedClients b.outs = [c]) (he : (sessionWord c).holds s e)
    (hst : e.state ≠ .settling) {x : State} (hx : x = (s.setQueueOf b.slot (b.queue.map Prod.fst)).handOuts b.outs)
    (hm : (x.vol c).waitCount = m - 1) : closeBench b s = .ok () (if m ≤ 1 ∧ e.waitsHeld = true then
      x.commit { session := some (c, { e with waitsHeld := false }) } else x) := by
  have hclose : s.closeBenches [b] = s.setQueueOf b.slot (b.queue.map Prod.fst) := by
    rw [← State.requeue_eq h]
    simp [State.closeBenches, State.commitBenches, Bench.owed, hd, hr, State.settleIn]
  have htake : Machine.closeBenches [b] s = .ok () (s.setQueueOf b.slot (b.queue.map Prod.fst)) := by
    rw [← hclose, Machine.closeBenches]
    simp only [List.any_cons, List.any_nil, Bool.or_false, hi, Nat.lt_irrefl, decide_false]
    rfl
  subst hx
  rw [closeBench, Take.bind_of_ok htake]
  exact deliver_frees hf he hst hm

/-- A waiter out of its queue, the pool and the schedule (R45, R58). -/
def State.waiterGone (s : State) (n : Nat) (q : List Nat) (id c : Nat) : State :=
  ((s.setQueueOf n q).freeWaiter id c).schedRemove (.waiter id)

@[simp] theorem State.waiterGone_store (s : State) (n : Nat) (q : List Nat) (id c : Nat) :
    (s.waiterGone n q id c).store = s.store := by
  rw [State.waiterGone, State.schedRemove_store, State.freeWaiter_store, State.setQueueOf_store]

theorem State.waiterGone_commit (s : State) (n : Nat) (q : List Nat) (id c : Nat) (cm : Commit) :
    (s.waiterGone n q id c).commit cm = (s.commit cm).waiterGone n q id c := by
  rw [State.waiterGone, State.schedRemove, State.freeWaiter, State.commit_setSched, State.commit_setVol,
    State.commit_setPool, State.commit_setQueueOf]
  rfl

theorem State.waiterGone_count {s : State} (h : s.between) (n : Nat) (q : List Nat) (id c : Nat) :
    ((s.waiterGone n q id c).vol c).waitCount = (s.vol c).waitCount - 1 :=
  State.vol_freeWaiter (s := s.setQueueOf n q) (show Tab.wf _ s.main.sessV = true from State.between_sessV h) id c

theorem State.between_waiterGone {s : State} (h : s.between) (n : Nat) (q : List Nat) (id c : Nat) :
    (s.waiterGone n q id c).between :=
  steady_between.remove _ _ (steady_between.freeWaiter _ _ _ (steady_between.setQueueOf _ _ _ h))

theorem State.vol_offer (s : State) (d : Nat) (n : Notice) (c : Nat) : (s.offer d n).vol c = s.vol c := by
  rcases State.offer_cases s d n with h | ⟨l, h⟩ <;> rw [h]
  rfl

/-! ### CANCEL WAIT (R57, R58) -/

theorem cancelWait_of_stopped {now : Tick} {b : Bench} {id client : Nat}
    (hstop : (b.removeWaiter id client).handoff now = b.removeWaiter id client) :
    b.cancelWait now id client = b.removeWaiter id client := by
  rw [Bench.cancelWait, hstop, ite_self]

/-- A record at rest without one of its waiters hands nothing over where its new head is not admissible. -/
theorem removeWaiter_stopped {s : State} {k : Key} {n id client : Nat} (h : s.atRest k n)
    (hno : (s.recordOf n).noHandoff ((s.waitersOf n).filter fun p => p.1 != id)) :
    ((s.bench n none).removeWaiter id client).handoff s.now = (s.bench n none).removeWaiter id client :=
  handoff_of_stopped fun p hp =>
    ⟨State.atRest_noWaiterDue h p (List.mem_of_mem_filter (List.mem_of_mem_head? hp)), hno p hp⟩

theorem filter_map_fst (q : List (Nat × Waiter)) (id : Nat) :
    (q.filter fun p => p.1 != id).map Prod.fst = (q.map Prod.fst).filter fun j => j != id := by
  rw [List.filter_map]
  rfl

theorem toRetire_of_used {b : Bench} (h : b.body.state ≠ .vacant) : b.toRetire = false := by
  rw [Bench.toRetire, beq_eq_false_iff_ne.2 h, Bool.and_false, Bool.false_and]

theorem cancelOn_closes {s s2 : State} {k : Key} {n id client : Nat} {w : Waiter} (h : s.atRest k n)
    (hw : (id, w) ∈ s.waitersOf n) (hc : w.client = client)
    (hno : (s.recordOf n).noHandoff ((s.waitersOf n).filter fun p => p.1 != id))
    (hclose : closeBench ((s.bench n none).removeWaiter id client) s = .ok () s2) :
    cancelOn id client n s = .ok (.bare .ok) s2 := by
  have hfound : ((s.bench n none).queue.find? fun p => p.1 == id && p.2.client == client).isSome = true :=
    List.find?_isSome.2 ⟨(id, w), hw, by simp [hc]⟩
  obtain ⟨p, hp⟩ := Option.isSome_iff_exists.1 hfound
  rw [cancelOn, Take.bind_of_ok (touch_atRest h)]
  dsimp only
  rw [hp]
  dsimp only
  rw [Take.bind_of_ok (Take.run_get s), cancelWait_of_stopped (removeWaiter_stopped h hno), Take.bind_of_ok hclose,
    Take.run_pure]

theorem cancelWaitWork_atRest {s : State} {f : Frame} {k : Key} {n id : Nat} (hkey : k = keyAt f.args 1)
    (hk : ¬ reservedKey k) (hid : id = (byteAt f.args 0).toNat) (hlt : id < 128) (h : s.atRest k n) :
    cancelWaitWork f s = cancelOn id f.client.toNat n s := by
  subst hkey hid
  obtain ⟨holders, hindexed⟩ := h.indexed
  have hrange : ¬ Config.waiters ≤ (byteAt f.args 0).toNat := Nat.not_le.2 hlt
  rw [cancelWaitWork, Take.bind_of_ok (Take.run_get s), if_neg hk, if_neg hrange, hindexed]
  dsimp only
  rw [if_neg Bool.false_ne_true]

theorem cancelWait_leaves {s s1 : State} {f : Frame} {k : Key} {n c id : Nat} {r : Rec} {w : Waiter} {e : SessEntry}
    {F : State → State} (hbetween : s.between) (htaken : s.takenTo (.cancelWait f) f s1) (hkey : k = keyAt f.args 1)
    (hk : ¬ reservedKey k) (hid : id = (byteAt f.args 0).toNat) (hlt : id < 128) (hc : c = f.client.toNat)
    (hrest : s1.atRest k n) (hr : r = s1.recordOf n) (hused : r.state ≠ .vacant) (hw : (id, w) ∈ s1.waitersOf n)
    (hwc : w.client = c) (hno : r.noHandoff ((s1.waitersOf n).filter fun p => p.1 != id))
    (he : (sessionWord c).holds s1 e) (hst : e.state = .opened)
    (hF : F = fun x => (((x.setQueueOf n ((s1.queueOf n).filter fun j => j != id)).freeWaiter id c).schedRemove
      (.waiter id)).respond f.port 0x38 (.bare .ok)) :
    ((s1.vol c).waitCount ≤ 1 ∧ e.waitsHeld = true → ∃ t, exec (.cancelWait f) s = .next t ∧
      s1.becomes (s1.store.putCommit { session := some (c, { e with waitsHeld := false }) }) F t) ∧
    (¬ ((s1.vol c).waitCount ≤ 1 ∧ e.waitsHeld = true) → exec (.cancelWait f) s = .next (F s1)) := by
  subst hr hF
  have hs1 := State.between_takenTo hbetween htaken
  have hqueue : ((s1.bench n none).removeWaiter id c).queue.map Prod.fst = (s1.queueOf n).filter fun j => j != id := by
    rw [← hrest.queued]
    exact filter_map_fst _ id
  have hclose := closeBench_waiterLeft (b := (s1.bench n none).removeWaiter id c) hs1 rfl (toRetire_of_used hused) rfl rfl
    he (by rw [hst]; exact SessState.noConfusion) (x := s1.waiterGone n ((s1.queueOf n).filter fun j => j != id) id c)
    (by rw [hqueue]; rfl) (State.waiterGone_count hs1 _ _ _ _)
  have hexec := fun t hclose => exec_of_work htaken rfl rfl ((cancelWaitWork_atRest hkey hk hid hlt hrest).trans
    (cancelOn_closes (s2 := t) hrest hw (hwc.trans hc) hno (hc ▸ hclose)))
  refine ⟨fun hlast => ?_, fun hnot => ?_⟩
  · rw [if_pos hlast, State.waiterGone_commit] at hclose
    exact ⟨_, hexec _ hclose, State.becomes_commit_then hs1 _
      (F := fun x => (x.waiterGone n ((s1.queueOf n).filter fun j => j != id) id c).respond f.port 0x38 (.bare .ok))
      fun _ => by simp⟩
  · rw [if_neg hnot] at hclose
    exact hexec _ hclose

/-! ### The deadline event of a waiter (R54, R55) -/

theorem takeWaitDeadline_of_event {s : State} {id : Nat} {d : Tick} {due : Bool}
    (h : s.nextDirectoryEvent = some { kind := .waitDeadline, ref := .waiter id, deadline := d, due := due }) :
    takeWaitDeadline id d s = (s.schedRemove (.waiter id)).run (timeoutRecord id d) := by
  rw [takeWaitDeadline, h]
  dsimp only
  rw [if_pos ⟨rfl, rfl, rfl⟩]

theorem timeoutRecord_other {s : State} {id : Nat} {d : Tick}
    (h : s.waiter id = none ∨ ∃ w, s.waiter id = some w ∧ w.deadline ≠ d) : timeoutRecord id d s = .ok () s := by
  rw [timeoutRecord, Take.bind_of_ok (Take.run_get s)]
  rcases h with h | ⟨w, h, hne⟩
  · rw [h]
    rfl
  · rw [h]
    exact congrFun (if_neg hne) s

/-- The queue without the one waiter that is due. -/
theorem filter_notDue {now : Tick} {q : List (Nat × Waiter)} {id : Nat} {w : Waiter}
    (hdue : q.filter (fun p => p.2.due now) = [(id, w)]) (hone : q.countP (fun p => p.1 == id) = 1) :
    (q.filter fun p => !p.2.due now) = q.filter fun p => p.1 != id := by
  have hmem : (id, w) ∈ q ∧ w.due now = true := List.mem_filter.1 (hdue ▸ List.mem_singleton_self (id, w))
  have hid : q.filter (fun p => p.1 == id) = [(id, w)] := by
    obtain ⟨x, hx⟩ := List.length_eq_one_iff.1 (List.countP_eq_length_filter.symm.trans hone)
    have hin : (id, w) ∈ q.filter fun p => p.1 == id := List.mem_filter.2 ⟨hmem.1, beq_self_eq_true id⟩
    rw [hx] at hin ⊢
    rw [List.mem_singleton.1 hin]
  refine List.filter_congr fun p hp => ?_
  rw [Bool.eq_iff_iff, Bool.not_eq_true', bne_iff_ne]
  refine ⟨fun hnot heq => ?_, fun hne => Bool.eq_false_iff.2 fun hd => hne ?_⟩
  · have hpw : p ∈ [(id, w)] := hid ▸ List.mem_filter.2 ⟨hp, beq_iff_eq.2 heq⟩
    rw [List.mem_singleton.1 hpw, hmem.2] at hnot
    cases hnot
  · have hpw : p ∈ [(id, w)] := hdue ▸ List.mem_filter.2 ⟨hp, hd⟩
    rw [List.mem_singleton.1 hpw]

/-- The record in hand from which lazy expiry has timed out one waiter. -/
def Bench.timedOut (now : Tick) (id : Nat) (w : Waiter) (b : Bench) : Bench :=
  { b with queue := b.queue.filter fun p => p.1 != id, outs := b.outs ++ timeoutOuts now b.body.key id w }

/-- Lazy expiry of a record with one waiter due, no grant due and no head to grant behind it. -/
theorem lazyExpiry_oneWaiterDue {now : Tick} {b : Bench} {id : Nat} {w : Waiter}
    (hgrants : b.body.grants.filter (Grant.due now) = [])
    (hdue : b.queue.filter (fun p => p.2.due now) = [(id, w)]) (hone : b.queue.countP (fun p => p.1 == id) = 1)
    (hno : b.body.noHandoff (b.queue.filter fun p => p.1 != id)) : b.lazyExpiry now = b.timedOut now id w := by
  have hqueue := filter_notDue hdue hone
  have htimed : (b.expireGrants now).timeoutWaiters now = b.timedOut now id w := by
    rw [Bench.expireGrants_none hgrants, Bench.timeoutWaiters, hqueue, hdue, Bench.timedOut]
    simp only [List.flatMap_cons, List.flatMap_nil, List.append_nil]
  have hstop : (b.timedOut now id w).handoff now = b.timedOut now id w := by
    refine handoff_of_stopped fun p hp => ⟨?_, hno p hp⟩
    have hmem : p ∈ b.queue.filter fun p => !p.2.due now := hqueue ▸ List.mem_of_mem_head? hp
    simpa using (List.mem_filter.1 hmem).2
  rw [Bench.lazyExpiry, htimed, hstop, ite_self]

theorem timeoutRecord_timesOut {s s2 : State} {id : Nat} {w : Waiter} (hw : s.waiter id = some w)
    (hgood : (s.store.slot w.slot).ecc = tenGood) (hused : (s.recordOf w.slot).state ≠ .vacant)
    (hlazy : (s.bench w.slot none).lazyExpiry s.now = (s.bench w.slot none).timedOut s.now id w)
    (hclose : closeBench ((s.bench w.slot none).timedOut s.now id w) s = .ok () s2) :
    timeoutRecord id w.deadline s = .ok () s2 := by
  have hkept : ((s.bench w.slot none).lazyExpiry s.now).toRetire = false := by
    rw [hlazy]
    exact toRetire_of_used hused
  have htouch : touch w.slot none s = .ok (.held ((s.bench w.slot none).timedOut s.now id w)) s := by
    have hheld : touchHeld w.slot none s = .ok (.held ((s.bench w.slot none).timedOut s.now id w), []) s := by
      rw [touchHeld, Take.bind_of_ok (openHeld_good hgood none), ← hlazy]
      exact freshenHeld_kept hkept
    rw [touch, Take.bind_of_ok hheld]
    rfl
  rw [timeoutRecord, Take.bind_of_ok (Take.run_get s), hw]
  dsimp only
  rw [if_pos rfl, Take.bind_of_ok htouch]
  exact hclose

/-- Settles O34: the waiter's own cancellation, and the event that times it out. -/
theorem cancelledAndTimedOutWaitersLeave : Obligations.CancelledAndTimedOutWaitersLeave := by
  refine ⟨fun s s1 f k n c id r w e F hb ht hkey hk hid hlt hc hrest hr hused hw hwc hno he hst hF =>
    cancelWait_leaves hb ht hkey hk hid hlt hc hrest hr hused hw hwc hno he hst hF, ?_⟩
  rintro s _ id d due hbetween hnext rfl
  have hb0 : (s.schedRemove (.waiter id)).between := steady_between.remove _ _ hbetween
  have hrun : ∀ t, timeoutRecord id d (s.schedRemove (.waiter id)) = .ok () t →
      exec (.waitDeadlineEvent id d) s = .next t := fun t ht => by
    show Host.Outcome.next (takeWaitDeadline id d s) = _
    rw [takeWaitDeadline_of_event hnext, State.run, ht]
  refine ⟨fun h => hrun _ (timeoutRecord_other h), ?_⟩
  rintro w _ e _ hw rfl hgood hqueued rfl hused hgrants hdue hno hone he hst rfl
  have hlazy := lazyExpiry_oneWaiterDue (b := (s.schedRemove (.waiter id)).bench w.slot none) (now := s.now) hgrants hdue
    hone hno
  have hqueue : (((s.schedRemove (.waiter id)).bench w.slot none).timedOut s.now id w).queue.map Prod.fst =
      (s.queueOf w.slot).filter fun j => j != id := by
    rw [← hqueued]
    exact filter_map_fst _ id
  have hgone := State.between_waiterGone hb0 w.slot ((s.queueOf w.slot).filter fun j => j != id) id w.client
  have hclose := closeBench_waiterLeft (b := ((s.schedRemove (.waiter id)).bench w.slot none).timedOut s.now id w) hb0 rfl
    (toRetire_of_used hused) rfl rfl he (by rw [hst]; exact SessState.noConfusion)
    (x := ((s.schedRemove (.waiter id)).waiterGone w.slot ((s.queueOf w.slot).filter fun j => j != id) id w.client).offer
      w.client (waiterNotice s.now .waitExpired .none (s.recordOf w.slot).key id)) (by rw [hqueue]; rfl)
    (m := (s.vol w.client).waitCount) (by rw [State.vol_offer]; exact State.waiterGone_count hb0 _ _ _ _)
  have hexec := fun t hc => hrun t (timeoutRecord_timesOut hw hgood hused hlazy hc)
  have hgoneHolds : (sessionWord w.client).holds ((s.schedRemove (.waiter id)).waiterGone w.slot
      ((s.queueOf w.slot).filter fun j => j != id) id w.client) e := by
    rw [Control.holds, State.waiterGone_store]
    exact he
  refine ⟨fun hlast => ?_, fun hnot => ?_⟩
  · rw [if_pos hlast, State.offer_commit_mark hgone hgoneHolds, State.waiterGone_commit] at hclose
    exact ⟨_, hexec _ hclose, State.becomes_commit_then hb0 _
      (F := fun x => (x.waiterGone w.slot ((s.queueOf w.slot).filter fun j => j != id) id w.client).offer w.client
        (waiterNotice s.now .waitExpired .none (s.recordOf w.slot).key id)) fun _ => by simp⟩
  · rw [if_neg hnot] at hclose
    exact hexec _ hclose

/-! ### RELEASE that hands the record over (R37, R51 to R53) -/

/-- Handoff to an EXCLUSIVE head of a VACANT record (R51, R52). -/
theorem handoff_exclusive {now : Tick} {b : Bench} {id : Nat} {w : Waiter} {q : List (Nat × Waiter)}
    (hq : b.queue = (id, w) :: q) (hdue : w.due now = false) (hmode : w.mode = .exclusive)
    (hvacant : b.body.state = .vacant) : b.handoff now = { b.grantWaiter now id w with queue := q } := by
  have hadmits : b.body.admits w.client w.mode = true := by
    rw [hmode, Rec.admits, hvacant]
    rfl
  rw [Bench.handoff, hq, handoffOver, if_neg (Bool.eq_false_iff.1 hdue), if_pos hadmits, hmode]

/-- The volatile effects of a release whose record an EXCLUSIVE waiter takes, but for its notice (R9, R37, R52). -/
def State.handedOver (s : State) (n : Nat) (q : List Nat) (r : Rec) (tok : Token) (id c : Nat) (new : Token) (d : Tick) :
    State :=
  (((((s.setQueueOf n q).recordKept n r).schedRemove (.grant n tok)).freeWaiter id c).schedRemove
    (.waiter id)).schedInsert .grantExpiry (.grant n new) d

@[simp] theorem State.handedOver_store (s : State) (n : Nat) (q : List Nat) (r : Rec) (tok : Token) (id c : Nat)
    (new : Token) (d : Tick) : (s.handedOver n q r tok id c new d).store = s.store := by
  rw [State.handedOver, State.schedInsert_store, State.schedRemove_store, State.freeWaiter_store,
    State.schedRemove_store, State.recordKept_store, State.setQueueOf_store]

theorem State.handedOver_commit (s : State) (n : Nat) (q : List Nat) (r : Rec) (tok : Token) (id c : Nat) (new : Token)
    (d : Tick) (cm : Commit) :
    (s.handedOver n q r tok id c new d).commit cm = (s.commit cm).handedOver n q r tok id c new d := by
  rw [State.handedOver, State.schedInsert, State.commit_setSched, State.schedRemove, State.commit_setSched,
    State.freeWaiter, State.commit_setVol, State.commit_setPool, State.schedRemove, State.commit_setSched,
    State.commit_recordKept, State.commit_setQueueOf]
  rfl

theorem State.between_recordKept {s : State} (h : s.between) (n : Nat) (r : Rec) : (s.recordKept n r).between :=
  steady_between.told _ _ (steady_between.markFree _ _ _ (steady_between.indexRecord _ _ _ h))

theorem State.between_handedOver {s : State} (h : s.between) (n : Nat) (q : List Nat) (r : Rec) (tok : Token) (id c : Nat)
    (new : Token) (d : Tick) : (s.handedOver n q r tok id c new d).between :=
  steady_between.insert _ _ _ _ (steady_between.remove _ _ (steady_between.freeWaiter _ _ _ (steady_between.remove _ _
    (State.between_recordKept (steady_between.setQueueOf _ _ _ h) n r))))

theorem State.recordKept_sessV (s : State) (n : Nat) (r : Rec) : (s.recordKept n r).main.sessV = s.main.sessV := rfl

theorem State.handedOver_count {s : State} (h : s.between) (n : Nat) (q : List Nat) (r : Rec) (tok : Token) (id c : Nat)
    (new : Token) (d : Tick) : ((s.handedOver n q r tok id c new d).vol c).waitCount = (s.vol c).waitCount - 1 := by
  have hsessV : (((s.setQueueOf n q).recordKept n r).schedRemove (.grant n tok)).main.sessV = s.main.sessV := by
    rw [State.schedRemove, State.setSched_sessV, State.recordKept_sessV, State.setQueueOf, State.setQueues_sessV]
  have hcount := State.vol_freeWaiter (s := ((s.setQueueOf n q).recordKept n r).schedRemove (.grant n tok))
    (by rw [hsessV]; exact State.between_sessV h) id c
  rw [show State.vol _ c = s.vol c from congrArg (Tab.get SessVol.none · c) hsessV] at hcount
  exact hcount

/-- A session entry is as it was behind a commit that does not carry it. -/
theorem sessionWord_holds_commit {s : State} {c : Nat} {e : SessEntry} (h : s.between) (he : (sessionWord c).holds s e)
    (is : List Image) (tok : Option Token) : (sessionWord c).holds (s.commit { images := is, token := tok }) e := by
  have hkeeps : ∀ (l : List Image) (st : Store), (l.foldl Store.putImage st).session c = st.session c := by
    intro l
    induction l with
    | nil => exact fun _ => rfl
    | cons i l ih =>
      intro st
      rw [List.foldl_cons, ih]
      cases i with
      | slot n whole img => cases whole <;> rfl
      | zone m => rfl
  have hput : (s.store.putCommit { images := is, token := tok }).session c = s.store.session c := by
    cases tok with
    | none => exact hkeeps is _
    | some t => exact hkeeps is _
  show (s.commit _).store.session c = _
  rw [(State.commit_store h.uncut h.canonical { images := is, token := tok }).session c, hput]
  exact he

theorem closeBenches_issued {s : State} {tok : Token} (ht : tokenWord.holds s tok) (bs : List Bench) :
    Machine.closeBenches bs s = .ok () (s.closeBenches bs) := by
  rw [Machine.closeBenches]
  split
  · rw [Take.bind_of_ok (a := PUnit.unit) (s1 := s) (by rw [Take.run_discard, readControl_holds ht])]
    rfl
  · rfl

/-- The record of a release handed over to the EXCLUSIVE waiter at its head, in hand. -/
def State.handedBench (s : State) (n : Nat) (g : Grant) (id : Nat) (w : Waiter) (q : List (Nat × Waiter)) : Bench :=
  { ((s.bench n none).removeGrant g).grantWaiter s.now id w with queue := q }

theorem handoff_handedBench {s : State} {k : Key} {n id : Nat} {g : Grant} {w : Waiter} {q : List (Nat × Waiter)}
    (h : s.atRest k n) (hgrants : (s.recordOf n).grants = [g]) (hq : s.waitersOf n = (id, w) :: q)
    (hmode : w.mode = .exclusive) : ((s.bench n none).removeGrant g).handoff s.now = s.handedBench n g id w q := by
  refine handoff_exclusive hq (State.atRest_noWaiterDue h (id, w) (hq ▸ List.mem_cons_self)) hmode ?_
  show summaryOf ((s.recordOf n).grants.filter fun x => x.token != g.token) = _
  rw [hgrants, List.filter_cons_of_neg (by simp)]
  rfl

/-- The close of a release that hands the record over (R53). -/
theorem closeBench_handedOver {s : State} {n id : Nat} {g g' : Grant} {new : Token} {w : Waiter} {r' : Rec}
    {q : List (Nat × Waiter)} {e : SessEntry} (hs : s.between) (hgrants : (s.recordOf n).grants = [g])
    (hlive : g.gstate = .live) (hmode : w.mode = .exclusive) (hnew : tokenWord.holds s new)
    (he : (sessionWord w.client).holds s e) (hst : e.state = .opened)
    (hg' : g' = Grant.fresh s.now w.client .exclusive w.term new)
    (hr' : r' = { s.recordOf n with grants := [g'], state := .heldExclusive, gen := (s.recordOf n).gen + 1 })
    {x : State} (hx : x = (((s.commit { images := [.slot n true r'.image], token := some (tokenNext new) }).handedOver n
      (q.map Prod.fst) r' g.token id w.client new g'.expiry).offer w.client
        (grantNotice s.now .granted .none (s.recordOf n).key new))) :
    closeBench (s.handedBench n g id w q) s = .ok () (if (s.vol w.client).waitCount ≤ 1 ∧ e.waitsHeld = true then
      x.commit { session := some (w.client, { e with waitsHeld := false }) } else x) := by
  have hnext := State.nextToken_holds hnew
  have hbody : (s.handedBench n g id w q).body = { r' with gen := (s.recordOf n).gen } := by
    rw [hr', hg', State.handedBench]
    simp only [Bench.grantWaiter, Bench.removeGrant, Bench.issue, Bench.emit, Bench.setGrants, Rec.withGrants,
      State.bench_body, State.bench_token, hgrants, hmode, hnext, List.filter_cons_of_neg (p := fun x : Grant =>
        x.token != g.token) (a := g) (by simp), List.filter_nil, List.nil_append]
    rfl
  have hclose : s.closeBenches [s.handedBench n g id w q] = ((s.commit
      { images := [.slot n true r'.image], token := some (tokenNext new) }).setQueueOf n (q.map Prod.fst)).recordKept n
      r' := by
    have hretire : (s.handedBench n g id w q).toRetire = false := toRetire_of_used (by rw [hbody, hr']; nofun)
    have himage : (s.handedBench n g id w q).next = r' := by
      rw [Bench.next, hbody, hr']
      rfl
    have htoken : (s.handedBench n g id w q).token = tokenNext new := by rw [← hnext]; rfl
    rw [closeBenches_dirty rfl hretire, himage, htoken, hbody, State.requeue_eq (State.between_commit hs _)]
    rfl
  have houts : (s.handedBench n g id w q).outs = [.remove (.grant n g.token), .freeWaiter id w.client, .remove (.waiter id),
      .insert .grantExpiry (.grant n new) g'.expiry,
      .notice w.client (grantNotice s.now .granted .none (s.recordOf n).key new)] := by
    rw [hg', ← hnext]
    simp only [State.handedBench, Bench.grantWaiter, Bench.removeGrant, Bench.issue, Bench.emit, Bench.setGrants,
      hlive, if_true]
    rfl
  rw [closeBench, Take.bind_of_ok (closeBenches_issued hnew _), hclose, houts]
  have hx' : (((s.commit { images := [.slot n true r'.image], token := some (tokenNext new) }).setQueueOf n
      (q.map Prod.fst)).recordKept n r').handOuts [.remove (.grant n g.token), .freeWaiter id w.client, .remove (.waiter id),
      .insert .grantExpiry (.grant n new) g'.expiry,
      .notice w.client (grantNotice s.now .granted .none (s.recordOf n).key new)] = x := hx.symm
  have hdeliver := deliver_frees (s := ((s.commit { images := [.slot n true r'.image], token := some (tokenNext new) }
    ).setQueueOf n (q.map Prod.fst)).recordKept n r') (m := (s.vol w.client).waitCount) rfl
    (sessionWord_holds_commit hs he _ _) (by rw [hst]; exact SessState.noConfusion) (by
      rw [hx', hx, State.vol_offer]
      exact State.handedOver_count (State.between_commit hs _) _ _ _ _ _ _ _ _)
  rw [hx'] at hdeliver
  exact hdeliver

theorem releaseGrant_handsOff {s s2 : State} {b b' : Bench} {g : Grant} (hhand : (b.removeGrant g).handoff s.now = b')
    (hclose : closeBench b' s = .ok () s2) : releaseGrant b g s = .ok (.bare .ok) s2 := by
  rw [releaseGrant, Take.bind_of_ok (Take.run_get s), hhand, Take.bind_of_ok hclose, Take.run_pure]

/-- Of a record's image, the token counter and a session entry in two commits, the session entry the later. -/
theorem State.becomes_handedOver {s : State} (h : s.between) (is : List Image) (tok : Token) (c : Nat) (e : SessEntry)
    {F : State → State} (hF : ∀ x, (F x).store = x.store) :
    s.becomes (s.store.putCommit { images := is, token := some tok, session := some (c, e) }) F
      (F ((s.commit { images := is, token := some tok }).commit { session := some (c, e) })) :=
  State.becomes_then (State.becomes_commit (State.commit_becomes h { images := is, token := some tok })
    (State.between_commit h _) { session := some (c, e) }) hF

/-- Settles O33: the removal, the handoff to the head, and the commits of the record and of the head's session. -/
theorem releaseHandsOff : Obligations.ReleaseHandsOff := by
  rintro s s1 f k n _ _ tok new g g' id w q e hbetween htaken hkey hk htok ht hrest rfl hlive hgrants hq hmode hnew he hst
    hg' rfl
  have hs1 := State.between_takenTo hbetween htaken
  obtain ⟨-, rfl, hgstate, -⟩ := mem_of_liveGrant hlive
  rw [← State.takenTo_now htaken] at hg' ⊢
  have hclose := closeBench_handedOver (q := q) (id := id) hs1 hgrants hgstate hmode hnew he hst hg' rfl rfl
  have hexec := fun t hclose => exec_of_work htaken rfl rfl ((onGrant_atRest hkey hk htok ht hrest hlive).trans
    (releaseGrant_handsOff (s2 := t) (handoff_handedBench hrest hgrants hq hmode) hclose))
  by_cases hlast : (s1.vol w.client).waitCount ≤ 1 ∧ e.waitsHeld = true
  · have hcommit := State.between_commit hs1 { images := [.slot n true { s1.recordOf n with
      grants := [g'], state := .heldExclusive, gen := (s1.recordOf n).gen + 1 }.image], token := some (tokenNext new) }
    rw [if_pos hlast, State.offer_commit_mark (State.between_handedOver hcommit _ _ _ _ _ _ _ _) (by
      rw [Control.holds, State.handedOver_store]
      exact sessionWord_holds_commit hs1 he _ _), State.handedOver_commit] at hclose
    simp only [if_pos hlast]
    exact ⟨_, hexec _ hclose, State.becomes_handedOver hs1 _ _ _ _
      (F := fun x => ((x.handedOver _ _ _ _ _ _ _ _).offer _ _).respond _ _ _) fun _ => by simp⟩
  · rw [if_neg hlast] at hclose
    simp only [if_neg hlast]
    exact ⟨_, hexec _ hclose, State.becomes_commit_then hs1 _
      (F := fun x => ((x.handedOver _ _ _ _ _ _ _ _).offer _ _).respond _ _ _) fun _ => by simp⟩

end Sys2Proof.Machine
end

section
/-! PROOFS. Chapters 6 and 7: ATTENTION and the lines, ZONE SET and ZONE FREEZE, and WIPE (R111 to R130). -/

namespace Sys2Proof.Machine

/-! ### ATTENTION and the lines (R111 to R114) -/

theorem AttnLines.get_lines (s : State) (p : PortId) :
    AttnLines.get { a := s.lineLow .a, b := s.lineLow .b, c := s.lineLow .c } p = s.lineLow p := by
  cases p <;> rfl

/-- The conditions of R112 on a session. -/
theorem State.drivesLine_iff {s : State} {p : PortId} {c : Nat} {e : SessEntry} (he : s.session c = e) :
    s.drivesLine p c = true ↔ e.state ≠ .free ∧ e.port = some p ∧ e.attention = true ∧
      ((s.noticesOf c).queue ≠ [] ∨ (s.noticesOf c).lost ≠ 0) := by
  simp only [State.drivesLine, he, Bool.and_eq_true, Bool.or_eq_true, bne_iff_ne, beq_iff_eq, Bool.not_eq_true',
    List.isEmpty_eq_false_iff, and_assoc]

theorem attentionWork_same {s : State} {f : Frame} {e : SessEntry} {on : Bool}
    (hon : onOffOf (byteAt f.args 0) = some on) (he : (sessionWord f.client.toNat).holds s e) (h : e.attention = on) :
    attentionWork f s = .ok (.bare .ok) s.driveLines := by
  rw [attentionWork, hon]
  dsimp only
  rw [Take.bind_of_ok (readControl_holds he), if_pos h]
  rfl

theorem attentionWork_changed {s : State} {f : Frame} {e : SessEntry} {on : Bool}
    (hon : onOffOf (byteAt f.args 0) = some on) (he : (sessionWord f.client.toNat).holds s e) (h : e.attention ≠ on) :
    attentionWork f s = .ok (.bare .ok)
      (s.commit { session := some (f.client.toNat, { e with attention := on }) }).driveLines := by
  rw [attentionWork, hon]
  dsimp only
  rw [Take.bind_of_ok (readControl_holds he), if_neg h]
  rfl

/-- Settles O36: the lines by the conditions of R112, and ATTENTION by its argument. -/
theorem attentionSetsEnableAndLines : Obligations.AttentionSetsEnableAndLines := by
  refine ⟨fun s se hf hse => ?_, fun s hf => if_pos hf, ?_⟩
  · have hlines : s.driveLines = s.setAttn { a := s.lineLow .a, b := s.lineLow .b, c := s.lineLow .c } := if_neg hf
    refine ⟨by rw [hlines]; rfl, fun p => ?_⟩
    rw [hlines, State.setAttn_attn, AttnLines.get_lines, State.lineLow, List.any_eq_true]
    refine exists_congr fun c => ?_
    rw [List.mem_range]
    refine and_congr_right fun hc => ?_
    exact State.drivesLine_iff (State.session_holds (hse c hc) (State.entryLost_normal hf c))
  · rintro s s1 f _ e hbetween htaken rfl he
    have hs1 := State.between_takenTo hbetween htaken
    refine ⟨fun ⟨h0, h1⟩ => exec_of_work (work := attentionWork f) htaken rfl rfl ?_, fun on hon h => ?_, fun on hon h => ?_⟩
    · rw [attentionWork, onOffOf, if_neg h0, if_neg h1]
      rfl
    · exact exec_of_work htaken rfl rfl (attentionWork_same hon he h)
    · exact ⟨_, exec_of_work htaken rfl rfl (attentionWork_changed hon he h),
        State.becomes_commit_then hs1 _ fun _ => by simp⟩

/-! ### The image of the zone map (R121) -/

theorem onOffOf_eq_some (b : Byte) (on : Bool) : onOffOf b = some on ↔ (b = 0 ∨ b = 1) ∧ on = (b == 1) := by
  unfold onOffOf
  split
  next h => rw [h]; simp [eq_comm]
  next h0 =>
    split
    next h => rw [h]; simp [eq_comm]
    next h1 => exact ⟨nofun, fun h => absurd h.1 (not_or.2 ⟨h0, h1⟩)⟩

theorem boundaryAt_eq_some (args : List Byte) (i : Nat) (b : Boundary) : boundaryAt args (5 * i) = some b ↔
    (byteAt args (5 * i) = 0 ∨ byteAt args (5 * i) = 1) ∧ b = imageBoundary args i := by
  simp only [boundaryAt, Option.map_eq_some_iff, onOffOf_eq_some, imageBoundary]
  constructor
  · rintro ⟨on, ⟨hb, rfl⟩, rfl⟩
    exact ⟨hb, by simp⟩
  · rintro ⟨hb, rfl⟩
    exact ⟨_, ⟨hb, rfl⟩, by simp⟩

/-- The conditions of R121 on the attributes of a zone. -/
def zoneAttrOk (args : List Byte) (z : Nat) : Prop :=
  (∀ j, j < 3 → byteAt args (15 + 10 * z + j) = 0 ∨ byteAt args (15 + 10 * z + j) = 1) ∧
    1 ≤ (byteAt args (15 + 10 * z + 3)).toNat ∧ (byteAt args (15 + 10 * z + 3)).toNat ≤ 4 ∧
    termAt args (15 + 10 * z + 7) ≠ 0 ∧ termAt args (15 + 10 * z + 4) ≠ 0 ∧
    termAt args (15 + 10 * z + 4) ≤ termAt args (15 + 10 * z + 7)

theorem zoneAttrAt_eq_some (args : List Byte) (z : Nat) (a : ZoneAttr) : zoneAttrAt args (15 + 10 * z) = some a ↔
    zoneAttrOk args z ∧ a = imageAttr args z := by
  constructor
  · intro h
    unfold zoneAttrAt at h
    split at h
    next right auto waits hr ha hw =>
      rw [onOffOf_eq_some] at hr ha hw
      obtain ⟨hr, rfl⟩ := hr
      obtain ⟨ha, rfl⟩ := ha
      obtain ⟨hw, rfl⟩ := hw
      dsimp only at h
      split at h
      next hok =>
        obtain ⟨⟨hlow, hhigh⟩, hmax, hdef, hle⟩ := hok
        refine ⟨⟨fun j hj => ?_, hlow, hhigh, hmax, hdef, hle⟩, (Option.some.inj h).symm⟩
        interval_cases j
        · exact hr
        · exact ha
        · exact hw
      next => cases h
    next => cases h
  · rintro ⟨⟨hbits, hlow, hhigh, hmax, hdef, hle⟩, rfl⟩
    have hoption : ∀ j, j < 3 → onOffOf (byteAt args (15 + 10 * z + j)) = some (byteAt args (15 + 10 * z + j) == 1) :=
      fun j hj => (onOffOf_eq_some _ _).2 ⟨hbits j hj, rfl⟩
    have h0 := hoption 0 (by decide)
    rw [Nat.add_zero] at h0
    rw [zoneAttrAt, h0, hoption 1 (by decide), hoption 2 (by decide)]
    exact if_pos ⟨⟨hlow, hhigh⟩, hmax, hdef, hle⟩

theorem boundariesOk_iff (args : List Byte) :
    boundariesOk (imageBoundary args 0) (imageBoundary args 1) (imageBoundary args 2) = true ↔
      (∀ i, i < 3 → byteAt args (5 * i) = 1 → ¬ reservedKey (keyAt args (5 * i + 1))) ∧
      (∀ i, i < 2 → byteAt args (5 * (i + 1)) = 1 →
        byteAt args (5 * i) = 1 ∧ keyAt args (5 * i + 1) < keyAt args (5 * (i + 1) + 1)) := by
  have hon : ∀ i, (imageBoundary args i).on = true ↔ byteAt args (5 * i) = 1 := fun i => beq_iff_eq
  have hkey : ∀ i, byteAt args (5 * i) = 1 → (imageBoundary args i).key = keyAt args (5 * i + 1) := fun i h => if_pos h
  have himp : ∀ a b : Bool, (!a || b) = true ↔ (a = true → b = true) := by decide
  simp only [boundariesOk, Bool.and_eq_true, himp, hon, Bool.not_eq_true', decide_eq_false_iff_not, decide_eq_true_eq]
  constructor
  · rintro ⟨⟨⟨⟨⟨⟨hk0, hk1⟩, hk2⟩, h10⟩, h21⟩, hlt1⟩, hlt2⟩
    refine ⟨fun i hi h => ?_, fun i hi h => ?_⟩
    · rw [← hkey i h]
      interval_cases i
      · exact hk0 h
      · exact hk1 h
      · exact hk2 h
    · interval_cases i
      · exact ⟨h10 h, by rw [← hkey 0 (h10 h), ← hkey 1 h]; exact hlt1 h⟩
      · exact ⟨h21 h, by rw [← hkey 1 (h21 h), ← hkey 2 h]; exact hlt2 h⟩
  · rintro ⟨hkeys, hrising⟩
    have hk : ∀ i, i < 3 → byteAt args (5 * i) = 1 → ¬ reservedKey (imageBoundary args i).key := fun i hi h => by
      rw [hkey i h]
      exact hkeys i hi h
    have hr : ∀ i, i < 2 → byteAt args (5 * (i + 1)) = 1 →
        byteAt args (5 * i) = 1 ∧ (imageBoundary args i).key < (imageBoundary args (i + 1)).key := fun i hi h => by
      obtain ⟨hlow, hlt⟩ := hrising i hi h
      exact ⟨hlow, by rw [hkey i hlow, hkey (i + 1) h]; exact hlt⟩
    exact ⟨⟨⟨⟨⟨⟨hk 0 (by decide), hk 1 (by decide)⟩, hk 2 (by decide)⟩, fun h => (hr 0 (by decide) h).1⟩,
      fun h => (hr 1 (by decide) h).1⟩, fun h => (hr 0 (by decide) h).2⟩, fun h => (hr 1 (by decide) h).2⟩

theorem zoneImageOk_of {args : List Byte} (hb : ∀ i, i < 3 → byteAt args (5 * i) = 0 ∨ byteAt args (5 * i) = 1)
    (hz : ∀ z, z < 4 → zoneAttrOk args z)
    (hok : boundariesOk (imageBoundary args 0) (imageBoundary args 1) (imageBoundary args 2) = true) :
    ZoneImageOk args := by
  obtain ⟨hkeys, hrising⟩ := (boundariesOk_iff args).1 hok
  exact { enables := hb, options := fun z h => (hz z h).1, keys := hkeys, rising := hrising, limits := fun z h => (hz z h).2 }

/-- The zone map that an image carries, by the conditions of R121. -/
theorem zoneMapOf_eq_some (args : List Byte) (m : ZoneMap) :
    zoneMapOf args false = some m ↔ ZoneImageOk args ∧ m = imageMap args := by
  constructor
  · intro h
    unfold zoneMapOf at h
    split at h
    next b1 b2 b3 z0 z1 z2 z3 h1 h2 h3 h4 h5 h6 h7 =>
      obtain ⟨hb1, rfl⟩ := (boundaryAt_eq_some args 0 b1).1 h1
      obtain ⟨hb2, rfl⟩ := (boundaryAt_eq_some args 1 b2).1 h2
      obtain ⟨hb3, rfl⟩ := (boundaryAt_eq_some args 2 b3).1 h3
      obtain ⟨hz0, rfl⟩ := (zoneAttrAt_eq_some args 0 z0).1 h4
      obtain ⟨hz1, rfl⟩ := (zoneAttrAt_eq_some args 1 z1).1 h5
      obtain ⟨hz2, rfl⟩ := (zoneAttrAt_eq_some args 2 z2).1 h6
      obtain ⟨hz3, rfl⟩ := (zoneAttrAt_eq_some args 3 z3).1 h7
      split at h
      next hok =>
        refine ⟨zoneImageOk_of (fun i hi => ?_) (fun z hz => ?_) hok, (Option.some.inj h).symm⟩
        · interval_cases i
          · exact hb1
          · exact hb2
          · exact hb3
        · interval_cases z
          · exact hz0
          · exact hz1
          · exact hz2
          · exact hz3
      next => cases h
    next => cases h
  · rintro ⟨h, rfl⟩
    have hb : ∀ i, i < 3 → boundaryAt args (5 * i) = some (imageBoundary args i) :=
      fun i hi => (boundaryAt_eq_some args i _).2 ⟨h.enables i hi, rfl⟩
    have hz : ∀ z, z < 4 → zoneAttrAt args (15 + 10 * z) = some (imageAttr args z) :=
      fun z hz => (zoneAttrAt_eq_some args z _).2 ⟨⟨h.options z hz, h.limits z hz⟩, rfl⟩
    rw [zoneMapOf, hb 0 (by decide), hb 1 (by decide), hb 2 (by decide), hz 0 (by decide), hz 1 (by decide),
      hz 2 (by decide), hz 3 (by decide)]
    exact if_pos ((boundariesOk_iff args).2 ⟨h.keys, h.rising⟩)

/-! ### The zone of a key (R117) -/

/-- A value is at or above an enabled boundary. -/
def Boundary.reached (b : Boundary) (k : Key) : Prop := b.on = true ∧ b.key ≤ k

theorem Boundary.not_reached_iff (b : Boundary) (k : Key) : ¬ b.reached k ↔ b.on = false ∨ k < b.key := by
  rw [Boundary.reached, not_and_or, Bool.not_eq_true, BitVec.not_le]

/-- A boundary that is enabled above another one is reached only behind it. -/
theorem Boundary.reached_below {b c : Boundary} {k : Key} (h : c.on = true → b.on = true ∧ b.key < c.key)
    (hc : c.reached k) : b.reached k :=
  ⟨(h hc.1).1, BitVec.le_def.2 (Nat.le_of_lt (Nat.lt_of_lt_of_le (BitVec.lt_def.1 (h hc.1).2) (BitVec.le_def.1 hc.2)))⟩

theorem ZoneMap.classify_cases (m : ZoneMap) (k : Key) (h2 : m.b2.on = true → m.b1.on = true ∧ m.b1.key < m.b2.key)
    (h3 : m.b3.on = true → m.b2.on = true ∧ m.b2.key < m.b3.key) :
    (m.classify k = 0 ↔ m.b1.on = false ∨ k < m.b1.key) ∧
    (m.classify k = 1 ↔ m.b1.on = true ∧ m.b1.key ≤ k ∧ (m.b2.on = false ∨ k < m.b2.key)) ∧
    (m.classify k = 2 ↔ m.b2.on = true ∧ m.b2.key ≤ k ∧ (m.b3.on = false ∨ k < m.b3.key)) ∧
    (m.classify k = 3 ↔ m.b3.on = true ∧ m.b3.key ≤ k) := by
  have h32 : m.b3.reached k → m.b2.reached k := Boundary.reached_below h3
  have h21 : m.b2.reached k → m.b1.reached k := Boundary.reached_below h2
  have hbetween : ∀ b c : Boundary, (b.on = true ∧ b.key ≤ k ∧ ¬ c.reached k) ↔ b.reached k ∧ ¬ c.reached k :=
    fun b c => and_assoc.symm
  simp only [← Boundary.not_reached_iff, hbetween]
  change (_ ∧ _ ∧ _ ∧ (_ ↔ m.b3.reached k))
  by_cases r3 : m.b3.reached k
  · have hz : m.classify k = 3 := if_pos r3
    simp [hz, r3, h32 r3, h21 (h32 r3)]
  by_cases r2 : m.b2.reached k
  · have hz : m.classify k = 2 := (if_neg r3).trans (if_pos r2)
    simp [hz, r3, r2, h21 r2]
  by_cases r1 : m.b1.reached k
  · have hz : m.classify k = 1 := (if_neg r3).trans ((if_neg r2).trans (if_pos r1))
    simp [hz, r3, r2, r1]
  · have hz : m.classify k = 0 := (if_neg r3).trans ((if_neg r2).trans (if_neg r1))
    simp [hz, r3, r2, r1]

/-! ### ZONE SET and ZONE FREEZE (R121 to R124) -/

theorem zoneSetWork_image {s : State} {f : Frame} {old : ZoneMap} (h : ZoneImageOk f.args) (hold : zoneWord.holds s old) :
    zoneSetWork f s = (if old.frozen then pure (.bare .zoneFrozen)
      else if !s.zonesKept old (imageMap f.args) then pure (.bare .zoneOccupied)
      else do
        modify fun s => s.commit { images := [.zone (imageMap f.args)] }
        pure (.bare .ok) : Take Reply) s := by
  rw [zoneSetWork, (zoneMapOf_eq_some f.args _).2 ⟨h, rfl⟩]
  dsimp only
  rw [Take.bind_of_ok (readControl_holds hold), Take.bind_of_ok (Take.run_get s)]

theorem State.zonesKept_iff (s : State) (old new : ZoneMap) : s.zonesKept old new = true ↔
    ∀ e ∈ s.main.index, new.classify (BitVec.ofNat 32 e.1) = old.classify (BitVec.ofNat 32 e.1) := by
  simp only [State.zonesKept, List.all_eq_true, beq_iff_eq]

/-- The commit of a zone map to both its copies. -/
theorem State.becomes_map {s : State} (h : s.between) (m : ZoneMap) (p : PortId) (cmd : Byte) :
    s.becomes { s.store with zone := { c1 := { val := m, ecc := sevenGood }, c2 := { val := m, ecc := sevenGood } } }
      (fun x => x.respond p cmd (.bare .ok)) ((s.commit { images := [.zone m] }).respond p cmd (.bare .ok)) :=
  State.becomes_commit_then h { images := [.zone m] } fun _ => State.respond_store _ _ _ _

theorem zoneSet_checks {s s1 : State} {f : Frame} {old : ZoneMap} (hbetween : s.between)
    (htaken : s.takenTo (.zoneSet f) f s1) (hold : zoneWord.holds s1 old) :
    (¬ ZoneImageOk f.args → exec (.zoneSet f) s = .next (s1.respond f.port 0x80 (.bare .badArg))) ∧
    (∀ new, ZoneImageOk f.args → new = imageMap f.args →
      (old.frozen = true → exec (.zoneSet f) s = .next (s1.respond f.port 0x80 (.bare .zoneFrozen))) ∧
      (old.frozen = false → (∃ e ∈ s1.main.index, new.classify (BitVec.ofNat 32 e.1) ≠
          old.classify (BitVec.ofNat 32 e.1)) →
        exec (.zoneSet f) s = .next (s1.respond f.port 0x80 (.bare .zoneOccupied))) ∧
      (old.frozen = false → (∀ e ∈ s1.main.index, new.classify (BitVec.ofNat 32 e.1) =
          old.classify (BitVec.ofNat 32 e.1)) →
        ∃ t, exec (.zoneSet f) s = .next t ∧
          s1.becomes { s1.store with zone := { c1 := { val := new, ecc := sevenGood },
                                               c2 := { val := new, ecc := sevenGood } } }
            (fun x => x.respond f.port 0x80 (.bare .ok)) t)) := by
  have hexec := fun t r (hw : zoneSetWork f s1 = .ok r t) => exec_of_work htaken rfl rfl hw
  refine ⟨fun hbad => hexec _ _ ?_, ?_⟩
  · have hnone : zoneMapOf f.args false = none :=
      Option.eq_none_iff_forall_ne_some.2 fun m hm => hbad ((zoneMapOf_eq_some f.args m).1 hm).1
    rw [zoneSetWork, hnone]
    rfl
  · rintro _ hok rfl
    have hwork := zoneSetWork_image hok hold
    refine ⟨fun hfrozen => hexec _ _ ?_, fun hfree hmoved => hexec _ _ ?_, fun hfree hkept => ?_⟩
    · rw [hwork, if_pos hfrozen, Take.run_pure]
    · have hnot : s1.zonesKept old (imageMap f.args) = false := by
        obtain ⟨e, he, hne⟩ := hmoved
        exact Bool.eq_false_iff.2 fun h => hne ((State.zonesKept_iff _ _ _).1 h e he)
      rw [hwork, if_neg (Bool.eq_false_iff.1 hfree), hnot]
      rfl
    · rw [if_neg (Bool.eq_false_iff.1 hfree), (State.zonesKept_iff _ _ _).2 hkept] at hwork
      exact ⟨_, hexec _ _ hwork, State.becomes_map (State.between_takenTo hbetween htaken) _ _ _⟩

/-- Settles O37: the image's conditions, the zones that boundaries make, and the two commands on the map. -/
theorem zoneSetAndFreezeCommitTheMap : Obligations.ZoneSetAndFreezeCommitTheMap := by
  refine ⟨fun s s1 f old hbetween htaken hold => zoneSet_checks hbetween htaken hold, ZoneMap.classify_cases, ?_⟩
  intro s s1 f map hbetween htaken hmap
  have hexec := fun t r (hw : zoneFreezeWork s1 = .ok r t) => exec_of_work htaken rfl rfl hw
  have hwork : zoneFreezeWork s1 = (if map.frozen then pure (.bare .ok)
      else do
        modify fun s => s.commit { images := [.zone { map with frozen := true }] }
        pure (.bare .ok) : Take Reply) s1 := by
    rw [zoneFreezeWork, Take.bind_of_ok (readControl_holds hmap)]
  refine ⟨fun hfrozen => hexec _ _ ?_, fun hfree => ?_⟩
  · rw [hwork, if_pos hfrozen, Take.run_pure]
  · rw [if_neg (Bool.eq_false_iff.1 hfree)] at hwork
    exact ⟨_, hexec _ _ hwork, State.becomes_map (State.between_takenTo hbetween htaken) _ _ _⟩

/-! ### WIPE: what becomes FREE (R129) -/

/-- The words of a slot whose word 0 a WIPE has written FREE (R134). -/
def freedSlot (b : Block SlotImg) : Block SlotImg :=
  { val := { b.val with ident := IdWord.free }, ecc := b.ecc.set 0 .good }

theorem freedSlot_freedSlot (b : Block SlotImg) : freedSlot (freedSlot b) = freedSlot b := by
  simp only [freedSlot, List.set_set]

/-- `t` is `s` with the slots of `ps` and the session entries of `cs` made FREE, by whole commits. -/
structure State.freedTo (s t : State) (ps cs : Nat → Prop) : Prop where
  uncut     : t.cut = none
  canonical : t.canonical
  only      : t = s.setStore t.store
  slots     : ∀ n, (ps n → t.store.slot n = freedSlot (s.store.slot n)) ∧ (¬ ps n → t.store.slot n = s.store.slot n)
  sessions  : ∀ c, (cs c → t.store.session c = Copies.two SessEntry.free) ∧
    (¬ cs c → t.store.session c = s.store.session c)
  zone      : t.store.zone = s.store.zone
  token     : t.store.token = s.store.token
  nonce     : t.store.nonce = s.store.nonce

theorem State.freedTo.refl {s : State} (hcut : s.cut = none) (hcan : s.canonical) :
    s.freedTo s (fun _ => False) fun _ => False :=
  ⟨hcut, hcan, rfl, fun _ => ⟨False.elim, fun _ => rfl⟩, fun _ => ⟨False.elim, fun _ => rfl⟩, rfl, rfl, rfl⟩

theorem State.freedTo.trans {s t u : State} {ps qs cs ds : Nat → Prop} (h : s.freedTo t ps cs) (h' : t.freedTo u qs ds) :
    s.freedTo u (fun n => ps n ∨ qs n) fun c => cs c ∨ ds c where
  uncut := h'.uncut
  canonical := h'.canonical
  only := by
    have hu := h'.only
    rw [h.only] at hu
    exact hu
  slots n := by
    obtain ⟨hin, hout⟩ := h.slots n
    obtain ⟨hin', hout'⟩ := h'.slots n
    refine ⟨fun hp => ?_, fun hp => ?_⟩
    · by_cases hq : qs n
      · rw [hin' hq]
        by_cases hps : ps n
        · rw [hin hps, freedSlot_freedSlot]
        · rw [hout hps]
      · rw [hout' hq, hin (hp.resolve_right hq)]
    · rw [hout' (not_or.1 hp).2, hout (not_or.1 hp).1]
  sessions c := by
    obtain ⟨hin, hout⟩ := h.sessions c
    obtain ⟨hin', hout'⟩ := h'.sessions c
    refine ⟨fun hp => ?_, fun hp => ?_⟩
    · by_cases hd : ds c
      · exact hin' hd
      · rw [hout' hd, hin (hp.resolve_right hd)]
    · rw [hout' (not_or.1 hp).2, hout (not_or.1 hp).1]
  zone := h'.zone.trans h.zone
  token := h'.token.trans h.token
  nonce := h'.nonce.trans h.nonce

theorem State.freedTo.congr {s t : State} {ps qs cs ds : Nat → Prop} (h : s.freedTo t ps cs) (hp : ∀ n, ps n ↔ qs n)
    (hc : ∀ c, cs c ↔ ds c) : s.freedTo t qs ds := by
  obtain rfl : ps = qs := funext fun n => propext (hp n)
  obtain rfl : cs = ds := funext fun c => propext (hc c)
  exact h

/-- The images that free slots, put to their targets. -/
theorem putImage_freedImages (st0 : Store) : ∀ (ns : List Nat) (st : Store), st.canonical = true →
    (∀ m, (m ∈ ns → ((ns.map (freedImage st0)).foldl Store.putImage st).slot m = freedSlot (st.slot m)) ∧
      (m ∉ ns → ((ns.map (freedImage st0)).foldl Store.putImage st).slot m = st.slot m)) ∧
    (∀ c, ((ns.map (freedImage st0)).foldl Store.putImage st).session c = st.session c) ∧
    ((ns.map (freedImage st0)).foldl Store.putImage st).zone = st.zone ∧
    ((ns.map (freedImage st0)).foldl Store.putImage st).token = st.token ∧
    ((ns.map (freedImage st0)).foldl Store.putImage st).nonce = st.nonce
  | [], _, _ => ⟨fun _ => ⟨nofun, fun _ => rfl⟩, fun _ => rfl, rfl, rfl, rfl⟩
  | n :: ns, st, h => by
    have hput : st.putImage (freedImage st0 n) = st.setSlot n (freedSlot (st.slot n)) := rfl
    obtain ⟨hslot, hsess, hzone, htoken, hnonce⟩ := putImage_freedImages st0 ns _ (Store.canonical_putImage h (freedImage st0 n))
    rw [hput] at hslot hsess hzone htoken hnonce
    refine ⟨fun m => ?_, hsess, hzone, htoken, hnonce⟩
    obtain ⟨hin, hout⟩ := hslot m
    rw [Store.slot_setSlot h] at hin hout
    rw [List.map_cons, List.foldl_cons, hput]
    refine ⟨fun hm => ?_, fun hm => ?_⟩
    · by_cases hmem : m ∈ ns
      · rw [hin hmem]
        split
        next heq => rw [← heq, freedSlot_freedSlot]
        next => rfl
      · rw [hout hmem, if_pos ((List.mem_cons.1 hm).resolve_right hmem).symm,
          (List.mem_cons.1 hm).resolve_right hmem]
    · rw [hout fun hmem => hm (List.mem_cons_of_mem _ hmem), if_neg fun heq : n = m => hm (heq ▸ List.mem_cons_self)]

theorem State.freedTo_commitSlots {s : State} (hcut : s.cut = none) (hcan : s.canonical) (ns : List Nat) :
    s.freedTo (s.commit { images := ns.map (freedImage s.store) }) (· ∈ ns) fun _ => False := by
  have hstore := State.commit_store hcut hcan { images := ns.map (freedImage s.store) }
  obtain ⟨hslot, hsess, hzone, htoken, hnonce⟩ := putImage_freedImages s.store ns s.store hcan
  have hrest := hstore
  obtain ⟨-, -, hz, ht, hn, -⟩ := hrest
  exact {
    uncut := State.commit_cut_none hcut _
    canonical := State.canonical_commit hcan _
    only := State.commit_eq s hcut _
    slots := fun n => by rw [hstore.slot n]; exact hslot n
    sessions := fun c => ⟨False.elim, fun _ => (hstore.session c).trans (hsess c)⟩
    zone := hz.trans hzone
    token := ht.trans htoken
    nonce := hn.trans hnonce }

/-- Slots freed four to a commit (R129, step 3). -/
theorem State.freedTo_freeSlotsFrom : ∀ (k n : Nat) {s : State}, s.cut = none → s.canonical →
    s.freedTo (s.freeSlotsFrom k n) (fun m => n ≤ m ∧ m < n + 4 * k) fun _ => False
  | 0, n, s, hcut, hcan => (State.freedTo.refl hcut hcan).congr
      (fun m => (iff_of_false id fun h => absurd h.1 (Nat.not_le.2 h.2))) fun _ => Iff.rfl
  | k + 1, n, s, hcut, hcan => by
    have hfour := State.freedTo_commitSlots hcut hcan [n, n + 1, n + 2, n + 3]
    refine (hfour.trans (State.freedTo_freeSlotsFrom k (n + 4) hfour.uncut hfour.canonical)).congr (fun m => ?_)
      fun _ => or_self_iff
    simp only [List.mem_cons, List.not_mem_nil, or_false]
    omega

theorem State.freedTo_commitSession {s : State} (hcut : s.cut = none) (hcan : s.canonical) (c : Nat) :
    s.freedTo (s.commit { session := some (c, SessEntry.free) }) (fun _ => False) fun d => d = c := by
  have hstore := State.commit_store hcut hcan { session := some (c, SessEntry.free) }
  have hsess : ∀ d, (s.store.putCommit { session := some (c, SessEntry.free) }).session d =
      if c = d then Copies.two SessEntry.free else s.store.session d := fun d => Store.session_setSession hcan c d _
  have hrest := hstore
  obtain ⟨-, -, hz, ht, hn, -⟩ := hrest
  exact {
    uncut := State.commit_cut_none hcut _
    canonical := State.canonical_commit hcan _
    only := State.commit_eq s hcut _
    slots := fun n => ⟨False.elim, fun _ => hstore.slot n⟩
    sessions := fun d => by
      rw [hstore.session d, hsess d]
      exact ⟨fun h => if_pos h.symm, fun h => if_neg fun h' => h h'.symm⟩
    zone := hz
    token := ht
    nonce := hn }

theorem State.freedTo_sessions : ∀ (cs : List Nat) {s : State}, s.cut = none → s.canonical →
    s.freedTo (cs.foldl (fun s c => s.commit { session := some (c, SessEntry.free) }) s) (fun _ => False) (· ∈ cs)
  | [], _, hcut, hcan => (State.freedTo.refl hcut hcan).congr (fun _ => Iff.rfl) fun c => by simp
  | c :: cs, _, hcut, hcan => by
    have hone := State.freedTo_commitSession hcut hcan c
    exact (hone.trans (State.freedTo_sessions cs hone.uncut hone.canonical)).congr (fun _ => or_self_iff)
      fun d => by rw [List.mem_cons]

/-- Steps 3 and 4 of WIPE: every slot and every session entry is FREE (R129). -/
theorem State.freedTo_all {s : State} (hcut : s.cut = none) (hcan : s.canonical) :
    s.freedTo s.freeAllSlots.freeAllSessions (· < 1024) (· < 16) := by
  have hslots := State.freedTo_freeSlotsFrom 256 0 hcut hcan
  refine (hslots.trans (State.freedTo_sessions (List.range Config.sessions) hslots.uncut hslots.canonical)).congr
    (fun m => ?_) fun c => ?_
  · rw [or_false, and_iff_right (Nat.zero_le m), Nat.zero_add]
  · rw [false_or, List.mem_range]

/-! ### WIPE: the volatile state and the flags (R129) -/

/-- The volatile state of a part that was wiped, its store and its monitor given (R129, R162). -/
def State.wipedWith (s : State) (st : Store) (m : Monitor) : State :=
  (s.setStore st).setMain { s.main with
    pool := [], queues := [], sched := [], notices := [], sessV := [], index := [],
    free := BitVec.allOnes 1024, quar := [], attn := AttnLines.released,
    audit := { s.main.audit with state := .aborted, reason := .wipe, stepPending := false, ahead := [] },
    mon := m }

theorem State.discardVolatile_eq (s : State) : s.discardVolatile = s.wipedWith s.store s.main.mon := by
  simp only [State.discardVolatile, State.wipedWith, State.setPool, State.setQueues, State.setSched, State.setNotices,
    State.setSessV, State.setIndex, State.setFree, State.setQuar, State.setAudit, State.setAttn, State.setStore,
    State.setMain, Audit.wiped]

theorem State.wipedWith_setStore (s : State) (st st' : Store) (m : Monitor) :
    (s.wipedWith st m).setStore st' = s.wipedWith st' m := rfl

/-- The end of a WIPE: what it leaves of a store between steps, and the flags. -/
structure Store.wiped (st st' : Store) (fl : StoreFlags) : Prop where
  slots    : ∀ n, n < 1024 → st'.slot n = freedSlot (st.slot n)
  sessions : ∀ c, c < 16 → st'.session c = Copies.two SessEntry.free
  zone     : st'.zone = st.zone
  token    : st'.token = st.token
  nonce    : st'.nonce = st.nonce
  flags    : st'.flags = Copies.two { fl with wiping := false }
  marker   : st'.intent.marker = Copies.two false

theorem State.wipeRest_eq {s : State} (hcut : s.cut = none) (hcan : s.canonical) (fl : StoreFlags) :
    s.wipeRest fl = s.wipedWith (s.wipeRest fl).store { s.main.mon with fault := false, lost := 0, replayFailed := false } ∧
      s.store.wiped (s.wipeRest fl).store fl ∧ (s.wipeRest fl).cut = none ∧ (s.wipeRest fl).canonical := by
  have hdiscard := State.discardVolatile_eq s
  have hall := State.freedTo_all (s := s.discardVolatile) (by rw [hdiscard]; exact hcut) (by
    rw [hdiscard]
    exact hcan)
  unfold State.wipeRest
  generalize s.discardVolatile.freeAllSlots.freeAllSessions = x at hall ⊢
  rw [hdiscard] at hall
  have honly : x = s.wipedWith x.store s.main.mon := hall.only
  have hstore := State.commit_store hall.uncut hall.canonical { flags := some { fl with wiping := false } }
  have hmarker := State.commit_marker hall.uncut { flags := some { fl with wiping := false } }
  have heq : x.commit { flags := some { fl with wiping := false } } =
      s.wipedWith (x.commit { flags := some { fl with wiping := false } }).store s.main.mon := by
    conv_lhs => rw [State.commit_eq x hall.uncut, honly, State.wipedWith_setStore]
    rw [← honly]
  have hcut' := State.commit_cut_none hall.uncut { flags := some { fl with wiping := false } }
  have hcan' := State.canonical_commit hall.canonical { flags := some { fl with wiping := false } }
  generalize x.commit { flags := some { fl with wiping := false } } = y at hstore hmarker heq hcut' hcan' ⊢
  have hrest := hstore
  obtain ⟨-, -, hz, ht, hn, hflags⟩ := hrest
  refine ⟨?_, ⟨fun n h => (hstore.slot n).trans ((hall.slots n).1 h),
    fun c h => (hstore.session c).trans ((hall.sessions c).1 h), hz.trans hall.zone, ht.trans hall.token,
    hn.trans hall.nonce, hflags, hmarker⟩, hcut', hcan'⟩
  rw [State.setMon_store]
  conv_lhs => rw [heq]
  rfl

theorem exec_wipe {s s1 : State} {f : Frame} (h : s.takenTo (.wipe f) f s1) :
    exec (.wipe f) s = .next (s1.wipe.respond f.port 0x86 (.bare .ok)) := by
  obtain ⟨ho, hs, hf, hc, hl⟩ := marksOf_eq h rfl
  show Host.Outcome.next (s.takeFrame (.wipe f) 0x86 f
    (judgedWith { supervisor := true, inFault := true, need := .may } f (wipeSession f) wipeWork)) = _
  rw [takeFrame_offers ho, judgedWith_passes (s := s.accept f.port) hs hf (wipeSession_of_ok (sessionStep_checked hc)) hl]
  rfl

/-- A WIPE in NORMAL mode is its flag's commit and the rest (R129). -/
theorem State.wipe_normal {s : State} {fl : StoreFlags} (hf : ¬ s.inFault) (hfl : flagsWord.holds s fl) :
    s.wipe = (s.commit { flags := some { fl with wiping := true } }).wipeRest fl := by
  rw [State.wipe, Control.read_holds hfl]
  exact if_neg hf

theorem wipe_inNormal {s s1 : State} {f : Frame} {fl : StoreFlags} (hbetween : s.between) (htaken : s.takenTo (.wipe f) f s1)
    (hf : ¬ s.inFault) (hfl : flagsWord.holds s1 fl) : ∃ t, exec (.wipe f) s = .next t ∧
      s1.store.wiped t.store fl ∧ t = (s1.wipedWith t.store
        { s1.main.mon with fault := false, lost := 0, replayFailed := false }).respond f.port 0x86 (.bare .ok) := by
  have hs1 := State.between_takenTo hbetween htaken
  have hf1 : ¬ s1.inFault := by rw [State.inFault, State.takenTo_mon htaken]; exact hf
  obtain ⟨heq, hwiped, -, -⟩ := State.wipeRest_eq (State.commit_cut_none hs1.uncut _)
    (State.canonical_commit hs1.canonical { flags := some { fl with wiping := true } }) fl
  have hstore := State.commit_store hs1.uncut hs1.canonical { flags := some { fl with wiping := true } }
  have hexec := exec_wipe htaken
  rw [State.wipe_normal hf1 hfl] at hexec
  have hrest := hstore
  obtain ⟨-, -, hz, ht, hn, -⟩ := hrest
  generalize (s1.commit { flags := some { fl with wiping := true } }).wipeRest fl = y at heq hwiped hexec
  refine ⟨_, hexec, ?_, ?_⟩
  · rw [State.respond_store]
    exact { hwiped with
      slots := fun n h => (hwiped.slots n h).trans (congrArg freedSlot (hstore.slot n))
      zone := hwiped.zone.trans hz
      token := hwiped.token.trans ht
      nonce := hwiped.nonce.trans hn }
  · rw [State.respond_store]
    conv_lhs => rw [heq, State.commit_eq s1 hs1.uncut]
    rfl

/-! ### WIPE in STORE_FAULT mode (R130) -/

/-- A monitor that differs by the counts and the trap alone (R145). -/
def Monitor.logged (m m' : Monitor) : Prop := ∃ a b tr, m' = { m with corrected := a, uncorrected := b, trap := tr }

theorem Monitor.logged.trans {m m' m'' : Monitor} (h : m.logged m') (h' : m'.logged m'') : m.logged m'' := by
  obtain ⟨a, b, tr, rfl⟩ := h
  obtain ⟨a', b', tr', rfl⟩ := h'
  exact ⟨a', b', tr', rfl⟩

theorem Monitor.logged_log (m : Monitor) (t : Trap) : m.logged (m.log t) := by
  unfold Monitor.log
  split
  · exact ⟨_, _, _, rfl⟩
  · exact ⟨_, _, _, rfl⟩
  · exact ⟨_, _, _, rfl⟩

theorem Monitor.logged_logWords (area : TrapArea) (i c : Nat) : ∀ (es : List Ecc) (k : Nat) (m : Monitor),
    m.logged (Monitor.logWords area i c k es m)
  | [], _, _ => ⟨_, _, _, rfl⟩
  | _ :: es, k, m => (Monitor.logged_log m _).trans (Monitor.logged_logWords area i c es (k + 1) _)

/-- A monitor that in STORE_FAULT mode differs by the counts, the trap and the set of lost control words (R136, R145). -/
def Monitor.countedTo (m m' : Monitor) : Prop :=
  ∃ l a b tr, m' = { m with fault := true, lost := l, corrected := a, uncorrected := b, trap := tr }

theorem Monitor.countedTo.trans {m m' m'' : Monitor} (h : m.countedTo m') (h' : m'.countedTo m'') : m.countedTo m'' := by
  obtain ⟨l, a, b, tr, rfl⟩ := h
  obtain ⟨l', a', b', tr', rfl⟩ := h'
  exact ⟨l', a', b', tr', rfl⟩

/-- In STORE_FAULT mode the read of a control word that is good, or lost in both copies, changes the monitor at most. -/
theorem Control.read_holdsOrLost {α : Type} [DecidableEq α] {c : Control α} {s : State} {o : Option α}
    (h : c.holdsOrLost s o) (hf : s.inFault) :
    ∃ m, c.read s = (s.setMon m, o) ∧ s.main.mon.countedTo m := by
  cases o with
  | some v => exact ⟨s.main.mon, Control.read_holds h, _, _, _, _, by rw [← hf]⟩
  | none =>
    obtain ⟨h1, h2⟩ := h
    have hnone : (c.get s.store).value = none := by
      rw [Copies.value, if_neg (Bool.eq_false_iff.1 h1), if_neg (Bool.eq_false_iff.1 h2)]
    have hread : c.read s = (((s.logWords .control c.number 1 (c.get s.store).c1.ecc).logWords .control c.number 2
        (c.get s.store).c2.ecc).enterFault (lostBit c.number), none) := by simp only [Control.read, hnone]
    obtain ⟨a, b, tr, hlog⟩ := (Monitor.logged_logWords .control c.number 1 (c.get s.store).c1.ecc 0 s.main.mon).trans
      (Monitor.logged_logWords .control c.number 2 (c.get s.store).c2.ecc 0 _)
    exact ⟨_, hread, _, a, b, tr, congrArg (fun m : Monitor => { m with fault := true, lost := m.lost ||| lostBit c.number }) hlog⟩

theorem State.commitOver_eq (s : State) (hcut : s.cut = none) (c : Commit) :
    s.commitOver c = s.setStore (s.commitOver c).store := by
  obtain ⟨p, pw, tb, st, m, cut⟩ := s
  cases hcut
  rfl

theorem State.commitOver_cut {s : State} (hcut : s.cut = none) (c : Commit) : (s.commitOver c).cut = none := by
  show s.cut.map _ = none
  rw [hcut]
  rfl

/-- The commit of step 1 of a WIPE in STORE_FAULT mode (R130). -/
def wipeCommit (map : Option ZoneMap) (tok : Token) (nonce : Option Nonce) (fl : StoreFlags) : Commit :=
  { images := [.zone (map.getD ZoneMap.por)], token := some tok, nonce := some (nonce.getD 1), flags := some fl }

theorem State.wipeInFault_eq {s : State} {map : Option ZoneMap} {tok : Option Token} {nonce : Option Nonce}
    (hf : s.inFault) (hmap : zoneWord.holdsOrLost s map) (htok : tokenWord.holdsOrLost s tok)
    (hnonce : nonceWord.holdsOrLost s nonce) (fl : Option StoreFlags) : ∃ m, s.main.mon.countedTo m ∧
      s.wipeInFault fl = ((s.setMon m).commitOver (wipeCommit map (wipedToken s.main.mon.replayFailed tok) nonce
        (wipedFlags fl (wipedToken s.main.mon.replayFailed tok)))).wipeRest
        (wipedFlags fl (wipedToken s.main.mon.replayFailed tok)) := by
  have hfault : ∀ {m m' : Monitor}, m.countedTo m' → m'.fault = true := by
    rintro m _ ⟨l, a, b, tr, rfl⟩
    rfl
  obtain ⟨m1, h1, c1⟩ := Control.read_holdsOrLost hmap hf
  obtain ⟨m2, h2, c2⟩ := Control.read_holdsOrLost (s := s.setMon m1) htok (hfault c1)
  obtain ⟨m3, h3, c3⟩ := Control.read_holdsOrLost (s := (s.setMon m1).setMon m2) hnonce (hfault c2)
  refine ⟨m3, c1.trans (c2.trans c3), ?_⟩
  rw [State.wipeInFault, h1]
  dsimp only
  rw [h2]
  dsimp only
  rw [h3]
  rfl

/-- A WIPE in STORE_FAULT mode reads the flags word, and then the other control words. -/
theorem State.wipe_inFault {s : State} {map : Option ZoneMap} {tok : Option Token} {nonce : Option Nonce}
    {fl : Option StoreFlags} (hf : s.inFault) (hmap : zoneWord.holdsOrLost s map) (htok : tokenWord.holdsOrLost s tok)
    (hnonce : nonceWord.holdsOrLost s nonce) (hfl : flagsWord.holdsOrLost s fl) : ∃ m, s.main.mon.countedTo m ∧
      s.wipe = ((s.setMon m).commitOver (wipeCommit map (wipedToken s.main.mon.replayFailed tok) nonce
        (wipedFlags fl (wipedToken s.main.mon.replayFailed tok)))).wipeRest
        (wipedFlags fl (wipedToken s.main.mon.replayFailed tok)) := by
  obtain ⟨m0, h0, c0⟩ := Control.read_holdsOrLost hfl hf
  have hcounted := c0
  obtain ⟨l, a, b, tr, hm0⟩ := hcounted
  have hf0 : (s.setMon m0).inFault := congrArg Monitor.fault hm0
  have hreplay : (s.setMon m0).main.mon.replayFailed = s.main.mon.replayFailed := by
    show m0.replayFailed = _
    rw [hm0]
  obtain ⟨m, hm, hwipe⟩ := State.wipeInFault_eq (s := s.setMon m0) hf0 hmap htok hnonce fl
  rw [hreplay] at hwipe
  refine ⟨m, c0.trans hm, Eq.trans ?_ hwipe⟩
  rw [State.wipe, h0]
  cases fl with
  | none => rfl
  | some x => exact if_pos hf0

theorem wipedToken_eq {failed : Bool} {tok : Option Token} {tok' : Token} (h : tok' = match tok with
      | none => 1
      | some v => if failed then v + 16 else v) :
    (∀ v, tok = some v → v.toNat + 16 < 2 ^ 48) → wipedToken failed tok = tok' := by
  intro hlarge
  subst h
  cases tok with
  | none => rfl
  | some v =>
    rw [wipedToken]
    dsimp only
    rw [if_pos (show v.toNat + Config.tokensPerCommit < 2 ^ 48 from hlarge v rfl)]

theorem wipedFlags_eq (fl : Option StoreFlags) (tok : Token) : { wipedFlags fl tok with wiping := false } =
    ({ fresh := (match fl with | none => true | some x => x.fresh) || decide (tok = 1), wiping := false } : StoreFlags) := by
  cases fl <;> rfl

/-- Settles O40: the slots and entries freed by whole commits, behind the commit of the flag, or of every control word. -/
theorem wipeFreesEverything : Obligations.WipeFreesEverything := by
  constructor
  · intro s s1 f fl hbetween htaken hf hfl
    obtain ⟨t, hexec, hwiped, heq⟩ := wipe_inNormal hbetween htaken hf hfl
    have hstore := State.takenTo_store htaken
    exact ⟨t, hexec, hwiped.slots, hwiped.sessions, hwiped.zone.trans (congrArg Store.zone hstore),
      hwiped.token.trans (congrArg Store.token hstore), hwiped.nonce.trans (congrArg Store.nonce hstore), hwiped.flags,
      hwiped.marker, heq⟩
  · intro s s1 f map tok nonce fl tok' hbetween htaken hf hmap htok hnonce hfl hlarge htok'
    have hs1 := State.between_takenTo hbetween htaken
    have hf1 : s1.inFault := by rw [State.inFault, State.takenTo_mon htaken]; exact hf
    obtain ⟨m, hcounted, hwipe⟩ := State.wipe_inFault hf1 hmap htok hnonce hfl
    have htoken : wipedToken s.main.mon.replayFailed tok = tok' := wipedToken_eq htok' hlarge
    rw [State.takenTo_mon htaken, htoken] at hwipe
    have hcommit := State.commitOver_store (s := s1.setMon m) hs1.uncut hs1.canonical
      (wipeCommit map tok' nonce (wipedFlags fl tok'))
    have hcut := State.commitOver_cut (s := s1.setMon m) hs1.uncut (wipeCommit map tok' nonce (wipedFlags fl tok'))
    have honly := State.commitOver_eq (s1.setMon m) hs1.uncut (wipeCommit map tok' nonce (wipedFlags fl tok'))
    have hexec := exec_wipe htaken
    rw [hwipe] at hexec
    generalize (s1.setMon m).commitOver (wipeCommit map tok' nonce (wipedFlags fl tok')) = x at hcommit hcut honly hexec
    have hcan : x.canonical := hcommit.canonical.trans (Store.canonical_putCommit hs1.canonical _)
    obtain ⟨heq, hwiped, -, -⟩ := State.wipeRest_eq hcut hcan (wipedFlags fl tok')
    have hrest := hcommit
    obtain ⟨-, -, hz, ht, hn, -⟩ := hrest
    generalize x.wipeRest (wipedFlags fl tok') = y at heq hwiped hexec
    have hmain : x.main.mon = m := by rw [honly]; rfl
    rw [hmain, honly] at heq
    obtain ⟨l, a, b, tr, rfl⟩ := hcounted
    refine ⟨_, hexec, ?_, ?_, ?_, ?_, ?_, ?_, ?_, ?_, ?_⟩
    · exact fun n h => (hwiped.slots n h).trans (congrArg freedSlot (hcommit.slot n))
    · exact hwiped.sessions
    · exact hwiped.zone.trans hz
    · exact hwiped.token.trans ht
    · exact hwiped.nonce.trans hn
    · exact hwiped.flags.trans (congrArg Copies.two (wipedFlags_eq fl tok'))
    · exact hwiped.marker
    · rw [heq]
      rfl
    · rw [State.respond_store]
      conv_lhs => rw [heq]
      rw [heq]
      rfl

end Sys2Proof.Machine
end

section
/-! PROOFS. The record in hand: the holding rules, handoff and the work of a settle (R23, R51, R75, R76, R82). -/

namespace Sys2Proof.Machine

/-! ### The holding rules of a grant list (R23) -/

/-- Some grants leave the list. -/
theorem Rec.holding.filter {r : Rec} (h : r.holding) (p : Grant → Bool) :
    (r.withGrants (r.grants.filter p)).holding where
  alone g hg hm := by
    have hall := h.alone g (List.mem_of_mem_filter hg) hm
    show r.grants.filter p = [g]
    have hgp := (List.mem_filter.1 hg).2
    rw [hall, List.filter_cons_of_pos hgp, List.filter_nil]
  room hne := by
    have hsome : r.grants ≠ [] := fun hnil => hne (by
      show r.grants.filter p = []
      rw [hnil, List.filter_nil])
    exact (List.length_filter_le p r.grants).trans (h.room hsome)
  clients := h.clients.sublist (List.filter_sublist.map _)
  summary := rfl
  limit := h.limit

/-- A change of a grant that keeps its client, and its mode or makes it SHARED. -/
def Grant.keepsHolding (f : Grant → Grant) : Prop :=
  ∀ g, (f g).client = g.client ∧ ((f g).mode = g.mode ∨ (f g).mode = .shared)

theorem Grant.keepsHolding.at {f : Grant → Grant} (h : Grant.keepsHolding f) (tok : Token) :
    Grant.keepsHolding fun g => if g.token = tok then f g else g := fun g => by
  dsimp only
  split
  · exact h g
  · exact ⟨rfl, .inl rfl⟩

/-- Grants change in their places. -/
theorem Rec.holding.map {r : Rec} (h : r.holding) {f : Grant → Grant} (hf : Grant.keepsHolding f) :
    (r.withGrants (r.grants.map f)).holding where
  alone g hg hm := by
    obtain ⟨x, hx, rfl⟩ := List.mem_map.1 hg
    have hmode : x.mode = .exclusive := by
      rcases (hf x).2 with hsame | hshared
      · rw [← hsame, hm]
      · rw [hshared] at hm
        cases hm
    show r.grants.map f = [f x]
    rw [h.alone x hx hmode, List.map_cons, List.map_nil]
  room hne := by
    have hsome : r.grants ≠ [] := fun hnil => hne (by
      show r.grants.map f = []
      rw [hnil, List.map_nil])
    exact (List.length_map f).trans_le (h.room hsome)
  clients := by
    show ((r.grants.map f).map Grant.client).Nodup
    rw [List.map_map, show Grant.client ∘ f = Grant.client from funext fun g => (hf g).1]
    exact h.clients
  summary := rfl
  limit := h.limit

/-- Of a record that is HELD_SHARED every grant is SHARED. -/
theorem Rec.holding.shared {r : Rec} (h : r.holding) (hst : r.state = .heldShared) : ∀ g ∈ r.grants, g.mode ≠ .exclusive := by
  intro g hg hm
  have hs := h.summary
  rw [h.alone g hg hm, summaryOf, if_pos hm, hst] at hs
  cases hs

theorem Rec.holding.vacant {r : Rec} (h : r.holding) (hst : r.state = .vacant) : r.grants = [] :=
  summaryOf_eq_vacant.1 (h.summary.symm.trans hst)

/-- An admissible request's grant joins the list. -/
theorem Rec.holding.append {r : Rec} (h : r.holding) {g : Grant} (hadm : r.admissible g.client g.mode) :
    (r.withGrants (r.grants ++ [g])).holding := by
  rcases hadm with ⟨-, hvacant⟩ | ⟨hmode, hroom, hclient⟩
  · rw [h.vacant hvacant]
    exact ⟨fun x hx _ => by rw [List.mem_singleton.1 hx]; rfl, fun _ => h.limit, List.nodup_singleton _, rfl, h.limit⟩
  · have hshared : ∀ x ∈ r.grants ++ [g], x.mode ≠ .exclusive := by
      refine List.forall_mem_append.2 ⟨?_, fun x hx => ?_⟩
      · rcases hroom with hvacant | ⟨hheld, -⟩
        · rw [h.vacant hvacant]
          exact nofun
        · exact h.shared hheld
      · rw [List.mem_singleton.1 hx, hmode]
        exact Mode.noConfusion
    refine ⟨fun x hx hm => absurd hm (hshared x hx), fun _ => ?_, ?_, rfl, h.limit⟩
    · show (r.grants ++ [g]).length ≤ r.share
      rw [List.length_append, List.length_singleton]
      rcases hroom with hvacant | ⟨-, hlt⟩
      · rw [h.vacant hvacant]
        exact h.limit
      · exact hlt
    · show ((r.grants ++ [g]).map Grant.client).Nodup
      rw [List.map_append, List.map_singleton, List.nodup_append]
      refine ⟨h.clients, List.nodup_singleton _, fun a ha b hb => ?_⟩
      obtain ⟨x, hx, rfl⟩ := List.mem_map.1 ha
      rw [List.mem_singleton.1 hb]
      exact hclient x hx

/-! ### The operations on a record in hand keep the holding rules -/

theorem Bench.issue_holding {b : Bench} (h : b.body.holding) {now : Tick} {c : Nat} {m : Mode} {term : Term}
    (hadm : b.body.admissible c m) : (b.issue now c m term).body.holding :=
  h.append (g := { client := c, mode := m, gstate := .live, token := b.token, expiry := tickPlus now term.toNat,
                   term := term }) hadm

theorem handoffOver_holding {now : Tick} : ∀ (q : List (Nat × Waiter)) (b : Bench), b.body.holding →
    (handoffOver now q b).body.holding
  | [], _, h => h
  | (id, w) :: q, b, h => by
    rw [handoffOver]
    split
    · exact handoffOver_holding q _ h
    next =>
      split
      next hadm =>
        have hgranted : (b.grantWaiter now id w).body.holding :=
          Bench.issue_holding (b := b.emit _) h ((Rec.admits_iff _ _ _).1 hadm)
        split
        · exact handoffOver_holding q _ hgranted
        · exact hgranted
      next => exact h

theorem Bench.handoff_holding {b : Bench} (h : b.body.holding) (now : Tick) : (b.handoff now).body.holding :=
  handoffOver_holding b.queue b h

theorem Bench.lazyExpiry_holding {b : Bench} (h : b.body.holding) (now : Tick) : (b.lazyExpiry now).body.holding := by
  have hexpired : ((b.expireGrants now).timeoutWaiters now).body.holding := by
    show (b.expireGrants now).body.holding
    by_cases hdue : b.body.grants.filter (Grant.due now) = []
    · rw [Bench.expireGrants_none hdue]
      exact h
    · rw [Bench.expireGrants_due hdue]
      exact h.filter _
  rw [Bench.lazyExpiry]
  split
  · exact Bench.handoff_holding hexpired now
  · exact hexpired

theorem Bench.changeGrant_holding {b : Bench} (h : b.body.holding) (tok : Token) {f : Grant → Grant}
    (hf : Grant.keepsHolding f) : (b.changeGrant tok f).body.holding := h.map (hf.at tok)

theorem Bench.dropWaiterOf_holding {b : Bench} (h : b.body.holding) (now : Tick) (c : Nat) :
    (b.dropWaiterOf now c).body.holding := by
  unfold Bench.dropWaiterOf
  split
  · exact h
  · split
    · exact Bench.handoff_holding (b := b.removeWaiter _ c) h now
    · exact h

theorem Grant.keepsHolding_revived (now : Tick) : Grant.keepsHolding (Grant.revived now) := fun _ => ⟨rfl, .inl rfl⟩

theorem Bench.settleWork_holding {b : Bench} (h : b.body.holding) (now : Tick) (c : Nat) (form : SettleForm) :
    (b.settleWork form now c).body.holding := by
  cases form with
  | release =>
    show (b.settleRelease now c).body.holding
    unfold Bench.settleRelease
    split
    next g _ => exact Bench.handoff_holding (Bench.dropWaiterOf_holding (b := b.removeGrant g) (h.filter _) now c) now
    next => exact Bench.dropWaiterOf_holding h now c
  | orphan =>
    show (b.settleOrphan now c).body.holding
    unfold Bench.settleOrphan
    split
    next g _ =>
      split
      · exact Bench.dropWaiterOf_holding (b := (b.changeGrant g.token fun x => { x with gstate := .orphaned }).emit _)
          (Bench.changeGrant_holding h g.token fun _ => ⟨rfl, .inl rfl⟩) now c
      · exact Bench.dropWaiterOf_holding h now c
    next => exact Bench.dropWaiterOf_holding h now c
  | revive =>
    show (b.settleRevive now c).body.holding
    unfold Bench.settleRevive
    split
    next g _ =>
      split
      · exact Bench.changeGrant_holding h g.token (Grant.keepsHolding_revived now)
      · exact h
    next => exact h
  | reviveDue =>
    show (b.settleReviveDue now c).body.holding
    have hdropped := Bench.dropWaiterOf_holding h now c
    unfold Bench.settleReviveDue
    dsimp only
    split
    next g _ => exact Bench.changeGrant_holding hdropped g.token (Grant.keepsHolding_revived now)
    next => exact hdropped

/-- Settles O56: each operation drops grants, changes them in place, or adds that of an admissible request. -/
theorem holdingRulesKept : Obligations.HoldingRulesKept := fun _ now h =>
  ⟨Bench.lazyExpiry_holding h now, Bench.handoff_holding h now, fun _ _ _ hadm => Bench.issue_holding h hadm,
    fun _ => h.filter _, fun tok => Bench.changeGrant_holding h tok fun _ => ⟨rfl, .inr rfl⟩,
    fun tok _ _ => Bench.changeGrant_holding h tok fun _ => ⟨rfl, .inl rfl⟩,
    fun form c => Bench.settleWork_holding h now c form⟩

/-! ### Handoff (R51, R52) -/

theorem tokenNext_eq {t : Token} (h : t.toNat + 1 < 2 ^ 48) : tokenNext t = t + 1 := if_pos h

/-- The head that handoff leaves is not admissible. -/
theorem handoffOver_head {now : Tick} : ∀ (q : List (Nat × Waiter)) (b : Bench), b.body.holding →
    ∀ p, (handoffOver now q b).queue.head? = some p → ¬ (handoffOver now q b).body.admissible p.2.client p.2.mode
  | [], _, _ => nofun
  | (id, w) :: q, b, h => by
    rw [handoffOver]
    split
    · exact handoffOver_head q _ h
    next =>
      split
      next hadm =>
        have hadmissible := (Rec.admits_iff _ _ _).1 hadm
        have hgranted : (b.grantWaiter now id w).body.holding := Bench.issue_holding (b := b.emit _) h hadmissible
        split
        · exact handoffOver_head q _ hgranted
        next hmode =>
          intro p _ hp
          have hvacant : b.body.state = .vacant := by
            rcases hadmissible with ⟨-, hv⟩ | ⟨hshared, -⟩
            · exact hv
            · rw [hshared] at hmode
              cases hmode
          have hstate : (b.grantWaiter now id w).body.state = .heldExclusive := by
            rw [hgranted.summary]
            show summaryOf (b.body.grants ++ [_]) = _
            rw [h.vacant hvacant]
            exact if_pos hmode
          rcases hp with ⟨-, hv⟩ | ⟨-, hv | ⟨hv, -⟩, -⟩
          · exact RecState.noConfusion (hstate.symm.trans hv)
          · exact RecState.noConfusion (hstate.symm.trans hv)
          · exact RecState.noConfusion (hstate.symm.trans hv)
      next hadm =>
        rintro p hp
        obtain rfl := Option.some.inj hp
        exact fun h => hadm ((Rec.admits_iff _ _ _).2 h)

/-- Handoff takes waiters from the head of the queue alone. -/
theorem handoffOver_queue {now : Tick} : ∀ (q : List (Nat × Waiter)) (b : Bench), ∃ gone, q = gone ++ (handoffOver now q b).queue
  | [], _ => ⟨[], rfl⟩
  | (id, w) :: q, b => by
    rw [handoffOver]
    split
    · obtain ⟨gone, hgone⟩ := handoffOver_queue q (b.emit (timeoutOuts now b.body.key id w))
      exact ⟨(id, w) :: gone, congrArg _ hgone⟩
    · split
      · split
        · obtain ⟨gone, hgone⟩ := handoffOver_queue q (b.grantWaiter now id w)
          exact ⟨(id, w) :: gone, congrArg _ hgone⟩
        · exact ⟨[(id, w)], rfl⟩
      · exact ⟨[], rfl⟩

/-- Grants issued one behind the other, from a value of the token counter on (R25, R52). -/
def issuedFrom (now : Tick) (tok : Token) (new : List Grant) : Prop :=
  ∀ (i : Nat) (g : Grant), new[i]? = some g →
    g.token = tok + BitVec.ofNat 48 i ∧ g.gstate = .live ∧ g.expiry = tickPlus now g.term.toNat

theorem issuedFrom_cons {now : Tick} {tok : Token} {g : Grant} {new : List Grant} (htok : g.token = tok)
    (hlive : g.gstate = .live) (hexpiry : g.expiry = tickPlus now g.term.toNat) (h : issuedFrom now (tok + 1) new) :
    issuedFrom now tok (g :: new) := by
  intro i x hx
  cases i with
  | zero =>
    obtain rfl := Option.some.inj hx
    exact ⟨by rw [htok]; exact (BitVec.add_zero tok).symm, hlive, hexpiry⟩
  | succ i =>
    obtain ⟨htoken, hrest⟩ := h i x hx
    refine ⟨?_, hrest⟩
    rw [htoken, BitVec.add_assoc, Nat.add_comm i 1, BitVec.ofNat_add]
    rfl

/-- Handoff issues consecutive tokens, short of the counter's end. -/
theorem handoffOver_tokens {now : Tick} : ∀ (q : List (Nat × Waiter)) (b : Bench), b.token.toNat + q.length < 2 ^ 48 →
    ∃ new, (handoffOver now q b).body.grants = b.body.grants ++ new ∧
      (handoffOver now q b).issued = b.issued + new.length ∧
      (handoffOver now q b).token = b.token + BitVec.ofNat 48 new.length ∧ issuedFrom now b.token new
  | [], b, _ => ⟨[], (List.append_nil _).symm, rfl, (BitVec.add_zero _).symm, nofun⟩
  | (id, w) :: q, b, hlt => by
    rw [List.length_cons] at hlt
    have hnext : tokenNext b.token = b.token + 1 := tokenNext_eq (by omega)
    have hnat : (b.token + 1).toNat = b.token.toNat + 1 := by bv_omega
    have hgrant : (b.grantWaiter now id w).body.grants = b.body.grants ++ [Grant.fresh now w.client w.mode w.term b.token] := rfl
    have hone : issuedFrom now b.token [Grant.fresh now w.client w.mode w.term b.token] :=
      issuedFrom_cons rfl rfl rfl nofun
    rw [handoffOver]
    split
    · exact handoffOver_tokens q (b.emit (timeoutOuts now b.body.key id w)) (by show b.token.toNat + _ < _; omega)
    · split
      · split
        · obtain ⟨new, hgrants, hissued, htoken, hfrom⟩ := handoffOver_tokens q (b.grantWaiter now id w) (by
            show (tokenNext b.token).toNat + _ < _
            rw [hnext, hnat]
            omega)
          rw [show (b.grantWaiter now id w).token = b.token + 1 from hnext] at htoken hfrom
          refine ⟨Grant.fresh now w.client w.mode w.term b.token :: new, ?_, ?_, ?_, issuedFrom_cons rfl rfl rfl hfrom⟩
          · rw [hgrants, hgrant, List.append_assoc]
            rfl
          · rw [hissued, List.length_cons]
            show b.issued + 1 + _ = _
            omega
          · rw [htoken, List.length_cons, BitVec.add_assoc, Nat.add_comm new.length 1, BitVec.ofNat_add]
            rfl
        · exact ⟨_, hgrant, rfl, hnext, hone⟩
      · exact ⟨[], (List.append_nil _).symm, rfl, (BitVec.add_zero _).symm, nofun⟩

/-- Settles O57: the head left, the part of the queue taken, and the grants added, each by the recursion of handoff. -/
theorem handoffEndsAtAnInadmissibleHead : Obligations.HandoffEndsAtAnInadmissibleHead := by
  rintro b _ now rfl h
  refine ⟨handoffOver_head b.queue b h, handoffOver_queue b.queue b, fun hlt => ?_⟩
  obtain ⟨new, hgrants, hissued, htoken, hfrom⟩ := handoffOver_tokens b.queue b hlt
  exact ⟨new, hgrants, hissued, htoken, fun p hp => hfrom p.2 p.1 (List.mk_mem_zipIdx_iff_getElem?.1 hp)⟩

/-! ### The work of a settle (R75, R76, R82) -/

/-- What handoff and the removal of a client's waiter leave of a record: its grants stay, and the new ones are of waiters
in the queue; the queue loses waiters only. -/
structure Bench.grownTo (b b' : Bench) : Prop where
  grants : ∃ new, b'.body.grants = b.body.grants ++ new ∧ ∀ g ∈ new, ∃ p ∈ b.queue, p.2.client = g.client
  queue  : ∀ p ∈ b'.queue, p ∈ b.queue

theorem Bench.grownTo.refl (b : Bench) : b.grownTo b := ⟨⟨[], (List.append_nil _).symm, nofun⟩, fun _ h => h⟩

theorem Bench.grownTo.trans {b c d : Bench} (h : b.grownTo c) (h' : c.grownTo d) : b.grownTo d := by
  obtain ⟨⟨new, hnew, hclients⟩, hq⟩ := h
  obtain ⟨⟨new', hnew', hclients'⟩, hq'⟩ := h'
  refine ⟨⟨new ++ new', by rw [hnew', hnew, List.append_assoc], List.forall_mem_append.2 ⟨hclients, fun g hg => ?_⟩⟩,
    fun p hp => hq p (hq' p hp)⟩
  obtain ⟨p, hp, hc⟩ := hclients' g hg
  exact ⟨p, hq p hp, hc⟩

theorem handoffOver_grown {now : Tick} : ∀ (q : List (Nat × Waiter)) (b : Bench),
    Bench.grownTo { b with queue := q } (handoffOver now q b)
  | [], b => Bench.grownTo.refl _
  | (id, w) :: q, b => by
    have htail : ∀ c : Bench, c.body.grants = b.body.grants →
        Bench.grownTo { b with queue := (id, w) :: q } { c with queue := q } := fun c hc =>
      ⟨⟨[], by rw [List.append_nil]; exact hc, nofun⟩, fun p hp => List.mem_cons_of_mem _ hp⟩
    have hgranted : Bench.grownTo { b with queue := (id, w) :: q } { b.grantWaiter now id w with queue := q } :=
      ⟨⟨[Grant.fresh now w.client w.mode w.term b.token], rfl, fun g hg => by
        rw [List.mem_singleton.1 hg]
        exact ⟨(id, w), List.mem_cons_self, rfl⟩⟩, fun p hp => List.mem_cons_of_mem _ hp⟩
    rw [handoffOver]
    split
    · exact (htail (b.emit (timeoutOuts now b.body.key id w)) rfl).trans
        (handoffOver_grown q (b.emit (timeoutOuts now b.body.key id w)))
    · split
      · split
        · exact hgranted.trans (handoffOver_grown q (b.grantWaiter now id w))
        · exact hgranted
      · exact Bench.grownTo.refl _

theorem Bench.handoff_grown (now : Tick) (b : Bench) : b.grownTo (b.handoff now) := handoffOver_grown b.queue b

/-- The waiter of a client leaves the queue, and no other grant of it comes of it. -/
theorem Bench.dropWaiterOf_grown {now : Tick} {c : Nat} {b : Bench} (hclients : (b.queue.map fun p => p.2.client).Nodup) :
    ∃ b0 : Bench, b0.body = b.body ∧ (∀ p ∈ b0.queue, p.2.client ≠ c) ∧
      b0.grownTo (b.dropWaiterOf now c) := by
  unfold Bench.dropWaiterOf
  cases hw : b.waiterOf c with
  | none => exact ⟨b, rfl, fun p hp => by simpa using List.find?_eq_none.1 hw p hp, Bench.grownTo.refl b⟩
  | some x =>
    obtain ⟨id, w⟩ := x
    have hmem : (id, w) ∈ b.queue := List.mem_of_find?_eq_some hw
    have hclient : w.client = c := by simpa using List.find?_some hw
    have hgone : ∀ p ∈ (b.removeWaiter id c).queue, p.2.client ≠ c := fun p hp hpc => by
      obtain ⟨hp, hne⟩ := List.mem_filter.1 hp
      have hsame : p = (id, w) := List.inj_on_of_nodup_map hclients hp hmem (hpc.trans hclient.symm)
      rw [hsame] at hne
      simp at hne
    refine ⟨b.removeWaiter id c, rfl, hgone, ?_⟩
    dsimp only
    split
    · exact Bench.handoff_grown now _
    · exact Bench.grownTo.refl _

/-- Behind the removal of a client's waiter the client has the grants that it had, and no waiter. -/
theorem Bench.dropWaiterOf_spec {now : Tick} {c : Nat} {b : Bench} (hclients : (b.queue.map fun p => p.2.client).Nodup) :
    (∃ new, (b.dropWaiterOf now c).body.grants = b.body.grants ++ new ∧
      ∀ g ∈ new, g.client ≠ c) ∧ ∀ p ∈ (b.dropWaiterOf now c).queue, p.2.client ≠ c := by
  obtain ⟨b0, hbody, hgone, ⟨new, hnew, hof⟩, hqueue⟩ := Bench.dropWaiterOf_grown (now := now) hclients
  rw [hbody] at hnew
  refine ⟨⟨new, hnew, fun g hg hgc => ?_⟩, fun p hp => hgone p (hqueue p hp)⟩
  obtain ⟨p, hp, hpc⟩ := hof g hg
  exact hgone p hp (hpc.trans hgc)

/-- A client's grant on a record: the client has no other, and no other grant has its token. -/
theorem Rec.grantOf_some {r : Rec} {c : Nat} {g : Grant} (h : r.holding) (htok : (r.grants.map Grant.token).Nodup)
    (hg : r.grantOf c = some g) : g ∈ r.grants ∧ ∀ x ∈ r.grants, x.client = c ∧ x = g ∨ x.client ≠ c ∧ x.token ≠ g.token := by
  have hmem : g ∈ r.grants := List.mem_of_find?_eq_some hg
  have hclient : g.client = c := by simpa using List.find?_some hg
  refine ⟨hmem, fun x hx => ?_⟩
  by_cases hc : x.client = c
  · exact .inl ⟨hc, List.inj_on_of_nodup_map h.clients hx hmem (hc.trans hclient.symm)⟩
  · exact .inr ⟨hc, fun ht => hc (List.inj_on_of_nodup_map htok hx hmem ht ▸ hclient)⟩

theorem Rec.grantOf_none {r : Rec} {c : Nat} (h : r.grantOf c = none) : ∀ x ∈ r.grants, x.client ≠ c := fun x hx => by
  simpa using List.find?_eq_none.1 h x hx

theorem Bench.settleRelease_spec {b : Bench} {now : Tick} {c : Nat} (h : b.body.holding)
    (htok : (b.body.grants.map Grant.token).Nodup) (hclients : (b.queue.map fun p => p.2.client).Nodup) :
    (∀ g ∈ (b.settleRelease now c).body.grants, g.client ≠ c) ∧ (∀ p ∈ (b.settleRelease now c).queue, p.2.client ≠ c) ∧
      ∀ g ∈ b.body.grants, g.client ≠ c → g ∈ (b.settleRelease now c).body.grants := by
  unfold Bench.settleRelease
  cases hg : b.body.grantOf c with
  | none =>
    dsimp only
    obtain ⟨⟨new, hnew, hother⟩, hqueue⟩ := Bench.dropWaiterOf_spec (now := now) (c := c) hclients
    rw [hnew]
    exact ⟨List.forall_mem_append.2 ⟨Rec.grantOf_none hg, hother⟩, hqueue, fun g hg _ => List.mem_append_left _ hg⟩
  | some g =>
    dsimp only
    obtain ⟨-, honly⟩ := Rec.grantOf_some h htok hg
    obtain ⟨⟨new, hnew, hother⟩, hqueue⟩ :=
      Bench.dropWaiterOf_spec (b := b.removeGrant g) (now := now) (c := c) hclients
    obtain ⟨⟨new', hnew', hof⟩, hqueue'⟩ := Bench.handoff_grown now ((b.removeGrant g).dropWaiterOf now c)
    rw [hnew', hnew]
    refine ⟨List.forall_mem_append.2 ⟨List.forall_mem_append.2 ⟨fun x hx hc => ?_, hother⟩, fun x hx hc => ?_⟩,
      fun p hp => hqueue p (hqueue' p hp), fun x hx hc => List.mem_append_left _ (List.mem_append_left _ ?_)⟩
    · obtain ⟨hx, hne⟩ := List.mem_filter.1 hx
      rcases honly x hx with ⟨-, rfl⟩ | ⟨hc', -⟩
      · simp at hne
      · exact hc' hc
    · obtain ⟨p, hp, hpc⟩ := hof x hx
      exact hqueue p hp (hpc.trans hc)
    · rcases honly x hx with ⟨hc', -⟩ | ⟨-, hne⟩
      · exact absurd hc' hc
      · exact List.mem_filter.2 ⟨hx, by simpa using hne⟩

/-- A change of a client's grant in its place. -/
theorem Bench.mem_changeGrant {b : Bench} {c : Nat} {g : Grant} (h : b.body.holding)
    (htok : (b.body.grants.map Grant.token).Nodup) (hg : b.body.grantOf c = some g) (f : Grant → Grant) :
    (∀ x ∈ b.body.grants, x.client = c → f x ∈ (b.changeGrant g.token f).body.grants) ∧
      (∀ x ∈ b.body.grants, x.client ≠ c → x ∈ (b.changeGrant g.token f).body.grants) ∧
      ∀ y ∈ (b.changeGrant g.token f).body.grants, y = f g ∨ y.client ≠ c := by
  obtain ⟨-, honly⟩ := Rec.grantOf_some h htok hg
  refine ⟨fun x hx hc => ?_, fun x hx hc => ?_, fun y hy => ?_⟩
  · rcases honly x hx with ⟨-, rfl⟩ | ⟨hc', -⟩
    · exact List.mem_map.2 ⟨x, hx, if_pos rfl⟩
    · exact absurd hc hc'
  · rcases honly x hx with ⟨hc', -⟩ | ⟨-, hne⟩
    · exact absurd hc' hc
    · exact List.mem_map.2 ⟨x, hx, if_neg hne⟩
  · obtain ⟨x, hx, rfl⟩ := List.mem_map.1 hy
    rcases honly x hx with ⟨-, rfl⟩ | ⟨hc, hne⟩
    · exact .inl (if_pos rfl)
    · right
      rw [if_neg hne]
      exact hc

theorem Bench.settleOrphan_spec {b : Bench} {now : Tick} {c : Nat} (h : b.body.holding)
    (htok : (b.body.grants.map Grant.token).Nodup) (hclients : (b.queue.map fun p => p.2.client).Nodup) :
    (∀ g ∈ (b.settleOrphan now c).body.grants, g.client = c → g.gstate = .orphaned) ∧
      (∀ p ∈ (b.settleOrphan now c).queue, p.2.client ≠ c) ∧
      (∀ g ∈ b.body.grants, g.client = c → { g with gstate := .orphaned } ∈ (b.settleOrphan now c).body.grants) ∧
      ∀ g ∈ b.body.grants, g.client ≠ c → g ∈ (b.settleOrphan now c).body.grants := by
  obtain ⟨⟨new, hnew, hother⟩, hqueue⟩ := Bench.dropWaiterOf_spec (now := now) (c := c) hclients
  unfold Bench.settleOrphan
  cases hg : b.body.grantOf c with
  | none =>
    dsimp only
    have hnone := Rec.grantOf_none hg
    rw [hnew]
    exact ⟨List.forall_mem_append.2 ⟨fun x hx hc => absurd hc (hnone x hx), fun x hx hc => absurd hc (hother x hx)⟩,
      hqueue, fun x hx hc => absurd hc (hnone x hx), fun x hx _ => List.mem_append_left _ hx⟩
  | some g =>
    dsimp only
    obtain ⟨-, honly⟩ := Rec.grantOf_some h htok hg
    split
    next =>
      obtain ⟨hown, hothers, hall⟩ := Bench.mem_changeGrant h htok hg fun x => { x with gstate := .orphaned }
      obtain ⟨⟨new, hnew, hother⟩, hqueue⟩ := Bench.dropWaiterOf_spec (now := now) (c := c)
        (b := (b.changeGrant g.token fun x => { x with gstate := .orphaned }).emit [.remove (.grant b.slot g.token)]) hclients
      rw [hnew]
      refine ⟨List.forall_mem_append.2 ⟨fun x hx hc => ?_, fun x hx hc => absurd hc (hother x hx)⟩, hqueue,
        fun x hx hc => List.mem_append_left _ (hown x hx hc), fun x hx hc => List.mem_append_left _ (hothers x hx hc)⟩
      rcases hall x hx with rfl | hne
      · rfl
      · exact absurd hc hne
    next hlive =>
      have horphaned : g.gstate = .orphaned := by
        cases hs : g.gstate with
        | live => exact absurd hs hlive
        | orphaned => rfl
      rw [hnew]
      refine ⟨List.forall_mem_append.2 ⟨fun x hx hc => ?_, fun x hx hc => absurd hc (hother x hx)⟩, hqueue,
        fun x hx hc => List.mem_append_left _ ?_, fun x hx _ => List.mem_append_left _ hx⟩
      · rcases honly x hx with ⟨-, rfl⟩ | ⟨hc', -⟩
        · exact horphaned
        · exact absurd hc hc'
      · rcases honly x hx with ⟨-, rfl⟩ | ⟨hc', -⟩
        · rw [← horphaned]
          exact hx
        · exact absurd hc hc'

theorem Bench.settleRevive_spec {b : Bench} {now : Tick} {c : Nat} (h : b.body.holding)
    (htok : (b.body.grants.map Grant.token).Nodup) :
    (∀ g ∈ b.body.grants, g.client = c → g.gstate = .orphaned →
      { g with gstate := .live, expiry := tickPlus now g.term.toNat } ∈ (b.settleRevive now c).body.grants) ∧
      ∀ g ∈ b.body.grants, g.client ≠ c → g ∈ (b.settleRevive now c).body.grants := by
  unfold Bench.settleRevive
  cases hg : b.body.grantOf c with
  | none => exact ⟨fun x hx hc => absurd hc (Rec.grantOf_none hg x hx), fun x hx _ => hx⟩
  | some g =>
    dsimp only
    obtain ⟨-, honly⟩ := Rec.grantOf_some h htok hg
    split
    next =>
      obtain ⟨hown, hothers, -⟩ := Bench.mem_changeGrant h htok hg (Grant.revived now)
      exact ⟨fun x hx hc _ => hown x hx hc, hothers⟩
    next hnot =>
      refine ⟨fun x hx hc ho => ?_, fun x hx _ => hx⟩
      rcases honly x hx with ⟨-, rfl⟩ | ⟨hc', -⟩
      · exact absurd ho hnot
      · exact absurd hc hc'

theorem Bench.settleReviveDue_others {b : Bench} {now : Tick} {c : Nat}
    (htok : (b.body.grants.map Grant.token).Nodup) (hclients : (b.queue.map fun p => p.2.client).Nodup) :
    ∀ g ∈ b.body.grants, g.client ≠ c → g ∈ (b.settleReviveDue now c).body.grants := by
  obtain ⟨⟨new, hnew, hother⟩, -⟩ := Bench.dropWaiterOf_spec (now := now) (c := c) hclients
  intro x hx hc
  have hx' : x ∈ (b.dropWaiterOf now c).body.grants := by
    rw [hnew]
    exact List.mem_append_left _ hx
  unfold Bench.settleReviveDue
  dsimp only
  split
  next g hg =>
    have hclient : g.client = c := by simpa using List.find?_some hg
    have hmem : g ∈ b.body.grants := by
      have hg := List.mem_of_find?_eq_some hg
      rw [hnew] at hg
      exact (List.mem_append.1 hg).resolve_right fun hg => hother g hg hclient
    exact List.mem_map.2 ⟨x, hx', if_neg fun ht => hc (List.inj_on_of_nodup_map htok hx hmem ht ▸ hclient)⟩
  next => exact hx'

/-- Settles O58, by the form of the work: each treats the client's one grant, and then its one waiter. -/
theorem settleWorkByAction : Obligations.SettleWorkByAction := by
  intro b now c h htok hclients _
  obtain ⟨hreleased, hleft, hstay⟩ := Bench.settleRelease_spec (now := now) (c := c) h htok hclients
  obtain ⟨horphaned, hleft', hown, hstay'⟩ := Bench.settleOrphan_spec (now := now) (c := c) h htok hclients
  obtain ⟨hrevived, hstay''⟩ := Bench.settleRevive_spec (now := now) (c := c) h htok
  refine ⟨⟨hreleased, hleft⟩, ⟨horphaned, hleft', hown⟩, hrevived, fun form => ?_⟩
  cases form with
  | release => exact hstay
  | orphan => exact hstay'
  | revive => exact hstay''
  | reviveDue => exact Bench.settleReviveDue_others htok hclients

end Sys2Proof.Machine
end

section
/-! PROOFS. A commit cut short by a loss of power, and its replay (R138 to R140, R166). -/

namespace Sys2Proof.Machine

/-! ### A target write made before the whole commit shows nothing behind it -/

theorem Store.setSlot_comm {st : Store} (h : st.canonical = true) {n m : Nat} (hne : n ≠ m) (a b : Block SlotImg) :
    (st.setSlot n a).setSlot m b = (st.setSlot m b).setSlot n a := by
  have hwf := ((Store.canonical_iff st).1 h).1
  have htab : Tab.set Block.blankSlot (Tab.set Block.blankSlot st.slots n a) m b =
      Tab.set Block.blankSlot (Tab.set Block.blankSlot st.slots m b) n a := by
    refine Tab.eq_of_get (Tab.wf_set (Tab.wf_set hwf n a) m b) (Tab.wf_set (Tab.wf_set hwf m b) n a) fun j => ?_
    rw [Tab.get_set (Tab.rising_of_wf (Tab.wf_set hwf n a)), Tab.get_set (Tab.rising_of_wf hwf),
      Tab.get_set (Tab.rising_of_wf (Tab.wf_set hwf m b)), Tab.get_set (Tab.rising_of_wf hwf)]
    split
    next hm => rw [if_neg (hm ▸ hne)]
    next => rfl
  exact congrArg (fun t => { st with slots := t }) htab

/-- Two words of a slot written in either order. -/
theorem SlotImg.setWord_ident {k : Nat} (hk : k ≠ 0) (a b c : SlotImg) :
    { SlotImg.setWord k a c with ident := b.ident } = SlotImg.setWord k a { c with ident := b.ident } := by
  unfold SlotImg.setWord
  split
  case h_1 => exact absurd rfl hk
  all_goals rfl

/-- An image at its target does not show a word of another image that was written before it, or leaves it as it is. -/
theorem putImage_slotWord {st : Store} (h : st.canonical = true) (n : Nat) (img : SlotImg) (k : Nat) (i : Image) :
    (writeSlotWord n img k st).putImage i = st.putImage i ∨
      (writeSlotWord n img k st).putImage i = writeSlotWord n img k (st.putImage i) := by
  cases i with
  | zone m => exact .inr rfl
  | slot m whole x =>
    by_cases hnm : n = m
    · subst hnm
      cases whole with
      | true => exact .inl (Store.setSlot_setSlot h n _ _)
      | false =>
        by_cases hk : k = 0
        · subst hk
          left
          simp only [writeSlotWord, Store.putImage, Store.slot_setSlot h, if_pos, Store.setSlot_setSlot h, Block.putWord,
            SlotImg.setWord, List.set_set]
        · right
          simp only [writeSlotWord, Store.putImage, Store.slot_setSlot h, if_pos, Store.setSlot_setSlot h, Block.putWord]
          rw [SlotImg.setWord_ident hk, List.set_comm _ _ hk]
    · right
      cases whole with
      | true =>
        simp only [writeSlotWord, Store.putImage, Store.slot_setSlot_ne _ (Ne.symm hnm)]
        exact Store.setSlot_comm h hnm _ _
      | false =>
        simp only [writeSlotWord, Store.putImage, Store.slot_setSlot_ne _ (Ne.symm hnm), Store.slot_setSlot_ne _ hnm]
        exact Store.setSlot_comm h hnm _ _

/-- The writes of a control word change its two copies alone. -/
theorem controlWrite_eq {α : Type} {c : Control α} {v : α} {w : Store → Store} (hw : w ∈ c.bothWrites v) :
    ∃ g : Copies α → Copies α, w = fun st => c.put st (g (c.get st)) := by
  rcases List.mem_append.1 hw with hw | hw
  · obtain ⟨k, -, rfl⟩ := List.mem_map.1 hw
    exact ⟨fun x => { x with c1 := x.c1.putWord c.setWord k v }, rfl⟩
  · obtain ⟨k, -, rfl⟩ := List.mem_map.1 hw
    exact ⟨fun x => { x with c2 := x.c2.putWord c.setWord k v }, rfl⟩

theorem zoneWrite_eq {m : ZoneMap} {w : Store → Store} (hw : w ∈ zoneWord.bothWrites m) :
    ∃ g : Copies ZoneMap → Copies ZoneMap, w = fun st => { st with zone := g st.zone } := by
  obtain ⟨g, rfl⟩ := controlWrite_eq hw
  exact ⟨g, rfl⟩

/-- Of an image's target writes each is a word of a slot, which the image covers, or changes the zone map alone. -/
theorem imageWrite_cases {i : Image} {w : Store → Store} (hw : w ∈ i.targetWrites) :
    (∃ n img k, w = writeSlotWord n img k) ∨
      ∃ g : Copies ZoneMap → Copies ZoneMap, w = fun st => { st with zone := g st.zone } := by
  match i, hw with
  | .slot n true img, hw =>
    obtain ⟨k, -, rfl⟩ := List.mem_map.1 hw
    exact .inl ⟨n, img, k, rfl⟩
  | .slot n false img, hw =>
    rw [List.mem_singleton.1 hw]
    exact .inl ⟨n, img, 0, rfl⟩
  | .zone m, hw => exact .inr (zoneWrite_eq hw)

theorem putImage_write {i j : Image} {w : Store → Store} (hw : w ∈ i.targetWrites) {st : Store} (h : st.canonical = true) :
    (w st).putImage j = st.putImage j ∨ (w st).putImage j = w (st.putImage j) := by
  rcases imageWrite_cases hw with ⟨n, img, k, rfl⟩ | ⟨g, rfl⟩
  · exact putImage_slotWord h n img k j
  · cases j with
    | zone m => exact .inl rfl
    | slot n whole img => cases whole <;> exact .inr rfl

/-- An image at its target does not show its own writes made before. -/
theorem putImage_ownWrite {i : Image} {w : Store → Store} (hw : w ∈ i.targetWrites) {st : Store} (h : st.canonical = true) :
    (w st).putImage i = st.putImage i := by
  match i, hw with
  | .slot n true img, hw =>
    obtain ⟨k, -, rfl⟩ := List.mem_map.1 hw
    exact Store.setSlot_setSlot h n _ _
  | .slot n false img, hw =>
    rw [List.mem_singleton.1 hw]
    simp only [writeSlotWord, Store.putImage, Store.slot_setSlot h, if_pos, Store.setSlot_setSlot h, Block.putWord,
      SlotImg.setWord, List.set_set]
  | .zone m, hw =>
    obtain ⟨g, rfl⟩ := zoneWrite_eq hw
    rfl

theorem putImages_ownWrite {i : Image} {w : Store → Store} (hw : w ∈ i.targetWrites) {l : List Image} (hi : i ∈ l) :
    ∀ {st : Store}, st.canonical = true → l.foldl Store.putImage (w st) = l.foldl Store.putImage st := by
  induction l with
  | nil => cases hi
  | cons j l ih =>
    intro st h
    rw [List.foldl_cons, List.foldl_cons]
    by_cases hij : i = j
    · rw [← hij, putImage_ownWrite hw h]
    · rcases putImage_write (j := j) hw h with hsame | hcomm
      · rw [hsame]
      · rw [hcomm]
        exact ih ((List.mem_cons.1 hi).resolve_left hij) (Store.canonical_putImage h j)

/-- What an image at its target leaves alone, a list of them leaves alone. -/
theorem putImages_comm {u : Store → Store} (hu : ∀ st i, (u st).putImage i = u (st.putImage i)) (l : List Image) (st : Store) :
    l.foldl Store.putImage (u st) = u (l.foldl Store.putImage st) :=
  List.foldl_hom u fun st i => hu st i

theorem sessionWrite_eq {p : Nat × SessEntry} {w : Store → Store} (hw : w ∈ (sessionWord p.1).bothWrites p.2) (st : Store) :
    ∃ x, w st = st.setSession p.1 x := by
  rcases List.mem_append.1 hw with hw | hw
  · obtain ⟨k, -, rfl⟩ := List.mem_map.1 hw
    exact ⟨_, rfl⟩
  · obtain ⟨k, -, rfl⟩ := List.mem_map.1 hw
    exact ⟨_, rfl⟩

/-- Any target write of a commit, made before the whole of it, shows nothing behind it (R139). -/
theorem putCommit_ownWrite {c : Commit} {w : Store → Store} (hw : w ∈ c.targetWrites) {st : Store}
    (h : st.canonical = true) : (w st).putCommit c = st.putCommit c := by
  obtain ⟨images, session, token, nonce, flags⟩ := c
  simp only [Commit.targetWrites, List.mem_append, List.mem_flatMap] at hw
  rcases hw with (((⟨i, hi, hw⟩ | hw) | hw) | hw) | hw
  · rw [Store.putCommit, putImages_ownWrite hw hi h]
    rfl
  · cases session with
    | none => cases hw
    | some p =>
      obtain ⟨x, hx⟩ := sessionWrite_eq hw st
      have himages := putImages_comm (u := fun st => st.setSession p.1 x)
        (fun st i => Store.setSession_putImage st p.1 x i) images st
      have hput : ((images.foldl Store.putImage st).setSession p.1 x).putEntry p =
          (images.foldl Store.putImage st).putEntry p :=
        Store.setSession_setSession (foldl_images images h).2 p.1 x _
      rw [hx, Store.putCommit, Store.putCommit, himages]
      simp only [Option.elim_some, hput]
  · cases token with
    | none => cases hw
    | some v =>
      obtain ⟨g, rfl⟩ := controlWrite_eq hw
      have himages := putImages_comm (u := fun st' => { st' with token := g st.token })
        (fun st i => by rcases i with ⟨n, _ | _, img⟩ | m <;> rfl) images st
      show Store.putCommit { st with token := g st.token } _ = _
      simp only [Store.putCommit, himages]
      cases session <;> rfl
  · cases nonce with
    | none => cases hw
    | some v =>
      obtain ⟨g, rfl⟩ := controlWrite_eq hw
      have himages := putImages_comm (u := fun st' => { st' with nonce := g st.nonce })
        (fun st i => by rcases i with ⟨n, _ | _, img⟩ | m <;> rfl) images st
      show Store.putCommit { st with nonce := g st.nonce } _ = _
      simp only [Store.putCommit, himages]
      cases session <;> cases token <;> rfl
  · cases flags with
    | none => cases hw
    | some v =>
      obtain ⟨g, rfl⟩ := controlWrite_eq hw
      have himages := putImages_comm (u := fun st' => { st' with flags := g st.flags })
        (fun st i => by rcases i with ⟨n, _ | _, img⟩ | m <;> rfl) images st
      show Store.putCommit { st with flags := g st.flags } _ = _
      simp only [Store.putCommit, himages]
      cases session <;> cases token <;> cases nonce <;> rfl

theorem targetWrite_intent {c : Commit} {w : Store → Store} (hw : w ∈ c.targetWrites) (st : Store) :
    (w st).intent = st.intent := by
  simp only [Commit.targetWrites, List.mem_append, List.mem_flatMap] at hw
  rcases hw with (((⟨i, -, hw⟩ | hw) | hw) | hw) | hw
  · rcases imageWrite_cases hw with ⟨n, img, k, rfl⟩ | ⟨g, rfl⟩ <;> rfl
  · cases hs : c.session with
    | none => rw [hs] at hw; cases hw
    | some p =>
      rw [hs] at hw
      obtain ⟨x, hx⟩ := sessionWrite_eq hw st
      rw [hx]
      rfl
  · cases hs : c.token with
    | none => rw [hs] at hw; cases hw
    | some p =>
      rw [hs] at hw
      obtain ⟨g, rfl⟩ := controlWrite_eq hw
      rfl
  · cases hs : c.nonce with
    | none => rw [hs] at hw; cases hw
    | some p =>
      rw [hs] at hw
      obtain ⟨g, rfl⟩ := controlWrite_eq hw
      rfl
  · cases hs : c.flags with
    | none => rw [hs] at hw; cases hw
    | some p =>
      rw [hs] at hw
      obtain ⟨g, rfl⟩ := controlWrite_eq hw
      rfl

/-- Some of a commit's target writes made: the intent area is as it was, and the whole commit leaves what it left. -/
theorem partlyWritten {c : Commit} (j : Nat) {st : Store} (h : st.canonical = true) :
    ((c.targetWrites.take j).foldl (fun st w => w st) st).canonical = true ∧
      ((c.targetWrites.take j).foldl (fun st w => w st) st).intent = st.intent ∧
      ((c.targetWrites.take j).foldl (fun st w => w st) st).putCommit c = st.putCommit c :=
  foldl_writes_induct (P := fun x => x.canonical = true ∧ x.intent = st.intent ∧ x.putCommit c = st.putCommit c)
    (fun w hw x ⟨hx, hintent, hput⟩ =>
      have hw := List.mem_of_mem_take hw
      ⟨keepsCanonical_targets c w hw x hx, (targetWrite_intent hw x).trans hintent, (putCommit_ownWrite hw hx).trans hput⟩)
    ⟨h, rfl, rfl⟩

/-! ### Step 1 of the commit (R138) -/

/-- A place of the intent area carries what a commit has for it, with words that can be read. -/
def Place.carries {α : Type} (p : Place α) (o : Option α) : Prop := (if p.present then some p.block.val else none) = o

theorem Place.carries_none {α : Type} {p : Place α} (h : p.present = false) : p.carries none := by
  rw [Place.carries, h]
  rfl

theorem Place.carries_some {α : Type} {p : Place α} (h : p.present = true) : p.carries (some p.block.val) := by
  rw [Place.carries, h]
  rfl

/-- Words written one behind the other read without error, whatever they held. -/
theorem foldl_setGood (es : List Ecc) : ∀ k, readable ((((List.range k).foldl (fun x j => x.set j .good) es)).take k) = true
  | 0 => rfl
  | k + 1 => by
    rw [List.range_succ, List.foldl_append, List.foldl_cons, List.foldl_nil]
    have hbefore := foldl_setGood es k
    generalize (List.range k).foldl (fun x j => x.set j .good) es = x at hbefore ⊢
    rw [readable, List.all_eq_true] at hbefore ⊢
    intro e he
    obtain ⟨i, hi, rfl⟩ := List.mem_take_iff_getElem.1 he
    rw [List.getElem_set]
    split
    · rfl
    next hne =>
      rw [List.length_set] at hi
      exact hbefore _ (List.mem_take_iff_getElem.2 ⟨i, by omega, rfl⟩)

theorem Intent.image_setImage (x : Intent) (i : Nat) (p : Place Image) : (x.setImage i p).image i = p := by
  match i with
  | 0 => rfl
  | 1 => rfl
  | 2 => rfl
  | _ + 3 => rfl

theorem Intent.setImage_setImage (x : Intent) (i : Nat) (p q : Place Image) :
    (x.setImage i p).setImage i q = x.setImage i q := by
  match i with
  | 0 => rfl
  | 1 => rfl
  | 2 => rfl
  | _ + 3 => rfl

theorem Intent.setImage_image (x : Intent) (i : Nat) : x.setImage i (x.image i) = x := by
  match i with
  | 0 => rfl
  | 1 => rfl
  | 2 => rfl
  | _ + 3 => rfl

/-- An image place with words of its image written. -/
def Place.written (img : Image) (ks : List Nat) (p : Place Image) : Place Image :=
  ks.foldl (fun p k => { p with block := { val := img, ecc := p.block.ecc.set k .good } }) p

theorem Place.written_spec (img : Image) : ∀ (ks : List Nat) (p : Place Image),
    (Place.written img ks p).block.ecc = ks.foldl (fun x j => x.set j .good) p.block.ecc ∧
      (ks ≠ [] → (Place.written img ks p).block.val = img)
  | [], _ => ⟨rfl, fun h => absurd rfl h⟩
  | k :: ks, p => by
    obtain ⟨hecc, hval⟩ := Place.written_spec img ks { p with block := { val := img, ecc := p.block.ecc.set k .good } }
    refine ⟨hecc, fun _ => ?_⟩
    cases ks with
    | nil => rfl
    | cons j js => exact hval (List.cons_ne_nil _ _)

theorem foldl_imageWords (i : Nat) (img : Image) : ∀ (ks : List Nat) (st : Store),
    (ks.map (fun k => Store.onIntent fun x => x.setImage i { x.image i with
      block := { val := img, ecc := (x.image i).block.ecc.set k .good } })).foldl (fun st w => w st) st =
      st.onIntent fun x => x.setImage i (Place.written img ks (x.image i))
  | [], st => by
    show st = { st with intent := st.intent.setImage i (st.intent.image i) }
    rw [Intent.setImage_image]
  | k :: ks, st => by
    rw [List.map_cons, List.foldl_cons, foldl_imageWords i img ks]
    simp only [Store.onIntent, Intent.image_setImage, Intent.setImage_setImage]
    rfl

theorem Image.words_pos (img : Image) : 0 < img.words := by
  rcases img with ⟨n, _ | _, x⟩ | m <;> exact Nat.succ_pos _

/-- Step 1 of the commit for an image place: it carries the image, or nothing. -/
theorem foldl_imagePlace (i : Nat) (o : Option Image) (st : Store) : ∃ p : Place Image,
    (imagePlaceWrites i o).foldl (fun st w => w st) st = (st.onIntent fun x => x.setImage i p) ∧ p.carries o ∧
      readable (imageEcc p) = true := by
  cases o with
  | none => exact ⟨_, rfl, Place.carries_none rfl, rfl⟩
  | some img =>
    obtain ⟨hecc, hval⟩ := Place.written_spec img (List.range img.words) (st.intent.image i)
    have hval := hval (List.range_eq_nil.not.2 (Nat.ne_of_gt img.words_pos))
    refine ⟨{ Place.written img (List.range img.words) (st.intent.image i) with present := true }, ?_, ?_, ?_⟩
    · rw [imagePlaceWrites, List.foldl_append, foldl_imageWords]
      simp only [List.foldl_cons, List.foldl_nil, Store.onIntent, Intent.image_setImage, Intent.setImage_setImage]
    · exact (congrArg (fun v => some v) hval : (if true then some _ else none) = some img)
    · rw [imageEcc, if_pos rfl]
      dsimp only
      rw [hval, hecc]
      exact foldl_setGood _ _

/-- Step 1 of the commit for a place of one word. -/
theorem foldl_wordPlace {α : Type} {get : Intent → Place α} {set : Intent → Place α → Intent} (o : Option α) (st : Store)
    (hget : ∀ x p, get (set x p) = p) (hset : ∀ x p q, set (set x p) q = set x q) : ∃ p : Place α,
    (wordPlaceWrites get set o).foldl (fun st w => w st) st = (st.onIntent fun x => set x p) ∧ p.carries o ∧
      readable (wordEcc p) = true := by
  cases o with
  | none => exact ⟨_, rfl, Place.carries_none rfl, rfl⟩
  | some v =>
    refine ⟨{ present := true, block := Block.one v }, ?_, Place.carries_some rfl, rfl⟩
    simp only [wordPlaceWrites, List.foldl_cons, List.foldl_nil, Store.onIntent, hget, hset]

theorem List.getElem?_toList_four {α : Type} {l : List α} (h : l.length ≤ 4) :
    l[0]?.toList ++ l[1]?.toList ++ l[2]?.toList ++ l[3]?.toList = l := by
  match l, h with
  | [], _ => rfl
  | [_], _ => rfl
  | [_, _], _ => rfl
  | [_, _, _], _ => rfl
  | [_, _, _, _], _ => rfl

theorem Place.carries.toList {α : Type} {p : Place α} {o : Option α} (h : p.carries o) :
    (if p.present then [p.block.val] else []) = o.toList := by
  rw [← show (if p.present then some p.block.val else none) = o from h]
  split <;> rfl

/-- An intent area that owes a commit, every word of its places readable. -/
structure Intent.carries (x : Intent) (c : Commit) : Prop where
  owed    : x.owed = c
  checked : (x.checked.all fun p => readable p.2) = true

theorem foldl_append_onIntent {ws ws' : List (Store → Store)} {st : Store} {f g : Intent → Intent}
    (h : ws.foldl (fun st w => w st) st = st.onIntent f)
    (h' : ws'.foldl (fun st w => w st) (st.onIntent f) = (st.onIntent f).onIntent g) :
    (ws ++ ws').foldl (fun st w => w st) st = st.onIntent fun x => g (f x) := by
  rw [List.foldl_append, h, h']
  rfl

/-- Step 1 of the commit for the four image places. -/
theorem foldl_imagePlaces (l : List Image) (hlen : l.length ≤ 4) (st : Store) : ∃ p1 p2 p3 p4 : Place Image,
    (imagePlaceWrites 0 l[0]? ++ imagePlaceWrites 1 l[1]? ++ imagePlaceWrites 2 l[2]? ++ imagePlaceWrites 3 l[3]?).foldl
      (fun st w => w st) st =
      st.onIntent (fun x => { x with image1 := p1, image2 := p2, image3 := p3, image4 := p4 }) ∧
    (if p1.present then [p1.block.val] else []) ++ (if p2.present then [p2.block.val] else []) ++
      (if p3.present then [p3.block.val] else []) ++ (if p4.present then [p4.block.val] else []) = l ∧
    ∀ p ∈ [p1, p2, p3, p4], readable (imageEcc p) = true := by
  obtain ⟨p1, h1, c1, r1⟩ := foldl_imagePlace 0 l[0]? st
  obtain ⟨p2, h2, c2, r2⟩ := foldl_imagePlace 1 l[1]? (st.onIntent fun x => x.setImage 0 p1)
  obtain ⟨p3, h3, c3, r3⟩ := foldl_imagePlace 2 l[2]? (st.onIntent fun x => (x.setImage 0 p1).setImage 1 p2)
  obtain ⟨p4, h4, c4, r4⟩ := foldl_imagePlace 3 l[3]?
    (st.onIntent fun x => ((x.setImage 0 p1).setImage 1 p2).setImage 2 p3)
  refine ⟨p1, p2, p3, p4, ?_, ?_, ?_⟩
  · exact foldl_append_onIntent (foldl_append_onIntent (foldl_append_onIntent h1 h2) h3) h4
  · rw [c1.toList, c2.toList, c3.toList, c4.toList, List.getElem?_toList_four hlen]
  · simp only [List.mem_cons, List.not_mem_nil, or_false, forall_eq_or_imp, forall_eq]
    exact ⟨r1, r2, r3, r4⟩

/-- Step 1 of the commit for the four places of one word. -/
theorem foldl_wordPlaces (c : Commit) (st : Store) : ∃ (p5 : Place (Nat × SessEntry)) (p6 : Place Token) (p7 : Place Nonce)
    (p8 : Place StoreFlags),
    (wordPlaceWrites Intent.session (fun x p => { x with session := p }) c.session ++
      wordPlaceWrites Intent.token (fun x p => { x with token := p }) c.token ++
      wordPlaceWrites Intent.nonce (fun x p => { x with nonce := p }) c.nonce ++
      wordPlaceWrites Intent.flags (fun x p => { x with flags := p }) c.flags).foldl (fun st w => w st) st =
      st.onIntent (fun x => { x with session := p5, token := p6, nonce := p7, flags := p8 }) ∧
    (p5.carries c.session ∧ p6.carries c.token ∧ p7.carries c.nonce ∧ p8.carries c.flags) ∧
    readable (wordEcc p5) = true ∧ readable (wordEcc p6) = true ∧ readable (wordEcc p7) = true ∧
      readable (wordEcc p8) = true := by
  obtain ⟨p5, h5, c5, r5⟩ := foldl_wordPlace (get := Intent.session) (set := fun x p => { x with session := p })
    c.session st (fun _ _ => rfl) (fun _ _ _ => rfl)
  obtain ⟨p6, h6, c6, r6⟩ := foldl_wordPlace (get := Intent.token) (set := fun x p => { x with token := p })
    c.token (st.onIntent fun x => { x with session := p5 }) (fun _ _ => rfl) (fun _ _ _ => rfl)
  obtain ⟨p7, h7, c7, r7⟩ := foldl_wordPlace (get := Intent.nonce) (set := fun x p => { x with nonce := p })
    c.nonce (st.onIntent fun x => { x with session := p5, token := p6 }) (fun _ _ => rfl) (fun _ _ _ => rfl)
  obtain ⟨p8, h8, c8, r8⟩ := foldl_wordPlace (get := Intent.flags) (set := fun x p => { x with flags := p })
    c.flags (st.onIntent fun x => { x with session := p5, token := p6, nonce := p7 }) (fun _ _ => rfl) (fun _ _ _ => rfl)
  refine ⟨p5, p6, p7, p8, ?_, ⟨c5, c6, c7, c8⟩, r5, r6, r7, r8⟩
  exact foldl_append_onIntent (foldl_append_onIntent (foldl_append_onIntent h5 h6) h7) h8

/-- Step 1 of the commit: the intent area owes the commit, its marker as it was (R138). -/
theorem foldl_intentWrites {c : Commit} (hlen : c.images.length ≤ 4) (st : Store) :
    ∃ x : Intent, c.intentWrites.foldl (fun st w => w st) st = { st with intent := x } ∧ x.carries c ∧
      x.marker = st.intent.marker := by
  obtain ⟨p1, p2, p3, p4, himages, howed, hgood⟩ := foldl_imagePlaces c.images hlen st
  simp only [List.mem_cons, List.not_mem_nil, or_false, forall_eq_or_imp, forall_eq] at hgood
  obtain ⟨r1, r2, r3, r4⟩ := hgood
  obtain ⟨p5, p6, p7, p8, hwords, ⟨c5, c6, c7, c8⟩, r5, r6, r7, r8⟩ := foldl_wordPlaces c
    (st.onIntent fun x => { x with image1 := p1, image2 := p2, image3 := p3, image4 := p4 })
  refine ⟨{ marker := st.intent.marker, image1 := p1, image2 := p2, image3 := p3, image4 := p4, session := p5,
            token := p6, nonce := p7, flags := p8 }, ?_, ⟨?_, ?_⟩, rfl⟩
  · rw [List.foldl_append, List.foldl_append, List.foldl_append] at himages hwords
    simp only [Commit.intentWrites, Commit.placeWrites, List.flatten_cons, List.flatten_nil, List.foldl_append,
      List.foldl_nil]
    rw [himages, hwords]
    rfl
  · obtain ⟨images, session, token, nonce, flags⟩ := c
    exact Commit.mk.injEq .. |>.mpr ⟨howed, c5, c6, c7, c8⟩
  · simp only [Intent.checked, List.all_cons, List.all_nil, r1, r2, r3, r4, r5, r6, r7, r8, Bool.and_true]

theorem imagePlaceWrite_marker {i : Nat} {o : Option Image} {w : Store → Store} (hw : w ∈ imagePlaceWrites i o) (st : Store) :
    (w st).intent.marker = st.intent.marker := by
  have hset : ∀ (x : Intent) p, (x.setImage i p).marker = x.marker := fun x p => by
    unfold Intent.setImage
    split <;> rfl
  cases o with
  | none =>
    rw [List.mem_singleton.1 hw]
    exact hset _ _
  | some img =>
    rcases List.mem_append.1 hw with hw | hw
    · obtain ⟨k, -, rfl⟩ := List.mem_map.1 hw
      exact hset _ _
    · rw [List.mem_singleton.1 hw]
      exact hset _ _

theorem wordPlaceWrite_marker {α : Type} {get : Intent → Place α} {set : Intent → Place α → Intent} {o : Option α}
    {w : Store → Store} (hw : w ∈ wordPlaceWrites get set o) (hset : ∀ x p, (set x p).marker = x.marker) (st : Store) :
    (w st).intent.marker = st.intent.marker := by
  cases o with
  | none =>
    rw [List.mem_singleton.1 hw]
    exact hset _ _
  | some v =>
    rcases List.mem_cons.1 hw with rfl | hw
    · exact hset _ _
    · rw [List.mem_singleton.1 hw]
      exact hset _ _

/-- The word writes of step 1 leave the marker as it is. -/
theorem intentWrite_marker {c : Commit} {w : Store → Store} (hw : w ∈ c.intentWrites) (st : Store) :
    (w st).intent.marker = st.intent.marker := by
  obtain ⟨ws, hws, hw⟩ := List.mem_flatten.1 hw
  simp only [Commit.placeWrites, List.mem_cons, List.not_mem_nil, or_false] at hws
  rcases hws with rfl | rfl | rfl | rfl | rfl | rfl | rfl | rfl
  · exact imagePlaceWrite_marker hw st
  · exact imagePlaceWrite_marker hw st
  · exact imagePlaceWrite_marker hw st
  · exact imagePlaceWrite_marker hw st
  · exact wordPlaceWrite_marker hw (fun _ _ => rfl) st
  · exact wordPlaceWrite_marker hw (fun _ _ => rfl) st
  · exact wordPlaceWrite_marker hw (fun _ _ => rfl) st
  · exact wordPlaceWrite_marker hw (fun _ _ => rfl) st

/-! ### The replay (R140) -/

/-- A marker that is clear: there is nothing to replay. -/
theorem State.replay_clear {s : State} (h : s.store.intent.marker = Copies.two false) : s.replay = s := by
  rw [State.replay]
  dsimp only
  rw [h, show (Copies.two false).c1.ecc = List.replicate 1 Ecc.good from rfl, State.logWords_good,
    State.logWords_good, if_neg (by decide)]
  split
  · rfl
  · exact State.writes_nil s

/-- A marker with both copies good, one of them at least VALID. -/
def Copies.marked (m : Copies Bool) : Prop := ∃ a b : Bool, m = { c1 := Block.one a, c2 := Block.one b } ∧ (a || b) = true

theorem Monitor.logPlaces_fault : ∀ (ps : List (Nat × List Ecc)) (s : State),
    ∃ m, s.logPlaces ps = s.setMon m ∧ s.main.mon.logged m
  | [], s => ⟨s.main.mon, rfl, _, _, _, rfl⟩
  | p :: ps, s => by
    obtain ⟨m, hm, hlog⟩ := Monitor.logPlaces_fault ps (s.logWords .intent p.1 0 p.2)
    exact ⟨m, hm, (Monitor.logged_logWords _ _ _ _ _ _).trans hlog⟩

/-- The replay of an intent area that owes a commit makes it whole (R140). -/
theorem State.replay_owed {s : State} {c : Commit} (hcut : s.cut = none) (hcan : s.store.canonical = true)
    (hm : s.store.intent.marker.marked) (hc : s.store.intent.carries c) :
    s.replay.store.coreEq (s.store.putCommit c) ∧ s.replay.store.intent.marker = Copies.two false ∧
      s.replay.main.mon.fault = s.main.mon.fault := by
  obtain ⟨a, b, hm, hab⟩ := hm
  obtain ⟨mon, hplaces, hlogged⟩ := Monitor.logPlaces_fault s.store.intent.checked s
  have hreplay : s.replay = (s.logPlaces s.store.intent.checked).writes (c.targetWrites ++ markerWrites false) := by
    rw [State.replay]
    dsimp only
    rw [hm, show (Block.one a).ecc = List.replicate 1 Ecc.good from rfl, State.logWords_good, State.logWords_good,
      if_pos (show markerValid { c1 := Block.one a, c2 := Block.one b } = true by
        simpa [markerValid, readable, Block.one] using hab),
      if_pos (show s.store.intent.replayable = true by rw [Intent.replayable, hm, hc.checked]; rfl), hc.owed]
  obtain ⟨hput, -⟩ := foldl_targets c hcan
  have hstore : s.replay.store = (markerWrites false).foldl (fun st w => w st) (s.store.putCommit c) := by
    rw [hreplay, hplaces, State.writes_store (s := s.setMon mon) hcut, List.foldl_append]
    exact congrArg (List.foldl _ · _) hput
  rw [hstore, hreplay, hplaces]
  refine ⟨⟨rfl, rfl, rfl, rfl, rfl, rfl⟩, rfl, ?_⟩
  obtain ⟨_, _, _, rfl⟩ := hlogged
  rfl

/-! ### A commit cut short -/

/-- What the first word writes of a commit leave: what a replay at restart makes of it is the store as it was, or the
whole commit (R139). -/
inductive Store.cutShort (c : Commit) (st x : Store) : Prop
  /-- The marker is not VALID yet: nothing but the intent area has changed. -/
  | before (core : x.coreEq st) (clear : x.intent.marker = Copies.two false)
  /-- The marker is VALID: the intent area owes the commit, whatever of it stands at its target. -/
  | owing (canonical : x.canonical = true) (owed : x.intent.carries c) (marked : x.intent.marker.marked)
      (whole : (x.putCommit c).coreEq (st.putCommit c))
  /-- The marker is clear again. -/
  | after (core : x.coreEq (st.putCommit c)) (clear : x.intent.marker = Copies.two false)

/-- Some word writes of step 1. -/
theorem foldl_intentWrites_take {c : Commit} (n : Nat) {st : Store} (hm : st.intent.marker = Copies.two false) :
    st.cutShort c ((c.intentWrites.take n).foldl (fun st w => w st) st) := by
  obtain ⟨x, hx⟩ := foldl_onIntent (fun w hw => onIntent_intentWrites c w (List.mem_of_mem_take hw)) st
  refine .before ?_ ?_
  · rw [hx]
    exact ⟨rfl, rfl, rfl, rfl, rfl, rfl⟩
  · exact foldl_writes_induct (P := fun x => x.intent.marker = Copies.two false)
      (fun w hw x hx => (intentWrite_marker (List.mem_of_mem_take hw) x).trans hx) hm

/-- With step 1 done and the marker VALID: what stands at its target does not matter. -/
theorem cutShort_owing {c : Commit} {st : Store} (h : st.canonical = true) {x : Intent} (hx : x.carries c) (a b : Bool)
    (hab : (a || b) = true) (j : Nat) :
    st.cutShort c ((c.targetWrites.take j).foldl (fun st w => w st)
      { st with intent := { x with marker := { c1 := Block.one a, c2 := Block.one b } } }) := by
  obtain ⟨hcan, hintent, hput⟩ := partlyWritten (c := c) j
    (st := { st with intent := { x with marker := { c1 := Block.one a, c2 := Block.one b } } }) h
  refine .owing hcan ?_ ?_ ?_
  · rw [hintent]
    exact ⟨hx.owed, hx.checked⟩
  · rw [hintent]
    exact ⟨a, b, rfl, hab⟩
  · rw [hput, Store.putCommit_intent]
    exact ⟨rfl, rfl, rfl, rfl, rfl, rfl⟩

/-- With the marker VALID in both copies: some of the target writes, and of those that clear the marker. -/
theorem cutShort_marked {c : Commit} {st : Store} (h : st.canonical = true) {x : Intent} (hx : x.carries c) (k : Nat) :
    st.cutShort c (((c.targetWrites ++ markerWrites false).take k).foldl (fun st w => w st)
      { st with intent := { x with marker := { c1 := Block.one true, c2 := Block.one true } } }) := by
  rw [List.take_append]
  rcases Nat.le_total k c.targetWrites.length with hle | hge
  · rw [Nat.sub_eq_zero_of_le hle, List.take_zero, List.append_nil]
    exact cutShort_owing h hx true true rfl k
  · obtain ⟨hall, hcan⟩ := foldl_targets c h
    have hagain : (st.putCommit c).putCommit c = st.putCommit c := by
      have hput := (partlyWritten (c := c) c.targetWrites.length h).2.2
      rwa [List.take_length, hall] at hput
    rw [List.take_of_length_le hge, List.foldl_append, (foldl_targets c (by exact h)).1, Store.putCommit_intent]
    match k - c.targetWrites.length with
    | 0 =>
      refine .owing hcan ⟨hx.owed, hx.checked⟩ ⟨true, true, rfl, rfl⟩ ?_
      rw [List.take_zero, List.foldl_nil, Store.putCommit_intent, hagain]
      exact ⟨rfl, rfl, rfl, rfl, rfl, rfl⟩
    | 1 =>
      refine .owing hcan ⟨hx.owed, hx.checked⟩ ⟨false, true, rfl, rfl⟩ ?_
      show (Store.putCommit { st.putCommit c with intent := _ } c).coreEq _
      rw [Store.putCommit_intent, hagain]
      exact ⟨rfl, rfl, rfl, rfl, rfl, rfl⟩
    | _ + 2 =>
      rw [List.take_of_length_le (show (markerWrites false).length ≤ _ + 2 from Nat.le_add_left 2 _)]
      exact .after ⟨rfl, rfl, rfl, rfl, rfl, rfl⟩ rfl

/-- A commit cut short by a loss of power, wherever (R138, R139). -/
theorem cutShort_writes {c : Commit} (hlen : c.images.length ≤ 4) {st : Store} (h : st.canonical = true)
    (hm : st.intent.marker = Copies.two false) (n : Nat) :
    st.cutShort c ((c.writes.take n).foldl (fun st w => w st) st) := by
  rw [Commit.writes, List.append_assoc, List.append_assoc, List.take_append]
  rcases Nat.lt_or_ge c.intentWrites.length n with hlt | hle
  case inr =>
    rw [Nat.sub_eq_zero_of_le hle, List.take_zero, List.append_nil]
    exact foldl_intentWrites_take n hm
  obtain ⟨x, hx, hcarries, hclear⟩ := foldl_intentWrites hlen st
  rw [hm] at hclear
  obtain ⟨m, hmn⟩ : ∃ m, n - c.intentWrites.length = m + 1 := ⟨n - c.intentWrites.length - 1, by omega⟩
  rw [List.take_of_length_le (Nat.le_of_lt hlt), List.foldl_append, hx, hmn]
  cases m with
  | zero =>
    have hone := cutShort_owing h hcarries true false rfl 0
    rw [List.take_zero, List.foldl_nil, show Block.one false = x.marker.c2 by rw [hclear]] at hone
    exact hone
  | succ k => exact cutShort_marked h hcarries k

/-- A loss of power during a commit, and the replay at the main reset that follows (R139, R140, R166). -/
theorem State.replay_cutShort {s : State} {c : Commit} {n : Nat} (hcan : s.canonical) (hcut : s.cut = some n)
    (hm : s.store.intent.marker = Copies.two false) (hlen : c.images.length ≤ 4) {t : State}
    (ht : t = (((s.commit c).setCut none).setMain (Main.atReset false 0)).replay) :
    (t.store.coreEq s.store ∨ t.store.coreEq (s.store.putCommit c)) ∧ ¬ t.inFault ∧
      t.store.intent.marker = Copies.two false := by
  have hstore : (s.commit c).store = (c.writes.take n).foldl (fun st w => w st) s.store := by
    rw [State.commit, State.writes, hcut]
    rfl
  have hshort := cutShort_writes hlen (show s.store.canonical = true from hcan) hm n
  rw [← hstore] at hshort
  subst ht
  have hnofault : ¬ (((s.commit c).setCut none).setMain (Main.atReset false 0)).inFault := Bool.false_ne_true
  cases hshort with
  | before core clear => rw [State.replay_clear (by exact clear)]; exact ⟨.inl core, hnofault, clear⟩
  | owing canonical owed marked whole =>
    obtain ⟨hput, hclear, hfault⟩ :=
      State.replay_owed (s := ((s.commit c).setCut none).setMain (Main.atReset false 0)) rfl canonical marked owed
    refine ⟨.inr (hput.trans whole), ?_, hclear⟩
    rw [State.inFault, hfault]
    exact hnofault
  | after core clear => rw [State.replay_clear (by exact clear)]; exact ⟨.inr core, hnofault, clear⟩

/-! ### Work that a main reset stops (R166) -/

/-- No word write is made, and none was. -/
def State.unwritten (st : Store) (s : State) : Prop := s.store = st ∧ s.cut = some 0

theorem steady_unwritten (st : Store) : Steady (State.unwritten st) where
  writes s ws h _ := by
    obtain ⟨hstore, hcut⟩ := h
    constructor
    · rw [State.writes, hcut]
      exact hstore
    · rw [State.writes, hcut]
      exact congrArg some (Nat.zero_sub _)
  mon _ _ h _ := h
  index _ _ h _ := h
  free _ _ h := h
  quar _ _ h _ := h
  pool _ _ h _ := h
  queues _ _ h _ := h
  sessV _ _ h _ := h
  notices _ _ h _ _ := h
  attn _ _ h := h
  audit _ _ h := h
  insert _ _ _ _ h := h
  move _ _ _ _ h := h
  remove _ _ h := h
  clear _ h := h

/-- Work that is stopped before its first word write leaves the store. -/
theorem State.stopped_unwritten (s : State) (w : Work) : (s.stopped w 0).store = s.store :=
  ((steady_unwritten s.store).work (fun _ _ _ h => h) (fun _ _ h => h) (fun _ h => h) w (s.setCut (some 0)) ⟨rfl, rfl⟩).1

theorem takeVddLoss_store {s : State} (w : Work) (n : Nat) (hvdd : s.power.vdd = true) (hactive : s.isActive) :
    (takeVddLoss w n s).store = (s.stopped w n).store := by
  rw [takeVddLoss, if_pos hvdd, if_pos hactive]
  rfl

/-- What a loss of power lets the work of a frame write: the store that its take leaves. -/
theorem State.stopped_frame {s : State} {i : Instr} {f : Frame}
    (ho : s.offers i f.port) (n : Nat) : (s.stopped .frame n).store = (takeOf i (s.setCut (some n))).store := by
  obtain ⟨-, hhead, -, hdecode⟩ := ho
  obtain ⟨ps, harb⟩ : ∃ ps, s.main.arbiter = f.port :: ps := by
    cases ha : s.main.arbiter with
    | nil => rw [ha] at hhead; cases hhead
    | cons p ps => rw [ha] at hhead; exact ⟨ps, by rw [Option.some.inj hhead]⟩
  show ((s.setCut (some n)).workFrame).store = _
  rw [State.workFrame, show (s.setCut (some n)).main.arbiter = f.port :: ps from harb]
  dsimp only
  rw [show decodeFrame f.port ((s.setCut (some n)).port f.port).cmdBuf = some i from hdecode]

/-- The checks of a frame do not depend on where a loss of power will come. -/
theorem State.takenTo_setCut {s s1 : State} {i : Instr} {f : Frame} (h : s.takenTo i f s1) (cut : Option Nat) :
    (s.setCut cut).takenTo i f (s1.setCut cut) := by
  obtain ⟨m, cmd, hframe, hmarks, hoffers, hsup, hfault, hcheck, hlen⟩ := h
  refine ⟨m, cmd, hframe, hmarks, hoffers, hsup, hfault, ?_, hlen⟩
  unfold State.checkedTo at hcheck ⊢
  revert hcheck
  cases m.need with
  | skip => exact fun hcheck => congrArg (State.setCut · cut) hcheck
  | needs =>
    rintro ⟨e, hpasses, rfl⟩
    exact ⟨e, hpasses, rfl⟩
  | may =>
    rintro (⟨hno, rfl⟩ | ⟨e, hpasses, rfl⟩)
    · exact .inl ⟨hno, rfl⟩
    · exact .inr ⟨e, hpasses, rfl⟩
  | orSupervisor =>
    rintro (⟨hno, hport, rfl⟩ | ⟨e, hpasses, rfl⟩)
    · exact .inl ⟨hno, hport, rfl⟩
    · exact .inr ⟨e, hpasses, rfl⟩

/-- Settles O55: the replay of a commit cut short; work without a word write; and the one commit that an ACQUIRE that
grants at once makes, wherever it is cut. -/
theorem commitIsAtomicUnderPowerLoss : Obligations.CommitIsAtomicUnderPowerLoss := by
  refine ⟨fun s c n t hcan hcut hm hlen ht => State.replay_cutShort hcan hcut hm hlen ht, fun s t w supsel h => ?_, ?_⟩
  · rcases h with h | h <;> obtain rfl := Host.Outcome.next.inj h
    · show (takeVddLoss w 0 s).store = _
      by_cases hvdd : s.power.vdd
      · by_cases hactive : s.isActive
        · rw [takeVddLoss_store w 0 hvdd hactive, State.stopped_unwritten]
        · rw [takeVddLoss, if_pos hvdd, if_neg hactive]
          rfl
      · rw [takeVddLoss, if_neg hvdd]
    · show (takeResetLow supsel w 0 s).store = _
      unfold takeResetLow
      split
      · by_cases hactive : s.isActive
        · rw [if_pos hactive]
          exact State.stopped_unwritten s w
        · rw [if_neg hactive]
          rfl
      · rfl
  · rintro s s1 t f k n j m _ tok term _ _ htaken hkey hk hm hrest rfl hholding hnone hadm hqueue hterm hle htok rfl
      hvdd hexec
    obtain rfl := Host.Outcome.next.inj hexec
    obtain ⟨hoffers, -⟩ := marksOf_eq htaken rfl
    have hrest' : (s1.setCut (some j)).atRest k n := State.atRest_congr hrest rfl rfl rfl rfl
    have hwork := acquireWork_grants (s := s1.setCut (some j)) hkey hk hm hrest' hholding hnone hadm hqueue hterm hle htok
    have hexec := Host.Outcome.next.inj (exec_of_work (State.takenTo_setCut htaken (some j)) rfl rfl hwork)
    rw [show (s1.setCut (some j)).now = s.now from (State.takenTo_now htaken : s1.now = s.now)] at hexec
    show (takeVddLoss .frame j s).store = _
    rw [takeVddLoss_store .frame j hvdd (.inr hoffers.1), State.stopped_frame hoffers,
      show takeOf (.acquire f) (s.setCut (some j)) = _ from hexec]
    simp only [State.respond_store, State.schedInsert_store, State.recordKept_store]
    rfl

end Sys2Proof.Machine
end

section
/-! PROOFS. ACQUIRE SET: its list, the checks of its keys, and its grants in one commit (R32 to R34). -/

namespace Sys2Proof.Machine

/-! ### The list (R32, R188) -/

theorem setItems_eq (args : List Byte) : ∀ n i, setItems args n i =
    (List.range n).map fun j => (keyAt args (i + 5 * j), byteAt args (i + 4 + 5 * j))
  | 0, _ => rfl
  | n + 1, i => by
    rw [setItems, setItems_eq args n (i + 5), List.range_succ_eq_map, List.map_cons, List.map_map]
    refine congrArg (_ :: ·) (List.map_congr_left fun j _ => ?_)
    show (keyAt args (i + 5 + 5 * j), byteAt args (i + 5 + 4 + 5 * j)) =
      (keyAt args (i + 5 * (j + 1)), byteAt args (i + 4 + 5 * (j + 1)))
    rw [show i + 5 + 5 * j = i + 5 * (j + 1) by omega, show i + 5 + 4 + 5 * j = i + 4 + 5 * (j + 1) by omega]

/-- An item of the list that passes the checks of R32 behind the keys seen before it. -/
def itemPasses (seen : List Key) (p : Key × Byte) (m : Mode) : Prop :=
  ¬ reservedKey p.1 ∧ modeOf p.2 = some m ∧ p.1 ∉ seen

theorem checkItems_cons {p : Key × Byte} {items : List (Key × Byte)} {seen : List Key} {i : Nat} {m : Mode}
    (h : itemPasses seen p m) {r : Except (Status × Nat) (List (Key × Mode))}
    (hrest : checkItems items (p.1 :: seen) (i + 1) = r) : checkItems (p :: items) seen i = r.map ((p.1, m) :: ·) := by
  obtain ⟨hkey, hmode, hnew⟩ := h
  rw [checkItems, if_neg hkey, hmode]
  dsimp only
  rw [if_neg (by simpa using hnew), hrest]
  cases r <;> rfl

/-- The items read as keys with modes, each passing behind those before it. -/
inductive ItemsPass : List Key → List (Key × Byte) → List (Key × Mode) → Prop
  | nil (seen) : ItemsPass seen [] []
  | cons {seen p m items l} (one : itemPasses seen p m) (rest : ItemsPass (p.1 :: seen) items l) :
      ItemsPass seen (p :: items) ((p.1, m) :: l)

theorem ItemsPass.checkItems {seen : List Key} {items : List (Key × Byte)} {l : List (Key × Mode)}
    (h : ItemsPass seen items l) (i : Nat) : Machine.checkItems items seen i = .ok l := by
  induction h generalizing i with
  | nil => rfl
  | cons one _ ih => exact checkItems_cons one (ih _)

/-- Behind items that pass, the first that fails answers its index. -/
theorem ItemsPass.checkItems_error {seen : List Key} {items : List (Key × Byte)} {l : List (Key × Mode)}
    (h : ItemsPass seen items l) {rest : List (Key × Byte)} {st : Status} (i : Nat)
    (herr : Machine.checkItems rest ((items.map Prod.fst).reverse ++ seen) (i + items.length) = .error (st, i + items.length)) :
    Machine.checkItems (items ++ rest) seen i = .error (st, i + items.length) := by
  induction h generalizing i with
  | nil => exact herr
  | @cons seen p m items l one _ ih =>
    rw [List.map_cons, List.reverse_cons, List.append_assoc, List.singleton_append, List.length_cons,
      ← Nat.add_assoc, Nat.add_right_comm] at herr
    rw [List.cons_append, checkItems_cons one (ih (i + 1) herr), List.length_cons]
    exact congrArg (fun j => Except.error (st, j)) (show i + 1 + items.length = i + (items.length + 1) by omega)

theorem modeOf_isSome {b : Byte} (h : b = 0 ∨ b = 1) : ∃ m, modeOf b = some m := by
  rcases h with rfl | rfl
  · exact ⟨.exclusive, rfl⟩
  · exact ⟨.shared, rfl⟩

theorem modeOf_none {b : Byte} (h0 : b ≠ 0) (h1 : b ≠ 1) : modeOf b = none := by
  rw [modeOf, if_neg h0, if_neg h1]

/-- Items by index, the first of them passing. -/
theorem itemsPass_range (key : Nat → Key) (mode : Nat → Byte) : ∀ (n j : Nat) (seen : List Key),
    (∀ i, i < n → ¬ reservedKey (key (j + i)) ∧ (mode (j + i) = 0 ∨ mode (j + i) = 1) ∧ key (j + i) ∉ seen ∧
      ∀ h, h < i → key (j + h) ≠ key (j + i)) →
    ∃ l, ItemsPass seen ((List.range n).map fun i => (key (j + i), mode (j + i))) l
  | 0, _, seen, _ => ⟨[], .nil seen⟩
  | n + 1, j, seen, h => by
    obtain ⟨hkey, hmode, hnew, -⟩ := h 0 (Nat.succ_pos n)
    obtain ⟨m, hm⟩ := modeOf_isSome hmode
    obtain ⟨l, hl⟩ := itemsPass_range key mode n (j + 1) (key j :: seen) fun i hi => by
      obtain ⟨hkey, hmode, hnew, hfirst⟩ := h (i + 1) (Nat.succ_lt_succ hi)
      rw [show j + 1 + i = j + (i + 1) by omega]
      refine ⟨hkey, hmode, fun hmem => ?_, fun k hk => ?_⟩
      · rcases List.mem_cons.1 hmem with heq | hmem
        · exact hfirst 0 (Nat.succ_pos i) heq.symm
        · exact hnew hmem
      · rw [show j + 1 + k = j + (k + 1) by omega]
        exact hfirst (k + 1) (Nat.succ_lt_succ hk)
    refine ⟨(key j, m) :: l, ?_⟩
    rw [List.range_succ_eq_map, List.map_cons, List.map_map]
    refine .cons ⟨hkey, hm, hnew⟩ ?_
    rw [show (fun i => (key (j + i), mode (j + i))) ∘ Nat.succ = fun i => (key (j + 1 + i), mode (j + 1 + i)) from
      funext fun i => by simp only [Function.comp, Nat.succ_eq_add_one, show j + (i + 1) = j + 1 + i by omega]]
    exact hl

/-- A valid list, as it is read. -/
theorem itemsPass_keys (key : Nat → Key) (mode : Nat → Byte) : ∀ (l : List SetKey) (j : Nat) (seen : List Key),
    (∀ p ∈ l.zipIdx j, key p.2 = p.1.key ∧ modeOf (mode p.2) = some p.1.mode) → (l.map SetKey.key).Nodup →
    (∀ x ∈ l, ¬ reservedKey x.key ∧ x.key ∉ seen) →
    ItemsPass seen ((List.range l.length).map fun i => (key (j + i), mode (j + i))) (l.map fun x => (x.key, x.mode))
  | [], _, seen, _, _, _ => .nil seen
  | x :: l, j, seen, hitems, hnodup, hkeys => by
    obtain ⟨⟨hkey, hmode⟩, hrest⟩ := List.forall_mem_cons.1 hitems
    obtain ⟨⟨hres, hnew⟩, hothers⟩ := List.forall_mem_cons.1 hkeys
    rw [List.map_cons, List.nodup_cons] at hnodup
    obtain ⟨hfirst, hnodup⟩ := hnodup
    have ih := itemsPass_keys key mode l (j + 1) (key j :: seen) hrest hnodup fun y hy => by
      obtain ⟨hres, hnew⟩ := hothers y hy
      refine ⟨hres, fun hmem => ?_⟩
      rcases List.mem_cons.1 hmem with heq | hmem
      · exact hfirst (List.mem_map.2 ⟨y, hy, heq.trans hkey⟩)
      · exact hnew hmem
    rw [List.length_cons, List.range_succ_eq_map, List.map_cons, List.map_map, List.map_cons, ← hkey]
    refine .cons ⟨by rw [show key (j + 0) = x.key from hkey]; exact hres, hmode,
      by rw [show key (j + 0) = x.key from hkey]; exact hnew⟩ ?_
    rw [show (fun i => (key (j + i), mode (j + i))) ∘ Nat.succ = fun i => (key (j + 1 + i), mode (j + 1 + i)) from
      funext fun i => by simp only [Function.comp, Nat.succ_eq_add_one, show j + (i + 1) = j + 1 + i by omega]]
    exact ih

/-- The list of an ACQUIRE SET frame that is valid, checked. -/
theorem ListsKeys.checkItems {f : Frame} {l : List SetKey} (h : ListsKeys f l) :
    Machine.checkItems (setItems f.args l.length 4) [] 0 = .ok (l.map fun x => (x.key, x.mode)) := by
  obtain ⟨hnodup, hres⟩ := h.keys
  have hpass := itemsPass_keys (fun i => keyAt f.args (4 + 5 * i)) (fun i => byteAt f.args (8 + 5 * i)) l 0 [] h.items
    hnodup fun x hx => ⟨hres x hx, nofun⟩
  rw [setItems_eq]
  simp only [Nat.zero_add] at hpass
  exact hpass.checkItems 0

/-! ### The keys in hand (R33) -/

theorem State.bench_nextToken (s : State) (n : Nat) : s.bench n (some s.nextToken) = s.bench n none := rfl

/-- What the records in hand leave of the token counter before a grant: nothing yet, or the counter as it stands. -/
def State.tokenKept (s : State) (tok : Option Token) : Prop := tok = none ∨ tok = some s.nextToken

theorem locateHeld_atRest {s : State} {k : Key} {n : Nat} (h : s.atRest k n) {tok : Option Token} (ht : s.tokenKept tok)
    (prepared : List Nat) (past : List Change) :
    locateHeld k tok prepared past s = .ok (.ok (s.bench n none), past) s := by
  obtain ⟨holders, hindexed⟩ := h.indexed
  have hbench : s.bench n tok = s.bench n none := by
    rcases ht with rfl | rfl
    · rfl
    · exact State.bench_nextToken s n
  have htouch := touchHeld_atRest h tok (by rw [hbench]; exact h.quiet)
  rw [locateHeld, Take.bind_of_ok (Take.run_get s), hindexed]
  dsimp only
  rw [if_neg Bool.false_ne_true, Take.bind_of_ok htouch, hbench]
  rfl

theorem orHandOver_ok {α : Type} {cs : List Change} {work : Take α} {s s1 : State} {a : α} (h : work s = .ok a s1) :
    orHandOver cs work s = .ok a s1 := by
  rw [orHandOver, Take.run_tryCatch, h]

/-- The preparation of a record for a key that is in none (R13). -/
theorem locateHeld_absent {s : State} {k : Key} (h : s.lookup k = none) {tok : Option Token} {prepared : List Nat}
    {r : Except Status Bench} (hprepare : prepareRecord k tok prepared s = .ok r s) (past : List Change) :
    locateHeld k tok prepared past s = .ok (r, past) s := by
  rw [locateHeld, Take.bind_of_ok (Take.run_get s), h]
  dsimp only
  rw [Take.bind_of_ok (orHandOver_ok hprepare)]
  rfl

theorem prepareRecord_denied {s : State} {k : Key} {map : ZoneMap} (hmap : zoneWord.holds s map)
    (hauto : (map.forKey k).autoCreate = false) (tok : Option Token) (prepared : List Nat) :
    prepareRecord k tok prepared s = .ok (.error .notFound) s := by
  rw [prepareRecord, Take.bind_of_ok (readControl_holds hmap), Take.bind_of_ok (Take.run_get s), if_pos hauto]
  rfl

theorem prepareRecord_full {s : State} {k : Key} {map : ZoneMap} (hmap : zoneWord.holds s map)
    (hauto : (map.forKey k).autoCreate = true) (tok : Option Token) {prepared : List Nat}
    (hfull : s.lowestFree prepared = none) : prepareRecord k tok prepared s = .ok (.error .noSpace) s := by
  rw [prepareRecord, Take.bind_of_ok (readControl_holds hmap), Take.bind_of_ok (Take.run_get s),
    if_neg (by rw [hauto]; exact Bool.noConfusion), hfull]
  rfl

theorem prepareRecord_prepares {s : State} {k : Key} {map : ZoneMap} (hmap : zoneWord.holds s map)
    (hauto : (map.forKey k).autoCreate = true) {tok : Option Token} (ht : s.tokenKept tok) {prepared : List Nat} {n : Nat}
    (hn : s.lowestFree prepared = some n) (hgood : (s.store.slot n).ecc.head? = some .good) :
    prepareRecord k tok prepared s = .ok (.ok (newBench n s.nextToken (preparedRecord map k))) s := by
  have htok : tok.getD s.nextToken = s.nextToken := by rcases ht with rfl | rfl <;> rfl
  rw [prepareRecord, Take.bind_of_ok (readControl_holds hmap), Take.bind_of_ok (Take.run_get s),
    if_neg (by rw [hauto]; exact Bool.noConfusion), hn]
  dsimp only
  rw [Take.bind_of_ok (checkFreeSlot_good hgood), htok]
  rfl

theorem List.find?_notMem_take {l : List Nat} (h : l.Nodup) (j : Nat) : (l.find? fun n => !(l.take j).contains n) = l[j]? := by
  rw [← List.take_append_drop j l, List.nodup_append] at h
  obtain ⟨-, -, hdisjoint⟩ := h
  have htake : (l.take j).find? (fun n => !(l.take j).contains n) = none := List.find?_eq_none.2 fun n hn => by simpa using hn
  have hdrop : (l.drop j).find? (fun n => !(l.take j).contains n) = (l.drop j).head? := by
    cases hd : l.drop j with
    | nil => rfl
    | cons n ns =>
      have hn : n ∉ l.take j := fun hn => hdisjoint n hn n (by rw [hd]; exact List.mem_cons_self) rfl
      rw [List.find?_cons_of_pos (by simpa using hn)]
      rfl
  calc (l.find? fun n => !(l.take j).contains n)
      = (l.take j ++ l.drop j).find? fun n => !(l.take j).contains n := by rw [List.take_append_drop]
    _ = l[j]? := by
      rw [List.find?_append, htake, hdrop, List.head?_drop]
      rfl

/-- The lowest FREE slots prepared, the next is the one behind them in the order of the FREE slots. -/
theorem State.lowestFree_prepared (s : State) (j : Nat) : s.lowestFree (s.freeSlots.take j) = s.freeSlots[j]? := by
  have hfind : ∀ avoid : List Nat, s.lowestFree avoid = s.freeSlots.find? fun n => !avoid.contains n := fun avoid => by
    rw [State.lowestFree, State.freeSlots, List.find?_filter]
    simp only [Bool.decide_and, Bool.decide_eq_true]
  rw [hfind]
  exact List.find?_notMem_take (List.nodup_range.filter _) j

/-- A record in hand to which nothing was done: its close changes nothing, and it leaves the token counter. -/
structure Bench.untouched (s : State) (b : Bench) : Prop where
  token : b.token = s.nextToken
  outs  : b.outs = []
  close : closeRefused b s = .ok () s

theorem State.bench_untouched {s : State} {k : Key} {n : Nat} (h : s.atRest k n) : (s.bench n none).untouched s :=
  ⟨rfl, rfl, closeBench_atRest h⟩

theorem newBench_untouched (s : State) (n : Nat) (r : Rec) : (newBench n s.nextToken r).untouched s := ⟨rfl, rfl, rfl⟩

/-- A refusal closes records in hand to which nothing was done: nothing changes (R33). -/
theorem closeAll_untouched {s : State} : ∀ (bs : List Bench), (∀ b ∈ bs, b.untouched s) →
    closeAll (bs.map Change.inHand) s = .ok () s
  | [], _ => rfl
  | b :: bs, h => by
    obtain ⟨hb, hbs⟩ := List.forall_mem_cons.1 h
    rw [List.map_cons, closeAll, Take.bind_of_ok (orHandOver_ok hb.close)]
    exact closeAll_untouched bs hbs

theorem tokenAfter_untouched {s : State} {done : List SetItem} (h : ∀ it ∈ done, it.bench.untouched s) :
    s.tokenKept (tokenAfter done) := by
  rw [tokenAfter]
  cases hd : done.getLast? with
  | none => exact .inl rfl
  | some it => exact .inr (congrArg some (h it (List.mem_of_getLast? hd)).token)

/-- The keys of the list that have passed the checks, with their records in hand. -/
structure State.setInHand (s : State) (done : List SetItem) (past : List Change) : Prop where
  untouched : ∀ it ∈ done, it.bench.untouched s
  past      : past = (done.map SetItem.bench).map Change.inHand

theorem State.setInHand.append {s : State} {done : List SetItem} {past : List Change} (h : s.setInHand done past) {b : Bench}
    {it : SetItem} (hit : it.bench = b) (hb : b.untouched s) : s.setInHand (done ++ [it]) (past ++ [.inHand b]) := by
  subst hit
  refine ⟨List.forall_mem_append.2 ⟨h.untouched, List.forall_mem_singleton.2 hb⟩, ?_⟩
  rw [h.past, List.map_append, List.map_append]
  rfl

theorem State.setInHand.close {s : State} {done : List SetItem} {past : List Change} (h : s.setInHand done past) :
    closeAll past s = .ok () s := by
  rw [h.past]
  refine closeAll_untouched _ fun b hb => ?_
  obtain ⟨it, hit, rfl⟩ := List.mem_map.1 hb
  exact h.untouched it hit

section
variable {s : State} {client : Nat} {term : Term} {k : Key} {m : Mode} {items : List (Key × Mode)} {done : List SetItem}
  {past : List Change}

/-- A key that passes. -/
theorem examine_passes {b : Bench} {it : SetItem}
    (hlocate : locateHeld k (tokenAfter done) (preparedSlots done) past s = .ok (.ok b, past) s)
    (hit : setItemOn b client m term = .ok it) :
    examine client term ((k, m) :: items) done past s =
      examine client term items (done ++ [it]) (past ++ [.inHand b]) s := by
  rw [examine, Take.bind_of_ok hlocate]
  dsimp only
  rw [hit]

/-- A key that cannot be located. -/
theorem examine_unlocated (h : s.setInHand done past) {st : Status}
    (hlocate : locateHeld k (tokenAfter done) (preparedSlots done) past s = .ok (.error st, past) s) :
    examine client term ((k, m) :: items) done past s =
      .ok (.error (refusedAt st (BitVec.ofNat 8 done.length))) s := by
  rw [examine, Take.bind_of_ok hlocate]
  dsimp only
  rw [Take.bind_of_ok h.close]
  rfl

/-- A key whose record refuses the request. -/
theorem examine_refused (h : s.setInHand done past) {b : Bench} (hb : b.untouched s) {st : Status}
    (hlocate : locateHeld k (tokenAfter done) (preparedSlots done) past s = .ok (.ok b, past) s)
    (hit : setItemOn b client m term = .error st) :
    examine client term ((k, m) :: items) done past s =
      .ok (.error (refusedAt st (BitVec.ofNat 8 done.length))) s := by
  have hclose := (h.append (it := { bench := b, mode := m, term := term }) rfl hb).close
  rw [examine, Take.bind_of_ok hlocate]
  dsimp only
  rw [hit]
  dsimp only
  rw [Take.bind_of_ok hclose]
  rfl

end

/-! ### The checks of one key on its record (R33) -/

theorem setItemOn_passes {b : Bench} {client : Nat} {m : Mode} {t : Term} (hnames : b.names client = false)
    (hle : b.body.resolve t ≤ b.body.maxTerm) (hgrant : b.grantable client m = true) :
    setItemOn b client m t = .ok { bench := b, mode := m, term := b.body.resolve t } := by
  rw [setItemOn, if_neg (Bool.eq_false_iff.1 hnames), if_neg (BitVec.not_lt.2 hle), if_pos hgrant]

theorem State.unnamed_iff {s : State} {client n : Nat} : (s.bench n none).names client = false ↔ s.unnamed client n := by
  constructor
  · intro h
    rw [Bench.names, Bool.or_eq_false_iff, Option.isSome_eq_false_iff, Option.isSome_eq_false_iff, Option.isNone_iff_eq_none,
      Option.isNone_iff_eq_none] at h
    obtain ⟨hgrant, hwaiter⟩ := h
    exact ⟨hgrant, fun p hp => by simpa using List.find?_eq_none.1 hwaiter p hp⟩
  · exact fun ⟨hgrant, hwaiters⟩ => Bench.names_eq_false hgrant hwaiters

/-- A record prepared by auto-create grants any request within its max term. -/
theorem newBench_passes {s : State} {k : Key} {map : ZoneMap} (n : Nat) (client : Nat) (m : Mode) :
    (newBench n s.nextToken (preparedRecord map k)).names client = false ∧
      (newBench n s.nextToken (preparedRecord map k)).grantable client m = true := by
  refine ⟨Bench.names_eq_false rfl nofun, (Bench.grantable_iff _ _ _).2 ⟨?_, rfl⟩⟩
  cases m with
  | exclusive => exact .inl ⟨rfl, rfl⟩
  | shared => exact .inr ⟨rfl, .inl rfl, nofun⟩

/-- What is granted on a record at rest. -/
def State.setItem (s : State) (term : Term) (x : SetKey) : SetItem :=
  { bench := s.bench x.slot none, mode := x.mode, term := (s.recordOf x.slot).resolve term }

/-- A key whose record is at rest and passes. -/
def State.restPasses (s : State) (f : Frame) (x : SetKey) : Prop :=
  s.atRest x.key x.slot ∧ s.unnamed f.client.toNat x.slot ∧
    (s.recordOf x.slot).termFor (termAt f.args 1) ≤ (s.recordOf x.slot).maxTerm ∧
    (s.recordOf x.slot).admissible f.client.toNat x.mode ∧ s.queueOf x.slot = []

theorem State.restPasses.setItemOn {s : State} {f : Frame} {x : SetKey} (h : s.restPasses f x) :
    Machine.setItemOn (s.bench x.slot none) f.client.toNat x.mode (termAt f.args 1) = .ok (s.setItem (termAt f.args 1) x) := by
  obtain ⟨-, hunnamed, hle, hadm, hqueue⟩ := h
  exact setItemOn_passes (State.unnamed_iff.2 hunnamed) hle
    ((Bench.grantable_iff _ _ _).2 ⟨hadm, State.waitersOf_nil hqueue⟩)

/-- Keys whose records are all at rest and pass. -/
theorem examine_atRest {s : State} {f : Frame} {rest : List (Key × Mode)} : ∀ (l : List SetKey) (done : List SetItem)
    (past : List Change), s.setInHand done past → (∀ x ∈ l, s.restPasses f x) →
    ∃ past', s.setInHand (done ++ l.map (s.setItem (termAt f.args 1))) past' ∧
      examine f.client.toNat (termAt f.args 1) ((l.map fun x => (x.key, x.mode)) ++ rest) done past s =
        examine f.client.toNat (termAt f.args 1) rest (done ++ l.map (s.setItem (termAt f.args 1))) past' s
  | [], done, past, h, _ => ⟨past, by rw [List.map_nil, List.append_nil]; exact h, by
      rw [List.map_nil, List.map_nil, List.append_nil]
      rfl⟩
  | x :: l, done, past, h, hl => by
    obtain ⟨hx, hl⟩ := List.forall_mem_cons.1 hl
    have hpass := examine_passes (client := f.client.toNat) (items := (l.map fun x => (x.key, x.mode)) ++ rest)
      (locateHeld_atRest hx.1 (tokenAfter_untouched h.untouched) (preparedSlots done) past) hx.setItemOn
    obtain ⟨past', hhand, hexamine⟩ := examine_atRest l _ _
      (h.append (it := s.setItem (termAt f.args 1) x) rfl (State.bench_untouched hx.1)) hl
    rw [List.append_assoc, List.singleton_append] at hhand hexamine
    exact ⟨past', hhand, hpass.trans hexamine⟩

theorem preparedSlots_append (done : List SetItem) (it : SetItem) :
    preparedSlots (done ++ [it]) = preparedSlots done ++ if it.bench.isNew then [it.bench.slot] else [] := by
  rw [preparedSlots, preparedSlots, List.filter_append, List.map_append]
  cases h : it.bench.isNew <;> simp [h]

/-- Keys that pass, some of their records prepared by auto-create in the lowest FREE slots (R13, R33). -/
theorem examine_keys {s : State} {f : Frame} {map : ZoneMap} (hmap : zoneWord.holds s map)
    (hgood : ∀ n ∈ s.freeSlots, (s.store.slot n).ecc.head? = some .good) {rest : List (Key × Mode)} :
    ∀ (l : List SetKey) (done : List SetItem) (past : List Change) (j : Nat), s.setInHand done past →
      preparedSlots done = s.freeSlots.take j → (∀ x ∈ l, s.setKeyPasses f map x) →
      j + (s.absent l).length ≤ s.freeSlots.length →
      ∃ done' past', s.setInHand done' past' ∧ done'.length = done.length + l.length ∧
        preparedSlots done' = s.freeSlots.take (j + (s.absent l).length) ∧
        examine f.client.toNat (termAt f.args 1) ((l.map fun x => (x.key, x.mode)) ++ rest) done past s =
          examine f.client.toNat (termAt f.args 1) rest done' past' s
  | [], done, past, j, h, hp, _, _ => ⟨done, past, h, rfl, hp, rfl⟩
  | x :: l, done, past, j, h, hp, hl, hroom => by
    obtain ⟨hx, hl⟩ := List.forall_mem_cons.1 hl
    rcases hx with ⟨hnone, hauto, hle⟩ | hrest
    · have habsent : s.absent (x :: l) = x :: s.absent l := List.filter_cons_of_pos (by rw [hnone]; rfl)
      rw [habsent, List.length_cons] at hroom ⊢
      obtain ⟨n, hn⟩ : ∃ n, s.freeSlots[j]? = some n := ⟨_, List.getElem?_eq_getElem (by omega)⟩
      have hprepare := prepareRecord_prepares hmap hauto (tokenAfter_untouched h.untouched)
        ((congrArg s.lowestFree hp).trans ((State.lowestFree_prepared s j).trans hn)) (hgood n (List.mem_of_getElem? hn))
      obtain ⟨hnames, hgrant⟩ := newBench_passes (s := s) (k := x.key) (map := map) n f.client.toNat x.mode
      have hpass := examine_passes (client := f.client.toNat) (items := (l.map fun x => (x.key, x.mode)) ++ rest)
        (locateHeld_absent hnone hprepare past) (setItemOn_passes hnames hle hgrant)
      obtain ⟨done', past', hhand, hlen, hprep, hexamine⟩ := examine_keys hmap hgood l _ _ (j + 1)
        (h.append (it := { bench := _, mode := x.mode, term := _ }) rfl (newBench_untouched s n _))
        (by
          rw [preparedSlots_append, hp, List.take_add_one, hn]
          rfl) hl (by omega)
      refine ⟨done', past', hhand, ?_, ?_, hpass.trans hexamine⟩
      · simp only [hlen, List.length_append, List.length_cons, List.length_nil]
        omega
      · have hcount : j + 1 + (s.absent l).length = j + ((s.absent l).length + 1) := by omega
        rw [hprep, hcount]
        rfl
    · obtain ⟨holders, hindexed⟩ := hrest.1.indexed
      have habsent : s.absent (x :: l) = s.absent l := List.filter_cons_of_neg (by rw [hindexed]; exact Bool.false_ne_true)
      rw [habsent] at hroom ⊢
      have hpass := examine_passes (client := f.client.toNat) (items := (l.map fun x => (x.key, x.mode)) ++ rest)
        (locateHeld_atRest hrest.1 (tokenAfter_untouched h.untouched) (preparedSlots done) past)
        (State.restPasses.setItemOn hrest)
      obtain ⟨done', past', hhand, hlen, hprep, hexamine⟩ := examine_keys hmap hgood l _ _ j
        (h.append (it := s.setItem (termAt f.args 1) x) rfl (State.bench_untouched hrest.1))
        (by
          rw [preparedSlots_append, hp]
          exact List.append_nil _) hl hroom
      refine ⟨done', past', hhand, ?_, hprep, hpass.trans hexamine⟩
      simp only [hlen, List.length_append, List.length_cons, List.length_nil]
      omega

/-- The first key that fails is refused with its index, and nothing changes (R33). -/
theorem examine_fails {s : State} {f : Frame} {map : ZoneMap} (hmap : zoneWord.holds s map)
    (hgood : ∀ n ∈ s.freeSlots, (s.store.slot n).ecc.head? = some .good) {done : List SetItem} {past : List Change} {j : Nat}
    (h : s.setInHand done past) (hp : preparedSlots done = s.freeSlots.take j) {x : SetKey} {st : Status}
    (hx : s.setKeyFails f map (j < s.freeSlots.length) x st) (rest : List (Key × Mode)) :
    examine f.client.toNat (termAt f.args 1) ((x.key, x.mode) :: rest) done past s =
      .ok (.error (refusedAt st (BitVec.ofNat 8 done.length))) s := by
  have hslot : s.lowestFree (preparedSlots done) = s.freeSlots[j]? :=
    (congrArg s.lowestFree hp).trans (State.lowestFree_prepared s j)
  rcases hx with ⟨e, hindexed, hquar, rfl⟩ | ⟨hnone, hx⟩ | ⟨hrest, hx⟩
  · refine examine_unlocated h ?_
    rw [locateHeld, Take.bind_of_ok (Take.run_get s), hindexed]
    dsimp only
    rw [if_pos hquar]
    rfl
  · rcases hx with ⟨hauto, rfl⟩ | ⟨hauto, hfull, rfl⟩ | ⟨hauto, hleft, hgt, rfl⟩
    · exact examine_unlocated h (locateHeld_absent hnone (prepareRecord_denied hmap hauto _ _) past)
    · exact examine_unlocated h (locateHeld_absent hnone (prepareRecord_full hmap hauto _
        (hslot.trans (List.getElem?_eq_none (Nat.le_of_not_lt hfull)))) past)
    · obtain ⟨n, hn⟩ : ∃ n, s.freeSlots[j]? = some n := ⟨_, List.getElem?_eq_getElem hleft⟩
      have hprepare := prepareRecord_prepares hmap hauto (tokenAfter_untouched h.untouched) (hslot.trans hn)
        (hgood n (List.mem_of_getElem? hn))
      obtain ⟨hnames, -⟩ := newBench_passes (s := s) (k := x.key) (map := map) n f.client.toNat x.mode
      refine examine_refused h (newBench_untouched s n _) (locateHeld_absent hnone hprepare past) ?_
      rw [setItemOn, if_neg (Bool.eq_false_iff.1 hnames), if_pos (by exact hgt)]
  · refine examine_refused h (State.bench_untouched hrest)
      (locateHeld_atRest hrest (tokenAfter_untouched h.untouched) _ past) ?_
    rcases hx with ⟨hnamed, rfl⟩ | ⟨hunnamed, hgt, rfl⟩ | ⟨hunnamed, hle, hbusy, rfl⟩
    · rw [setItemOn, if_pos (by rw [← Bool.not_eq_false, State.unnamed_iff]; exact hnamed)]
    · rw [setItemOn, if_neg (Bool.eq_false_iff.1 (State.unnamed_iff.2 hunnamed)), if_pos (by exact hgt)]
    · have hgrant : ¬ (s.bench x.slot none).grantable f.client.toNat x.mode = true := fun hgrant => by
        obtain ⟨hadm, hqueue⟩ := (Bench.grantable_iff _ _ _).1 hgrant
        rcases hbusy with hnot | hwaits
        · exact hnot hadm
        · refine hwaits ?_
          rw [← hrest.queued, show s.waitersOf x.slot = [] from hqueue]
          rfl
      rw [setItemOn, if_neg (Bool.eq_false_iff.1 (State.unnamed_iff.2 hunnamed)), if_neg (by exact BitVec.not_lt.2 hle),
        if_neg hgrant]

/-! ### The grants in one commit (R34) -/

/-- A record of the set with its grant: the token counter stands `p.2` values beyond `tok`. -/
def State.setBench (s : State) (client : Nat) (term : Term) (tok : Token) (p : SetKey × Nat) : Bench :=
  Bench.issue s.now client p.1.mode ((s.recordOf p.1.slot).resolve term)
    { s.bench p.1.slot none with token := tok + BitVec.ofNat 48 p.2 }

theorem issueSet_eq {s : State} {client : Nat} {term : Term} {tok : Token} : ∀ (l : List SetKey) (j : Nat),
    tok.toNat + j + l.length < 2 ^ 48 →
    issueSet s.now client (tok + BitVec.ofNat 48 j) (l.map (s.setItem term)) =
      (l.zipIdx j).map (s.setBench client term tok)
  | [], _, _ => rfl
  | x :: l, j, h => by
    rw [List.length_cons] at h
    have hnext : tokenNext (tok + BitVec.ofNat 48 j) = tok + BitVec.ofNat 48 (j + 1) := by
      rw [tokenNext_eq (by rw [BitVec.toNat_add, BitVec.toNat_ofNat]; omega), BitVec.add_assoc]
      exact congrArg (tok + ·) (BitVec.ofNat_add j 1).symm
    rw [List.map_cons, List.zipIdx_cons, List.map_cons, issueSet]
    refine congrArg (_ :: ·) ?_
    show issueSet s.now client (tokenNext (tok + BitVec.ofNat 48 j)) _ = _
    rw [hnext]
    exact issueSet_eq l (j + 1) (by omega)

section
variable {s : State} {client : Nat} {term : Term} {tok : Token} {p : SetKey × Nat}

/-- The grant that a key of the set gets. -/
def State.setGrant (s : State) (client : Nat) (term : Term) (tok : Token) (p : SetKey × Nat) : Grant :=
  Grant.fresh s.now client p.1.mode ((s.recordOf p.1.slot).termFor term) (tok + BitVec.ofNat 48 p.2)

theorem setBench_body (h : (s.recordOf p.1.slot).holding) (hadm : (s.recordOf p.1.slot).admissible client p.1.mode) :
    (s.setBench client term tok p).body =
      { (s.recordOf p.1.slot).granted (s.setGrant client term tok p) with gen := (s.recordOf p.1.slot).gen } :=
  issue_body (b := { s.bench p.1.slot none with token := tok + BitVec.ofNat 48 p.2 }) h.summary hadm

theorem setBench_toRetire : (s.setBench client term tok p).toRetire = false := by
  refine Bool.eq_false_iff.2 fun hr => ?_
  obtain ⟨-, hgrants, -⟩ := (Bench.toRetire_iff (b := s.setBench client term tok p) rfl).1 hr
  exact List.append_ne_nil_of_right_ne_nil _ (List.cons_ne_nil _ _) hgrants

theorem setBench_owed (h : (s.recordOf p.1.slot).holding) (hadm : (s.recordOf p.1.slot).admissible client p.1.mode) :
    (s.setBench client term tok p).owed =
      [.slot p.1.slot true ((s.recordOf p.1.slot).granted (s.setGrant client term tok p)).image] := by
  rw [Bench.owed, if_neg (Bool.eq_false_iff.1 setBench_toRetire), if_pos (show (s.setBench client term tok p).dirty = true from rfl),
    Bench.next, setBench_body h hadm]
  rfl

/-- The index, the set of FREE slots and the audit behind the commit of a key's record. -/
theorem settleIn_setBench (h : (s.recordOf p.1.slot).holding) (hadm : (s.recordOf p.1.slot).admissible client p.1.mode)
    (hqueue : s.queueOf p.1.slot = []) {x : State} (hx : x.main.queues = s.main.queues) :
    x.settleIn (s.setBench client term tok p) =
      x.recordKept p.1.slot ((s.recordOf p.1.slot).granted (s.setGrant client term tok p)) := by
  have hq : (s.setBench client term tok p).queue.map Prod.fst = x.queueOf p.1.slot := by
    show (s.waitersOf p.1.slot).map Prod.fst = x.queueOf p.1.slot
    rw [State.waitersOf_nil hqueue, State.queueOf, hx]
    exact hqueue.symm
  rw [State.settleIn, State.requeue_same hq, if_neg (Bool.eq_false_iff.1 setBench_toRetire),
    if_pos (show (s.setBench client term tok p).dirty = true from rfl),
    setBench_body h hadm]
  rfl

theorem setBench_bytes : (s.setBench client term tok p).lastGrantBytes =
    tokenBytes (s.setGrant client term tok p).token ++ tickBytes (s.setGrant client term tok p).expiry := by
  rw [Bench.lastGrantBytes, show (s.setBench client term tok p).body.grants =
    (s.recordOf p.1.slot).grants ++ [s.setGrant client term tok p] from rfl, List.getLast?_concat]

end

/-- A key of the set whose record takes its grant. -/
def State.setTakes (s : State) (client : Nat) (x : SetKey) : Prop :=
  (s.recordOf x.slot).holding ∧ (s.recordOf x.slot).admissible client x.mode ∧ s.queueOf x.slot = []

theorem State.restPasses.takes {s : State} {f : Frame} {x : SetKey} (h : s.restPasses f x)
    (hholding : (s.recordOf x.slot).holding) : s.setTakes f.client.toNat x := by
  obtain ⟨-, -, -, hadm, hqueue⟩ := h
  exact ⟨hholding, hadm, hqueue⟩

/-- The volatile effects behind the commit of the records of a set. -/
theorem settleIn_setBenches {s : State} {client : Nat} {term : Term} {tok : Token} : ∀ (l : List (SetKey × Nat)) (x : State),
    x.main.queues = s.main.queues → (∀ p ∈ l, s.setTakes client p.1) →
    (l.map (s.setBench client term tok)).foldl State.settleIn x =
      l.foldl (fun x p => x.recordKept p.1.slot ((s.recordOf p.1.slot).granted (s.setGrant client term tok p))) x
  | [], _, _, _ => rfl
  | p :: l, x, hx, hl => by
    obtain ⟨⟨hholding, hadm, hqueue⟩, hl⟩ := List.forall_mem_cons.1 hl
    rw [List.map_cons, List.foldl_cons, List.foldl_cons, settleIn_setBench hholding hadm hqueue hx]
    exact settleIn_setBenches l _ hx hl

theorem flatMap_owed {s : State} {client : Nat} {term : Term} {tok : Token} : ∀ (l : List (SetKey × Nat)),
    (∀ p ∈ l, s.setTakes client p.1) →
    (l.map (s.setBench client term tok)).flatMap Bench.owed =
      l.map fun p => .slot p.1.slot true ((s.recordOf p.1.slot).granted (s.setGrant client term tok p)).image
  | [], _ => rfl
  | p :: l, hl => by
    obtain ⟨⟨hholding, hadm, -⟩, hl⟩ := List.forall_mem_cons.1 hl
    rw [List.map_cons, List.flatMap_cons, setBench_owed hholding hadm, flatMap_owed l hl]
    rfl

/-- Behind the last grant of a set the token counter stands a value beyond its token. -/
theorem setBench_lastToken {s : State} {client : Nat} {term : Term} {tok : Token} {l : List SetKey} (hne : l ≠ [])
    (h : tok.toNat + l.length < 2 ^ 48) :
    (l.zipIdx.map (s.setBench client term tok)).getLast?.map Bench.token = some (tok + BitVec.ofNat 48 l.length) := by
  obtain ⟨init, x, rfl⟩ := (List.eq_nil_or_concat' l).resolve_left hne
  rw [List.length_append, List.length_singleton] at h ⊢
  rw [List.zipIdx_append, List.map_append, show ([x] : List SetKey).zipIdx (0 + init.length) = [(x, 0 + init.length)] from rfl,
    List.map_singleton, List.getLast?_concat, Nat.zero_add]
  refine congrArg some ?_
  show tokenNext (tok + BitVec.ofNat 48 init.length) = _
  rw [tokenNext_eq (by rw [BitVec.toNat_add, BitVec.toNat_ofNat]; omega), BitVec.add_assoc]
  exact congrArg (tok + ·) (BitVec.ofNat_add _ 1).symm

/-- R34: the grants of a set whose records are at rest, in one commit, their results behind it. -/
theorem grantSet_grants {s : State} {client : Nat} {term : Term} {tok : Token} {l : List SetKey} {past : List Change}
    (htok : tokenWord.holds s tok) (hne : l ≠ []) (h : tok.toNat + l.length < 2 ^ 48)
    (hpast : s.setInHand (l.map (s.setItem term)) past) (hl : ∀ x ∈ l, s.setTakes client x) :
    grantSet client (l.map (s.setItem term)) past s =
      .ok (.ok (l.zipIdx.flatMap fun p => tokenBytes (s.setGrant client term tok p).token ++
          tickBytes (s.setGrant client term tok p).expiry))
        (l.zipIdx.foldl (fun x p => x.schedInsert .grantExpiry (.grant p.1.slot (s.setGrant client term tok p).token)
            (s.setGrant client term tok p).expiry)
          (l.zipIdx.foldl
            (fun x p => x.recordKept p.1.slot ((s.recordOf p.1.slot).granted (s.setGrant client term tok p)))
            (s.commit
              { images := l.zipIdx.map fun p =>
                  .slot p.1.slot true ((s.recordOf p.1.slot).granted (s.setGrant client term tok p)).image,
                token := some (tok + BitVec.ofNat 48 l.length) }))) := by
  have hstart : (tokenAfter (l.map (s.setItem term))).getD 0 = tok := by
    obtain ⟨x, hx⟩ : ∃ x, (l.map (s.setItem term)).getLast? = some x := by
      cases hlast : (l.map (s.setItem term)).getLast? with
      | none => exact absurd (List.map_eq_nil_iff.1 (List.getLast?_eq_none_iff.1 hlast)) hne
      | some x => exact ⟨x, rfl⟩
    rw [tokenAfter, hx]
    exact (hpast.untouched x (List.mem_of_getLast? hx)).token.trans (State.nextToken_holds htok)
  have hissue : issueSet s.now client tok (l.map (s.setItem term)) = l.zipIdx.map (s.setBench client term tok) := by
    have h0 := issueSet_eq (s := s) (client := client) (term := term) (tok := tok) l 0 h
    rwa [show tok + BitVec.ofNat 48 0 = tok from BitVec.add_zero tok] at h0
  have htakes : ∀ p ∈ l.zipIdx, s.setTakes client p.1 := fun p hp => hl p.1 (List.fst_mem_of_mem_zipIdx hp)
  have hsome : (l.zipIdx.map (s.setBench client term tok)).any (fun b => decide (0 < b.issued)) = true := by
    obtain ⟨x, xs, rfl⟩ := List.exists_cons_of_ne_nil hne
    rfl
  have howed : ((l.zipIdx.map (s.setBench client term tok)).flatMap Bench.owed).isEmpty = false := by
    rw [flatMap_owed _ htakes]
    obtain ⟨x, xs, rfl⟩ := List.exists_cons_of_ne_nil hne
    rfl
  have houts : past.flatMap Change.outs ++ (l.zipIdx.map (s.setBench client term tok)).flatMap Bench.outs =
      l.zipIdx.map fun p => .insert .grantExpiry (.grant p.1.slot (s.setGrant client term tok p).token)
        (s.setGrant client term tok p).expiry := by
    have hnone : past.flatMap Change.outs = [] := by
      rw [hpast.past, List.flatMap_eq_nil_iff]
      intro c hc
      obtain ⟨b, hb, rfl⟩ := List.mem_map.1 hc
      obtain ⟨it, hit, rfl⟩ := List.mem_map.1 hb
      exact (hpast.untouched it hit).outs
    rw [hnone, List.nil_append, List.flatMap_map, List.map_eq_flatMap]
    rfl
  have hfreed : freedClients (l.zipIdx.map fun p => .insert .grantExpiry
      (.grant p.1.slot (s.setGrant client term tok p).token) (s.setGrant client term tok p).expiry) = [] := by
    rw [freedClients, List.filterMap_map]
    exact List.filterMap_eq_nil_iff.2 fun _ _ => rfl
  rw [grantSet, Take.bind_of_ok (Take.run_get s), hstart, hissue,
    Take.bind_of_ok (orHandOver_ok (closeBenches_issued htok _)), houts, Take.bind_of_ok (deliver_of_ok hfreed),
    State.closeBenches, settleIn_setBenches l.zipIdx _ (by rw [State.commitBenches]; split <;> rfl) htakes,
    State.commitBenches, if_neg (Bool.eq_false_iff.1 howed), if_pos hsome, setBench_lastToken hne h,
    flatMap_owed _ htakes, State.handOuts, List.foldl_map, List.flatMap_map]
  simp only [setBench_bytes]
  rfl

/-! ### ACQUIRE SET -/

/-- ACQUIRE SET by its work. -/
theorem exec_acquireSet {s s1 s2 : State} {f : Frame} {r : Reply} (h : s.takenTo (.acquireSet f) f s1)
    (hw : acquireSetWork f s1 = .ok r s2) : exec (.acquireSet f) s = .next (s2.respond f.port 0x31 r) := by
  obtain ⟨-, -, -, -, hlen⟩ := marksOf_eq h rfl
  refine exec_of_work (cmd := 0x31) h rfl ?_ hw
  show Host.Outcome.next (s.takeFrame _ 0x31 f (judged { args := f.args.length } f _)) = _
  rw [hlen]

theorem ListsKeys.count_ok {f : Frame} {l : List SetKey} (hl : ListsKeys f l) :
    ¬ ((byteAt f.args 0).toNat = 0 ∨ 4 < (byteAt f.args 0).toNat) := by
  have hleast := hl.least
  have hmost := hl.most
  rw [hl.count]
  omega

/-- A frame whose length is that of its count, and whose list is valid, comes to the checks of its keys: all pass. -/
theorem acquireSetWork_passed {s : State} {f : Frame} {l : List SetKey} {done : List SetItem} {past : List Change}
    (hlen : f.args.length = 4 + 5 * (byteAt f.args 0).toNat) (hl : ListsKeys f l)
    (h : examine f.client.toNat (termAt f.args 1) (l.map fun x => (x.key, x.mode)) [] [] s = .ok (.ok (done, past)) s) :
    acquireSetWork f s = grantSet f.client.toNat done past s := by
  rw [acquireSetWork, if_neg (not_not_intro hlen), if_neg hl.count_ok, hl.count, hl.checkItems]
  dsimp only
  rw [Take.bind_of_ok h]

/-- Such a frame, a key of which fails. -/
theorem acquireSetWork_failed {s : State} {f : Frame} {l : List SetKey} {r : Reply}
    (hlen : f.args.length = 4 + 5 * (byteAt f.args 0).toNat) (hl : ListsKeys f l)
    (h : examine f.client.toNat (termAt f.args 1) (l.map fun x => (x.key, x.mode)) [] [] s = .ok (.error r) s) :
    acquireSetWork f s = .ok r s := by
  rw [acquireSetWork, if_neg (not_not_intro hlen), if_neg hl.count_ok, hl.count, hl.checkItems]
  dsimp only
  rw [Take.bind_of_ok h]
  rfl

/-- A list that is refused. -/
theorem acquireSetWork_refuses {f : Frame} {st : Status} {i : Nat} (hlen : f.args.length = 4 + 5 * (byteAt f.args 0).toNat)
    (hleast : 1 ≤ (byteAt f.args 0).toNat) (hmost : (byteAt f.args 0).toNat ≤ 4)
    (hitems : checkItems (setItems f.args (byteAt f.args 0).toNat 4) [] 0 = .error (st, i)) (s : State) :
    acquireSetWork f s = .ok (refusedAt st (BitVec.ofNat 8 i)) s := by
  rw [acquireSetWork, if_neg (not_not_intro hlen), if_neg (by omega), hitems]
  rfl

theorem foldl_store {α : Type} {g : State → α → State} (hg : ∀ x a, (g x a).store = x.store) (l : List α) (x : State) :
    (l.foldl g x).store = x.store := by
  induction l generalizing x with
  | nil => rfl
  | cons a l ih => rw [List.foldl_cons, ih, hg]

/-- A set whose records are all at rest and can take their requests (R32 to R34). -/
theorem acquireSet_grants {s s1 : State} {f : Frame} {l : List SetKey} {tok : Token} (hbetween : s.between)
    (htaken : s.takenTo (.acquireSet f) f s1) (hl : ListsKeys f l) (hpass : ∀ x ∈ l, s1.restPasses f x)
    (hholding : ∀ x ∈ l, (s1.recordOf x.slot).holding) (htok : tokenWord.holds s1 tok) (hlt : tok.toNat + 4 < 2 ^ 48) :
    ∃ t, exec (.acquireSet f) s = .next t ∧
      s1.becomes (s1.store.putCommit
          { images := l.zipIdx.map fun p => .slot p.1.slot true
              ((s1.recordOf p.1.slot).granted (s1.setGrant f.client.toNat (termAt f.args 1) tok p)).image,
            token := some (tok + BitVec.ofNat 48 l.length) })
        (fun x => (l.zipIdx.foldl (fun x p => x.schedInsert .grantExpiry
              (.grant p.1.slot (s1.setGrant f.client.toNat (termAt f.args 1) tok p).token)
              (s1.setGrant f.client.toNat (termAt f.args 1) tok p).expiry)
            (l.zipIdx.foldl (fun x p => x.recordKept p.1.slot
              ((s1.recordOf p.1.slot).granted (s1.setGrant f.client.toNat (termAt f.args 1) tok p))) x)).respond f.port 0x31
          (.ok (l.zipIdx.flatMap fun p =>
            tokenBytes (s1.setGrant f.client.toNat (termAt f.args 1) tok p).token ++
              tickBytes (s1.setGrant f.client.toNat (termAt f.args 1) tok p).expiry))) t := by
  obtain ⟨-, -, -, -, hlen⟩ := marksOf_eq htaken rfl
  obtain ⟨past, hpast, hexamine⟩ := examine_atRest (rest := []) l [] [] ⟨nofun, rfl⟩ hpass
  rw [List.append_nil, List.nil_append, examine, Take.run_pure] at hexamine
  rw [List.nil_append] at hpast
  have hmost := hl.most
  have hwork := (acquireSetWork_passed hlen hl hexamine).trans
    (grantSet_grants htok (List.ne_nil_of_length_pos hl.least) (by omega) hpast fun x hx =>
      (hpass x hx).takes (hholding x hx))
  refine ⟨_, exec_acquireSet htaken hwork, State.becomes_commit_then (State.between_takenTo hbetween htaken) _ fun x => ?_⟩
  rw [State.respond_store, foldl_store fun _ _ => State.schedInsert_store .., foldl_store fun _ _ => State.recordKept_store ..]

/-- A list that R32 refuses, by its count or at its first bad key. -/
theorem acquireSet_badList {s s1 : State} {f : Frame} {n : Nat} {key : Nat → Key} {mode : Nat → Byte}
    (htaken : s.takenTo (.acquireSet f) f s1) (hn : n = (byteAt f.args 0).toNat)
    (hkey : ∀ i, key i = keyAt f.args (4 + 5 * i)) (hmode : ∀ i, mode i = byteAt f.args (8 + 5 * i)) {i : Nat}
    (hi : i < n) (hmost : n ≤ 4)
    (hbefore : ∀ j, j < i → ¬ reservedKey (key j) ∧ (mode j = 0 ∨ mode j = 1) ∧ ∀ h, h < j → key h ≠ key j) {st : Status}
    (hst : ∀ rest seen, (∀ k, k ∈ seen ↔ ∃ h, h < i ∧ key h = k) →
      checkItems ((key i, mode i) :: rest) seen i = .error (st, i)) :
    exec (.acquireSet f) s = .next (s1.respond f.port 0x31 (refusedAt st (BitVec.ofNat 8 i))) := by
  obtain ⟨-, -, -, -, hlen⟩ := marksOf_eq htaken rfl
  refine exec_acquireSet htaken (acquireSetWork_refuses hlen (by omega) (by omega) ?_ s1)
  obtain ⟨post, hpost⟩ := range_eq_append hi
  obtain ⟨l, hl⟩ := itemsPass_range key mode i 0 [] fun j hj => by
    simp only [Nat.zero_add]
    obtain ⟨hkey, hmode, hnew⟩ := hbefore j hj
    exact ⟨hkey, hmode, nofun, hnew⟩
  simp only [Nat.zero_add] at hl
  rw [setItems_eq, ← hn]
  simp only [← hkey, Nat.reduceAdd, ← hmode]
  rw [hpost, List.map_append, List.map_cons]
  have herr := hl.checkItems_error (rest := (key i, mode i) :: post.map fun j => (key j, mode j)) (st := st) 0
  rw [List.length_map, List.length_range, Nat.zero_add] at herr
  refine herr (hst _ _ fun k => ?_)
  simp

/-- Settles O30: the grants of a set at rest; a list refused by R32; a key refused by R33. -/
theorem acquireSetGrantsAllOrNone : Obligations.AcquireSetGrantsAllOrNone := by
  refine ⟨?_, ?_, ?_⟩
  · intro s s1 f l tok grant after hbetween htaken hleast hmost hcount hitems hnodup hl htok hlt hgrant hafter
    have hlist : ListsKeys f l := ⟨hleast, hmost, hcount, hitems, hnodup, fun x hx => (hl x hx).1⟩
    have hgrant : grant = s1.setGrant f.client.toNat (termAt f.args 1) tok := funext fun p => by
      rw [hgrant p, ← State.takenTo_now htaken]
      rfl
    have hafter : after = fun p =>
        (s1.recordOf p.1.slot).granted (s1.setGrant f.client.toNat (termAt f.args 1) tok p) := funext fun p => by
      rw [hafter p, hgrant]
    rw [hafter, hgrant]
    refine acquireSet_grants hbetween htaken hlist (fun x hx => ?_) (fun x hx => ?_) htok hlt
    · obtain ⟨-, hrest, -, hnone, hadm, hqueue, hle⟩ := hl x hx
      exact ⟨hrest, ⟨hnone, by rw [State.waitersOf_nil hqueue]; exact nofun⟩, hle, hadm, hqueue⟩
    · obtain ⟨-, -, hholding, -⟩ := hl x hx
      exact hholding
  · intro s s1 f n key mode htaken hn hkey hmode
    refine ⟨fun hcount => ?_, fun _ hmost i hi hbefore => ⟨fun hres => ?_, fun hres hbad => ?_⟩⟩
    · obtain ⟨-, -, -, -, hlen⟩ := marksOf_eq htaken rfl
      refine exec_acquireSet htaken ?_
      rw [acquireSetWork, if_neg (not_not_intro hlen), if_pos (by rw [← hn]; exact hcount)]
      rfl
    · refine acquireSet_badList htaken hn hkey hmode hi hmost hbefore fun rest seen _ => ?_
      rw [checkItems, if_pos hres]
    · refine acquireSet_badList htaken hn hkey hmode hi hmost hbefore fun rest seen hseen => ?_
      rw [checkItems, if_neg hres]
      rcases hbad with ⟨h0, h1⟩ | ⟨h, hh, heq⟩
      · rw [modeOf_none h0 h1]
      · cases modeOf (mode i) with
        | none => rfl
        | some m =>
          dsimp only
          rw [if_pos (by simpa using (hseen (key i)).2 ⟨h, hh, heq⟩)]
  · intro s s1 f before after x map st _ htaken hl hmap hgood hbefore hroom hx
    obtain ⟨-, -, -, -, hlen⟩ := marksOf_eq htaken rfl
    obtain ⟨done, past, hhand, hdone, hprepared, hexamine⟩ := examine_keys hmap hgood
      (rest := (x.key, x.mode) :: after.map fun x => (x.key, x.mode)) before [] [] 0 ⟨nofun, rfl⟩ rfl hbefore
      (by rw [Nat.zero_add]; exact hroom)
    rw [Nat.zero_add] at hprepared
    have hfails := hexamine.trans (examine_fails hmap hgood hhand hprepared hx _)
    rw [hdone, List.length_nil, Nat.zero_add] at hfails
    refine exec_acquireSet htaken (acquireSetWork_failed hlen hl ?_)
    rw [List.map_append, List.map_cons]
    exact hfails

end Sys2Proof.Machine
end

section
/-! PROOFS. The restart sweep: its reads of control words, the slots that are FREE, and the sessions (R167 to R172). -/

namespace Sys2Proof.Machine

/-! ### Stages 1 to 3 over good words (R168, R169) -/

theorem State.sweepSession_holds {s : State} {c : Nat} {e : SessEntry} (h : (sessionWord c).holds s e) :
    s.sweepSession c = s := by
  rw [State.sweepSession, Control.read_holds h]

/-- A stage that leaves a state over each number of a list leaves it over the list. -/
theorem foldl_fixed {α : Type} {g : State → α → State} {s : State} {l : List α} (h : ∀ a ∈ l, g s a = s) : l.foldl g s = s := by
  induction l with
  | nil => rfl
  | cons a l ih =>
    obtain ⟨ha, hl⟩ := List.forall_mem_cons.1 h
    rw [List.foldl_cons, ha, ih hl]

section
variable {s : State} {se : Nat → SessEntry} {map : ZoneMap} {tok : Token} {nonce : Nonce} {fl : StoreFlags}

/-- Control words that all hold a value: stage 1 changes nothing. -/
theorem State.sweepStage1_holds (hse : ∀ c, c < 16 → (sessionWord c).holds s (se c)) (hmap : zoneWord.holds s map)
    (htok : tokenWord.holds s tok) (hnonce : nonceWord.holds s nonce) (hfl : flagsWord.holds s fl) : s.sweepStage1 = s := by
  have hsess : (List.range Config.sessions).foldl State.sweepSession s = s :=
    foldl_fixed fun c hc => State.sweepSession_holds (hse c (List.mem_range.1 hc))
  have hlost : s.lostSessions = 0 := by
    rw [State.lostSessions, List.filter_eq_nil_iff.2 fun c hc => by
      rw [Control.peek_holds (hse c (List.mem_range.1 hc))]
      exact Bool.false_ne_true]
    rfl
  rw [State.sweepStage1, hsess, Control.read_holds hmap]
  dsimp only
  rw [Control.read_holds htok]
  dsimp only
  rw [Control.read_holds hnonce]
  dsimp only
  rw [Control.read_holds hfl]
  dsimp only
  exact if_pos (.inl hlost)

end

/-- Without the WIPING flag stage 3 changes nothing. -/
theorem State.sweepStage3_unwiped {s : State} {fl : StoreFlags} (hfl : flagsWord.holds s fl) (h : fl.wiping = false) :
    s.sweepStage3 = s := by
  rw [State.sweepStage3, Control.peek_holds hfl]
  dsimp only
  rw [h, if_neg Bool.false_ne_true, ite_self]

/-- Without a settling session stage 4 changes nothing. -/
theorem State.sweepStage4_unsettled {s : State} (h : s.settling = []) : s.sweepStage4 = s := by
  rw [State.sweepStage4, if_pos (.inr h)]

theorem State.settling_nil {s : State} (h : ∀ c, c < 16 → (s.session c).state ≠ .settling) : s.settling = [] := by
  rw [State.settling, List.filter_eq_nil_iff.2 fun c hc => by simpa using h c (List.mem_range.1 hc)]
  rfl

/-! ### Stage 5 over FREE slots (R171) -/

theorem State.sweepRead_free {s : State} {n : Nat} (hfree : (s.store.slot n).val.ident.inUse = false)
    (hgood : (s.store.slot n).ecc.head? = some .good) : s.sweepRead n = (s, true) := by
  rw [State.sweepRead, IdWord.holdsRecord, hfree, if_neg (by simp), State.readSlot_identGood hgood]

theorem identReadable_good {b : Block SlotImg} (h : b.ecc.head? = some .good) : identReadable b = true := by
  obtain ⟨es, hes⟩ := List.head?_eq_some_iff.1 h
  rw [identReadable, hes]
  rfl

theorem State.stage5Slot_free {s : State} {n : Nat} (hfree : (s.store.slot n).val.ident.inUse = false)
    (hgood : (s.store.slot n).ecc.head? = some .good) : s.stage5Slot n = s.markFree n true := by
  rw [State.stage5Slot, State.sweepRead_free hfree hgood]
  dsimp only
  rw [if_neg (by rw [identReadable_good hgood]; exact Bool.false_ne_true), if_pos (by rw [hfree]; rfl)]

theorem State.isFree_markFree {s : State} {n m : Nat} (hm : m < Config.slots) :
    (s.markFree n true).isFree m = (s.isFree m || decide (m = n)) := by
  have hwidth : m < 1024 := hm
  simp only [State.isFree, State.markFree, State.setFree, if_true, BitVec.getLsbD_or, BitVec.getLsbD_shiftLeft, hwidth,
    decide_true, Bool.true_and]
  rcases Nat.lt_trichotomy m n with hlt | rfl | hgt
  · simp [hlt, Nat.ne_of_lt hlt]
  · simp
  · have hsub : m - n ≠ 0 := by omega
    simp [Nat.not_lt_of_gt hgt, Nat.ne_of_gt hgt, hsub]

/-- Slots marked FREE, every one of them: the set of FREE slots is whole. -/
theorem foldl_markFree (s : State) : ∀ (l : List Nat), ∃ x, l.foldl (fun s n => s.markFree n true) s = s.setFree x ∧
    ∀ n, n < 1024 → x.getLsbD n = (s.isFree n || decide (n ∈ l))
  | [] => ⟨s.main.free, rfl, fun n _ => by simp [State.isFree]⟩
  | m :: l => by
    obtain ⟨x, hx, hbits⟩ := foldl_markFree (s.markFree m true) l
    refine ⟨x, hx, fun n hn => ?_⟩
    rw [hbits n hn, State.isFree_markFree hn, Bool.or_assoc]
    simp [List.mem_cons]

theorem State.sweepStage5_free {s : State} (hfault : ¬ s.inFault) (h : ∀ n, n < 1024 →
    (s.store.slot n).val.ident.inUse = false ∧ (s.store.slot n).ecc.head? = some .good) :
    s.sweepStage5 = s.setFree (BitVec.allOnes 1024) := by
  have hslots : ∀ (l : List Nat) (x : State), (∀ n ∈ l, n < 1024) → x.store = s.store →
      l.foldl State.stage5Slot x = l.foldl (fun x n => x.markFree n true) x := fun l => by
    induction l with
    | nil => exact fun _ _ _ => rfl
    | cons n l ih =>
      intro x hl hx
      obtain ⟨hn, hl⟩ := List.forall_mem_cons.1 hl
      rw [List.foldl_cons, List.foldl_cons, State.stage5Slot_free (by rw [hx]; exact (h n hn).1) (by rw [hx]; exact (h n hn).2)]
      exact ih _ hl hx
  obtain ⟨x, hx, hbits⟩ := foldl_markFree s (List.range Config.slots)
  rw [State.sweepStage5, if_neg hfault, hslots _ s (fun n hn => List.mem_range.1 hn) rfl, hx]
  refine congrArg s.setFree (BitVec.eq_of_getLsbD_eq fun n hn => ?_)
  rw [hbits n hn, BitVec.getLsbD_allOnes, decide_eq_true hn]
  simp only [List.mem_range, Bool.or_eq_true, decide_eq_true_eq]
  exact .inr hn

/-! ### The sessions (R172) -/

theorem mem_schedPlace {e x : Entry} : ∀ {es : List Entry}, x ∈ schedPlace e es ↔ x = e ∨ x ∈ es
  | [] => by simp [schedPlace]
  | y :: ys => by
    rw [schedPlace]
    split
    · rw [List.mem_cons, List.mem_cons, mem_schedPlace, or_left_comm]
    · rw [List.mem_cons]

theorem mem_schedInsert {now : Tick} {k : Kind} {r : Ref} {d : Tick} {es : List Entry} {x : Entry} :
    x ∈ schedInsert now k r d es ↔
      x = { kind := k, ref := r, deadline := d, due := decide (d ≤ now) } ∨ x ∈ es ∧ x.ref ≠ r := by
  rw [schedInsert, mem_schedPlace, schedDrop, List.mem_filter, bne_iff_ne]

/-- What a restart makes of the sessions of a set: each entry committed as `out` says, the marks set, and the deadline of
a SUSPECT one scheduled; everything else is as it was. -/
structure State.restarted (s : State) (out : Nat → SessEntry) (done : Nat → Prop) (x : State) : Prop where
  between  : x.between
  only     : x = (s.setStore x.store).setMain
    { s.main with sessV := x.main.sessV, notices := x.main.notices, sched := x.main.sched }
  slots    : x.store.slots = s.store.slots
  zone     : x.store.zone = s.store.zone
  token    : x.store.token = s.store.token
  nonce    : x.store.nonce = s.store.nonce
  flags    : x.store.flags = s.store.flags
  others   : ∀ c, ¬ done c → x.store.session c = s.store.session c ∧ x.vol c = s.vol c
  entry    : ∀ c, done c → x.store.session c = Copies.two (out c)
  unused   : ∀ c, done c → (out c).state = .free → x.vol c = s.vol c
  marks    : ∀ c, done c → (out c).state ≠ .free → (x.vol c).restarted = true ∧ (x.vol c).waitCount = 0
  deadline : ∀ c, done c → (out c).state = .suspect →
    (x.vol c).deadline = some (tickPlus s.now (2 * (out c).hbTerm.toNat)) ∧
    ∃ e ∈ x.main.sched, e.kind = .grace ∧ e.ref = .session c ∧ e.deadline = tickPlus s.now (2 * (out c).hbTerm.toNat)
  sched    : ∀ e ∈ s.main.sched, (∀ c, done c → e.ref ≠ .session c) → e ∈ x.main.sched

theorem State.restarted.refl {s : State} (h : s.between) (out : Nat → SessEntry) : s.restarted out (fun _ => False) s where
  between := h
  only := rfl
  slots := rfl
  zone := rfl
  token := rfl
  nonce := rfl
  flags := rfl
  others _ _ := ⟨rfl, rfl⟩
  entry _ h := h.elim
  unused _ h := h.elim
  marks _ h := h.elim
  deadline _ h := h.elim
  sched _ he _ := he

theorem State.restarted.trans {s x y : State} {out : Nat → SessEntry} {done next : Nat → Prop}
    (h : s.restarted out done x) (h' : x.restarted out next y) (hnew : ∀ c, done c → ¬ next c) :
    s.restarted out (fun c => done c ∨ next c) y where
  between := h'.between
  only := by
    have h1 := h.only
    have h2 := h'.only
    rw [h1] at h2
    exact h2
  slots := h'.slots.trans h.slots
  zone := h'.zone.trans h.zone
  token := h'.token.trans h.token
  nonce := h'.nonce.trans h.nonce
  flags := h'.flags.trans h.flags
  others c hc := by
    obtain ⟨hd, hn⟩ := not_or.1 hc
    obtain ⟨h1, h2⟩ := h.others c hd
    obtain ⟨h3, h4⟩ := h'.others c hn
    exact ⟨h3.trans h1, h4.trans h2⟩
  entry c hc := by
    rcases hc with hd | hn
    · exact (h'.others c (hnew c hd)).1.trans (h.entry c hd)
    · exact h'.entry c hn
  unused c hc hfree := by
    by_cases hd : done c
    · exact (h'.others c (hnew c hd)).2.trans (h.unused c hd hfree)
    · exact (h'.unused c (hc.resolve_left hd) hfree).trans (h.others c hd).2
  marks c hc hused := by
    by_cases hd : done c
    · rw [(h'.others c (hnew c hd)).2]
      exact h.marks c hd hused
    · exact h'.marks c (hc.resolve_left hd) hused
  deadline c hc hsuspect := by
    have hnow : x.now = s.now := by
      have h1 := h.only
      rw [h1]
      rfl
    by_cases hd : done c
    · obtain ⟨hvol, e, he, hkind, href, hdeadline⟩ := h.deadline c hd hsuspect
      rw [(h'.others c (hnew c hd)).2]
      refine ⟨hvol, e, h'.sched e he fun d hd' heq => hnew c hd ?_, hkind, href, hdeadline⟩
      rw [href] at heq
      exact (Ref.session.inj heq) ▸ hd'
    · rw [← hnow]
      exact h'.deadline c (hc.resolve_left hd) hsuspect
  sched e he hne := h'.sched e (h.sched e he fun c hc => hne c (.inl hc)) fun c hc => hne c (.inr hc)

theorem State.restarted.congr {s x : State} {out out' : Nat → SessEntry} {done done' : Nat → Prop} (h : s.restarted out done x)
    (hd : ∀ c, done c ↔ done' c) (hout : ∀ c, done c → out c = out' c) : s.restarted out' done' x := by
  obtain rfl : done = done' := funext fun c => propext (hd c)
  exact {
    h with
    entry := fun c hc => hout c hc ▸ h.entry c hc
    unused := fun c hc => hout c hc ▸ h.unused c hc
    marks := fun c hc => hout c hc ▸ h.marks c hc
    deadline := fun c hc => hout c hc ▸ h.deadline c hc }

/-- A session entry behind stage 6 (R172). -/
def restartedEntry (e : SessEntry) : SessEntry := if e.state = .free then e else stage6Entry e

theorem restartedEntry_free {e : SessEntry} : (restartedEntry e).state = .free ↔ e.state = .free := by
  by_cases h : e.state = .free
  · rw [restartedEntry, if_pos h]
  · rw [restartedEntry, if_neg h, stage6Entry]
    dsimp only
    split
    · simp [h]
    · exact Iff.rfl

theorem Store.setSession_session {st : Store} (h : st.canonical = true) (c : Nat) : st.setSession c (st.session c) = st := by
  obtain ⟨-, hsess, -⟩ := (Store.canonical_iff st).1 h
  rw [Store.setSession, Store.session, Tab.set_get hsess]

/-- A session entry committed where it changes: the store as it was but for the entry. -/
theorem State.commit_entry {s : State} (hs : s.between) {c : Nat} {e e' : SessEntry} (he : (sessionWord c).holds s e) :
    ∃ st, (if e' = e then s else s.commit { session := some (c, e') }) = s.setStore st ∧ (s.setStore st).between ∧
      st.coreEq (s.store.putEntry (c, e')) := by
  split
  next heq =>
    refine ⟨s.store, rfl, hs, ?_⟩
    rw [Store.putEntry, heq, show Copies.two e = s.store.session c from he.symm, Store.setSession_session hs.canonical]
    exact Store.coreEq.refl _
  next =>
    refine ⟨_, State.commit_eq s hs.uncut _, ?_, State.commit_store hs.uncut hs.canonical _⟩
    rw [← State.commit_eq s hs.uncut _]
    exact State.between_commit hs _

/-- The marks of a session behind a restart, and the deadline of a SUSPECT one. -/
def State.marked (s : State) (c : Nat) (e : SessEntry) : State :=
  if e.state = .suspect then (s.markRestarted c).placeDeadline .grace c (tickPlus s.now (2 * e.hbTerm.toNat))
  else s.markRestarted c

theorem State.vol_marked {s : State} (h : Tab.wf SessVol.none s.main.sessV = true) (c d : Nat) (e : SessEntry) :
    (s.marked c e).vol d = if c = d then { s.vol c with
      restarted := true, waitCount := 0,
      deadline := if e.state = .suspect then some (tickPlus s.now (2 * e.hbTerm.toNat)) else (s.vol c).deadline }
      else s.vol d := by
  have hmark : ∀ d, (s.markRestarted c).vol d =
      if c = d then { s.vol c with restarted := true, waitCount := 0 } else s.vol d := fun d => State.vol_setVol h c d _
  rw [State.marked]
  split
  next hsuspect =>
    have hplace : ∀ t, ((s.markRestarted c).placeDeadline .grace c t).vol d =
        ((s.markRestarted c).setVol c { (s.markRestarted c).vol c with deadline := some t }).vol d := fun _ => rfl
    rw [hplace, State.vol_setVol (Tab.wf_set h c _), hmark, hmark, if_pos rfl]
    split
    · rfl
    · rfl
  next => exact hmark d

theorem State.marked_sched (s : State) (c : Nat) (e : SessEntry) : (s.marked c e).main.sched =
    if e.state = .suspect then Machine.schedInsert s.now .grace (.session c) (tickPlus s.now (2 * e.hbTerm.toNat)) s.main.sched
    else s.main.sched := by
  rw [State.marked]
  split <;> rfl

/-- A change of the sessions' fields, the notices and the schedule alone. -/
def State.onlySessions (s x : State) : Prop :=
  x = s.setMain { s.main with sessV := x.main.sessV, notices := x.main.notices, sched := x.main.sched }

theorem State.onlySessions.trans {s x y : State} (h : s.onlySessions x) (h' : x.onlySessions y) : s.onlySessions y := by
  unfold State.onlySessions at h h'
  rw [h] at h'
  exact h'

theorem State.onlySessions_setVol (s : State) (c : Nat) (v : SessVol) : s.onlySessions (s.setVol c v) := rfl

theorem State.onlySessions_markRestarted (s : State) (c : Nat) : s.onlySessions (s.markRestarted c) :=
  (State.onlySessions_setVol s c _).trans (y := (s.setVol c _).setNoticesOf c _) rfl

theorem State.onlySessions_placeDeadline (s : State) (k : Kind) (c : Nat) (t : Tick) :
    s.onlySessions (s.placeDeadline k c t) :=
  (State.onlySessions_setVol s c _).trans (y := (s.setVol c _).schedInsert k (.session c) t) rfl

theorem State.onlySessions_marked (s : State) (c : Nat) (e : SessEntry) : s.onlySessions (s.marked c e) := by
  rw [State.marked]
  split
  · exact (State.onlySessions_markRestarted s c).trans (State.onlySessions_placeDeadline _ _ _ _)
  · exact State.onlySessions_markRestarted s c

/-- Stage 6 on a session that is not FREE: its entry committed, its marks set. -/
theorem State.stage6Session_used {s : State} {c : Nat} {e : SessEntry} (h : s.session c = e) (hused : e.state ≠ .free) :
    s.stage6Session c =
      (if stage6Entry e = e then s else s.commit { session := some (c, stage6Entry e) }).marked c (stage6Entry e) := by
  subst h
  rw [State.stage6Session]
  exact if_neg hused

/-- Stage 6 on one session. -/
theorem State.stage6Session_restarts {s : State} (hs : s.between) (hfault : ¬ s.inFault) {c : Nat} {e : SessEntry}
    (he : (sessionWord c).holds s e) : s.restarted (fun _ => restartedEntry e) (· = c) (s.stage6Session c) := by
  have hsession : s.session c = e := State.session_holds he (State.entryLost_normal hfault c)
  have hbetween : (s.stage6Session c).between := steady_between.stage6Session s c hs
  by_cases hfree : e.state = .free
  · have hsame : s.stage6Session c = s := by
      rw [State.stage6Session, hsession]
      exact if_pos hfree
    have hentry : restartedEntry e = e := if_pos hfree
    rw [hsame]
    exact {
      State.restarted.refl hs (fun _ => restartedEntry e) with
      others := fun _ _ => ⟨rfl, rfl⟩
      entry := by
        rintro _ rfl
        rw [hentry]
        exact he
      unused := fun _ _ _ => rfl
      marks := fun _ _ hused => absurd (restartedEntry_free.2 hfree) hused
      deadline := fun _ _ hsuspect => by
        rw [hentry, hfree] at hsuspect
        cases hsuspect
      sched := fun _ he _ => he }
  · have hentry : restartedEntry e = stage6Entry e := if_neg hfree
    obtain ⟨st, hst, hstbetween, hcore⟩ := State.commit_entry hs (e' := stage6Entry e) he
    have hused := State.stage6Session_used hsession hfree
    rw [hst] at hused
    have hsessV := State.between_sessV hstbetween
    rw [hused] at hbetween ⊢
    have hvol := State.vol_marked hsessV c
    obtain ⟨hslots, hsess, hzone, htoken, hnonce, hflags⟩ := hcore
    have hstore : ((s.setStore st).marked c (stage6Entry e)).store = st := by
      rw [State.onlySessions_marked (s.setStore st) c (stage6Entry e)]
      rfl
    have hentries : ∀ d, st.session d = if c = d then Copies.two (stage6Entry e) else s.store.session d := fun d =>
      (congrArg (Tab.get Copies.freeSess · d) hsess).trans (Store.session_setSession hs.canonical c d _)
    exact {
      between := hbetween
      only := by
        rw [hstore]
        exact State.onlySessions_marked (s.setStore st) c (stage6Entry e)
      slots := by rw [hstore]; exact hslots
      zone := by rw [hstore]; exact hzone
      token := by rw [hstore]; exact htoken
      nonce := by rw [hstore]; exact hnonce
      flags := by rw [hstore]; exact hflags
      others := fun d hd => by
        rw [hstore, hentries, hvol, if_neg (Ne.symm hd), if_neg (Ne.symm hd)]
        exact ⟨rfl, rfl⟩
      entry := by
        rintro _ rfl
        rw [hstore, hentries, if_pos rfl, hentry]
      unused := fun _ _ h => absurd (restartedEntry_free.1 h) hfree
      marks := by
        rintro _ rfl -
        rw [hvol, if_pos rfl]
        exact ⟨rfl, rfl⟩
      deadline := by
        rintro _ rfl hsuspect
        rw [hentry] at hsuspect ⊢
        rw [hvol, if_pos rfl, if_pos hsuspect, State.marked_sched, if_pos hsuspect]
        exact ⟨rfl, _, mem_schedInsert.2 (.inl rfl), rfl, rfl, rfl⟩
      sched := fun x hx hne => by
        rw [State.marked_sched]
        split
        · exact mem_schedInsert.2 (.inr ⟨hx, hne c rfl⟩)
        · exact hx }

theorem State.restarted.mon {s x : State} {out : Nat → SessEntry} {done : Nat → Prop} (h : s.restarted out done x) :
    x.main.mon = s.main.mon := by
  have h1 := h.only
  rw [h1]
  rfl

/-- Stage 6 on the sessions of a list. -/
theorem State.stage6_restarts {se : Nat → SessEntry} : ∀ (cs : List Nat) {s : State}, s.between → ¬ s.inFault → cs.Nodup →
    (∀ c ∈ cs, (sessionWord c).holds s (se c)) →
    s.restarted (fun c => restartedEntry (se c)) (· ∈ cs) (cs.foldl State.stage6Session s)
  | [], _, hs, _, _, _ => (State.restarted.refl hs _).congr (fun c => (iff_of_false id (List.not_mem_nil))) fun _ _ => rfl
  | c :: cs, s, hs, hfault, hnodup, hse => by
    obtain ⟨hnew, hnodup⟩ := List.nodup_cons.1 hnodup
    obtain ⟨hc, hcs⟩ := List.forall_mem_cons.1 hse
    have hone := (State.stage6Session_restarts hs hfault hc).congr (out' := fun c => restartedEntry (se c)) (fun _ => Iff.rfl)
      fun d hd => by rw [hd]
    have hrest := State.stage6_restarts (se := se) cs hone.between (by rw [State.inFault, hone.mon]; exact hfault) hnodup
      fun d hd => (hone.others d fun h => hnew (h ▸ hd)).1.trans (hcs d hd)
    exact (hone.trans hrest fun d hd => by rw [hd]; exact hnew).congr (fun d => List.mem_cons.symm) fun _ _ => rfl

theorem State.sweepStage6_restarts {se : Nat → SessEntry} {s : State} (hs : s.between) (hfault : ¬ s.inFault)
    (hse : ∀ c, c < 16 → (sessionWord c).holds s (se c)) :
    s.restarted (fun c => restartedEntry (se c)) (· < 16) s.sweepStage6 := by
  rw [State.sweepStage6, if_neg hfault]
  exact (State.stage6_restarts _ hs hfault List.nodup_range fun c hc => hse c (List.mem_range.1 hc)).congr
    (fun c => List.mem_range) fun _ _ => rfl

/-! ### A sweep over an empty directory -/

theorem exec_restartSweep {s : State} (hstate : s.power.state = .restarting) (hreset : s.power.resetN = true) :
    exec .restartSweep s = .next s.sweep := by
  show Host.Outcome.next (takeSweep s) = _
  rw [takeSweep, if_pos ⟨hstate, hreset⟩]

/-- Settles O52: stages 1 to 4 find nothing to do, stage 5 finds every slot FREE, and stage 6 treats the sessions. -/
theorem sweepSuspendsTheSessions : Obligations.SweepSuspendsTheSessions := by
  intro s firstStart supsel se map tok nonce fl hs hstate hreset hmain hse hmap htok hnonce hfl hwiping hmarker hslots
  have hfault : ¬ s.inFault := by
    rw [State.inFault, hmain]
    exact Bool.false_ne_true
  have hsettling : s.settling = [] := State.settling_nil fun c hc => by
    obtain ⟨hholds, hstate⟩ := hse c hc
    rw [State.session_holds hholds (State.entryLost_normal hfault c)]
    exact hstate
  have hswept : s.sweep = (s.setFree (BitVec.allOnes 1024)).sweepStage6.becomeReady := by
    rw [State.sweep, State.sweepStage1_holds (fun c hc => (hse c hc).1) hmap htok hnonce hfl, State.replay_clear hmarker,
      State.sweepStage3_unwiped hfl hwiping, State.sweepStage4_unsettled hsettling, State.sweepStage5_free hfault hslots]
  generalize BitVec.allOnes 1024 = all at hswept ⊢
  have hrestarted := State.sweepStage6_restarts (s := s.setFree all) (steady_between.free _ _ hs) hfault fun c hc => (hse c hc).1
  generalize (s.setFree all).sweepStage6 = x at hswept hrestarted
  have honly := hrestarted.only
  refine ⟨_, (exec_restartSweep hstate hreset).trans (congrArg _ hswept), ?_⟩
  have hpower : x.power = s.power := by rw [honly]; rfl
  have htb : x.tb = s.tb := by rw [honly]; rfl
  have hmainx : x.main.free = all ∧ x.main.index = s.main.index ∧ x.main.quar = s.main.quar ∧
      x.main.ports = s.main.ports ∧ x.main.arbiter = s.main.arbiter := by
    rw [honly]
    exact ⟨rfl, rfl, rfl, rfl, rfl⟩
  obtain ⟨hfree, hindex, hquar, hports, harb⟩ := hmainx
  refine ⟨by rw [← hpower]; rfl, htb, hrestarted.slots, hrestarted.zone, hrestarted.token, hrestarted.nonce,
    hrestarted.flags, hfree, hindex.trans (by rw [hmain]; rfl), hquar.trans (by rw [hmain]; rfl), rfl, hports, harb,
    fun c hc => ⟨fun hcfree => ?_, fun hused => ?_, fun hsuspect => ?_⟩⟩
  · have hentry : restartedEntry (se c) = se c := if_pos hcfree
    refine ⟨?_, hrestarted.unused c hc (restartedEntry_free.2 hcfree)⟩
    exact (hrestarted.entry c hc).trans (by rw [hentry]; exact (hse c hc).1.symm)
  · have hentry : restartedEntry (se c) = stage6Entry (se c) := if_neg hused
    obtain ⟨hmark, hcount⟩ := hrestarted.marks c hc fun h => hused (restartedEntry_free.1 h)
    refine ⟨?_, hmark, hcount⟩
    exact (hrestarted.entry c hc).trans (by rw [hentry]; rfl)
  · have hused : (se c).state ≠ .free := by rcases hsuspect with h | h <;> rw [h] <;> exact SessState.noConfusion
    have hentry : restartedEntry (se c) = stage6Entry (se c) := if_neg hused
    have hstate : (restartedEntry (se c)).state = .suspect := by
      rw [hentry, stage6Entry]
      rcases hsuspect with h | h <;> rw [h] <;> rfl
    have hdeadline := hrestarted.deadline c hc hstate
    rw [hentry] at hdeadline
    exact hdeadline

end Sys2Proof.Machine
end

section
/-! PROOFS. The restart sweep where control words are lost, and over a WIPE that was cut short (R136, R168, R169). -/

namespace Sys2Proof.Machine

/-! ### Control words that hold or are lost (R135, R136) -/

/-- A control word that is lost joins the set of lost control words, and the mode is STORE_FAULT. -/
def Monitor.losing (b : Bool) (n : Nat) (m : Monitor) : Monitor :=
  if b then { m with fault := true, lost := m.lost ||| lostBit n } else m

theorem Monitor.logged.losing {m m' : Monitor} (h : m.logged m') (b : Bool) (n : Nat) :
    (m.losing b n).logged (m'.losing b n) := by
  obtain ⟨x, y, z, rfl⟩ := h
  cases b <;> exact ⟨x, y, z, rfl⟩

theorem Monitor.logged.refl (m : Monitor) : m.logged m := ⟨_, _, _, rfl⟩

section
variable {α : Type} {c : Control α} {s : State} {o : Option α}

theorem Control.holdsOrLost.value (h : c.holdsOrLost s o) : (c.get s.store).value = o := by
  cases o with
  | some v => exact Control.peek_holds h
  | none =>
    obtain ⟨h1, h2⟩ := h
    rw [Copies.value, if_neg (Bool.eq_false_iff.1 h1), if_neg (Bool.eq_false_iff.1 h2)]

/-- The read of a control word that is good, or lost in both copies, changes the monitor at most. -/
theorem Control.read_losing [DecidableEq α] (h : c.holdsOrLost s o) :
    ∃ m, s.main.mon.logged m ∧ c.read s = (s.setMon (m.losing o.isNone c.number), o) := by
  cases o with
  | some v => exact ⟨s.main.mon, Monitor.logged.refl _, Control.read_holds h⟩
  | none =>
    have hread : c.read s = (((s.logWords .control c.number 1 (c.get s.store).c1.ecc).logWords .control c.number 2
        (c.get s.store).c2.ecc).enterFault (lostBit c.number), none) := by simp only [Control.read, h.value]
    exact ⟨_, (Monitor.logged_logWords _ _ _ _ _ _).trans (Monitor.logged_logWords _ _ _ _ _ _), hread⟩

theorem Control.read_setMon [DecidableEq α] (h : c.holdsOrLost s o) (m : Monitor) :
    ∃ m', m.logged m' ∧ c.read (s.setMon m) = (s.setMon (m'.losing o.isNone c.number), o) :=
  Control.read_losing (s := s.setMon m) (by cases o <;> exact h)

end

/-- Stage 1 on a session entry enters no mode (R168). -/
theorem State.sweepSession_logged {s : State} {c : Nat} {o : Option SessEntry} (h : (sessionWord c).holdsOrLost s o) :
    ∃ m, s.main.mon.logged m ∧ s.sweepSession c = s.setMon m := by
  obtain ⟨m, hm, hread⟩ := Control.read_losing h
  rw [State.sweepSession, hread]
  cases o with
  | some e => exact ⟨m, hm, rfl⟩
  | none =>
    obtain ⟨a, b, tr, rfl⟩ := hm
    exact ⟨_, ⟨a, b, tr, rfl⟩, rfl⟩

theorem foldl_sweepSession : ∀ (cs : List Nat) {s : State}, (∀ c ∈ cs, ∃ o, (sessionWord c).holdsOrLost s o) →
    ∃ m, s.main.mon.logged m ∧ cs.foldl State.sweepSession s = s.setMon m
  | [], s, _ => ⟨s.main.mon, Monitor.logged.refl _, rfl⟩
  | c :: cs, s, h => by
    obtain ⟨⟨o, hc⟩, hcs⟩ := List.forall_mem_cons.1 h
    obtain ⟨m, hm, hone⟩ := State.sweepSession_logged hc
    obtain ⟨m', hm', hrest⟩ := foldl_sweepSession cs (s := s.setMon m) hcs
    exact ⟨m', hm.trans hm', by rw [List.foldl_cons, hone, hrest]; rfl⟩

section
variable {s : State} {se : Nat → Option SessEntry} {map : Option ZoneMap} {tok : Option Token} {nonce : Option Nonce}
  {fl : Option StoreFlags}

/-- What stage 1 finds of the words that are no session entries (R168). -/
def Monitor.stage1 (map : Option ZoneMap) (tok : Option Token) (nonce : Option Nonce) (fl : Option StoreFlags) (m : Monitor) :
    Monitor :=
  (((m.losing map.isNone 16).losing tok.isNone 17).losing nonce.isNone 18).losing fl.isNone 19

/-- Stage 1 over control words that hold or are lost. -/
theorem State.sweepStage1_eq (hse : ∀ c, c < 16 → (sessionWord c).holdsOrLost s (se c)) (hmap : zoneWord.holdsOrLost s map)
    (htok : tokenWord.holdsOrLost s tok) (hnonce : nonceWord.holdsOrLost s nonce) (hfl : flagsWord.holdsOrLost s fl) :
    ∃ m, (s.main.mon.stage1 map tok nonce fl).logged m ∧ s.sweepStage1 =
      if s.lostSessions = 0 ∨ (fl.map StoreFlags.wiping).getD false = true ∧ ¬ m.fault = true then s.setMon m
      else (s.setMon m).enterFault s.lostSessions := by
  obtain ⟨m0, h0, hsess⟩ := foldl_sweepSession (List.range Config.sessions) (s := s)
    fun c hc => ⟨se c, hse c (List.mem_range.1 hc)⟩
  obtain ⟨m1, h1, hzone⟩ := Control.read_setMon hmap m0
  obtain ⟨m2, h2, htoken⟩ := Control.read_setMon htok (m1.losing map.isNone zoneWord.number)
  obtain ⟨m3, h3, hnonces⟩ := Control.read_setMon hnonce (m2.losing tok.isNone tokenWord.number)
  obtain ⟨m4, h4, hflags⟩ := Control.read_setMon hfl (m3.losing nonce.isNone nonceWord.number)
  refine ⟨m4.losing fl.isNone flagsWord.number, ?_, ?_⟩
  · exact (((((h0.trans h1).losing _ _).trans h2).losing _ _ |>.trans h3).losing _ _ |>.trans h4).losing _ _
  · have hwiping : ∀ m, (s.setMon m).wiping = (fl.map StoreFlags.wiping).getD false := fun m => by
      rw [State.wiping, show flagsWord.peek (s.setMon m) = fl from hfl.value]
    rw [State.sweepStage1, hsess, hzone]
    dsimp only
    rw [htoken]
    dsimp only
    rw [hnonces]
    dsimp only
    rw [hflags]
    dsimp only
    rw [hwiping]
    rfl

end

/-! ### A WIPE that was cut short (R169) -/

/-- The state at a main reset: neither in STORE_FAULT mode nor with anything in its tables (R165). -/
theorem State.sweeps.main_eq {s : State} (h : s.sweeps) : ¬ s.inFault ∧ s.main.index = [] ∧ s.main.quar = [] ∧
    s.main.free = 0 ∧ s.main.sched = [] ∧ s.main.queues = [] ∧ s.main.pool = [] ∧ s.main.notices = [] ∧
    s.main.mon.cursor = 0 := by
  obtain ⟨firstStart, supsel, hmain⟩ := h.main
  rw [State.inFault, hmain]
  exact ⟨Bool.false_ne_true, rfl, rfl, rfl, rfl, rfl, rfl, rfl, rfl⟩

theorem exec_sweeps {s : State} (h : s.sweeps) : exec .restartSweep s = .next s.sweep :=
  exec_restartSweep h.restarting h.released

/-- Stage 3 with the WIPING flag set: every slot and every session entry is FREE, and the flag is clear. -/
theorem State.sweepStage3_wiping {s : State} {fl : StoreFlags} (hs : s.between) (hfault : ¬ s.inFault)
    (hfl : flagsWord.peek s = some fl) (hwiping : fl.wiping = true) :
    s.sweepStage3 = s.setStore s.sweepStage3.store ∧ s.sweepStage3.between ∧ s.store.wiped s.sweepStage3.store fl := by
  have hstage : s.sweepStage3 = s.freeAllSlots.freeAllSessions.commit { flags := some { fl with wiping := false } } := by
    rw [State.sweepStage3, if_neg hfault, hfl]
    exact if_pos hwiping
  have hbetween := steady_between.sweepStage3 s hs
  have hall := State.freedTo_all hs.uncut hs.canonical
  rw [hstage] at hbetween ⊢
  generalize s.freeAllSlots.freeAllSessions = x at hall hbetween
  have hstore := State.commit_store hall.uncut hall.canonical { flags := some { fl with wiping := false } }
  have hmarker := State.commit_marker hall.uncut { flags := some { fl with wiping := false } }
  refine ⟨?_, hbetween, ?_⟩
  · have hset : ∀ st, x.setStore st = s.setStore st := fun st => by
      rw [hall.only]
      rfl
    exact (State.commit_eq x hall.uncut _).trans (hset _)
  · have hrest := hstore
    obtain ⟨hslots, -, hz, ht, hn, hflags⟩ := hrest
    exact {
      slots := fun n h => (congrArg (Tab.get Block.blankSlot · n) hslots).trans ((hall.slots n).1 h)
      sessions := fun c h => (hstore.session c).trans ((hall.sessions c).1 h)
      zone := hz.trans hall.zone
      token := ht.trans hall.token
      nonce := hn.trans hall.nonce
      flags := hflags
      marker := hmarker }

/-- The sweep of a part whose WIPE was cut short. -/
theorem sweep_wiping {s : State} {se : Nat → Option SessEntry} {map : ZoneMap} {tok : Token} {nonce : Nonce} {fl : StoreFlags}
    (hs : s.between) (hsweeps : s.sweeps) (hse : ∀ c, c < 16 → (sessionWord c).holdsOrLost s (se c))
    (hmap : zoneWord.holds s map) (htok : tokenWord.holds s tok) (hnonce : nonceWord.holds s nonce)
    (hfl : flagsWord.holds s fl) (hwiping : fl.wiping = true) (hmarker : s.store.intent.marker = Copies.two false) :
    ∃ m st, m.fault = false ∧ s.store.wiped st fl ∧
      s.sweep = (((s.setMon m).setStore st).setFree (BitVec.allOnes 1024)).becomeReady := by
  obtain ⟨hnofault, -⟩ := hsweeps.main_eq
  obtain ⟨m, hm, hstage1⟩ := State.sweepStage1_eq hse (map := some map) (tok := some tok) (nonce := some nonce)
    (fl := some fl) hmap htok hnonce hfl
  have hmfault : m.fault = false := by
    obtain ⟨a, b, tr, rfl⟩ := hm
    exact Bool.eq_false_iff.2 hnofault
  rw [if_pos (.inr ⟨hwiping, by rw [hmfault]; exact Bool.false_ne_true⟩)] at hstage1
  have hbetween := steady_between.sweepStage1 s hs
  rw [hstage1] at hbetween
  have hfault : ¬ (s.setMon m).inFault := Bool.eq_false_iff.1 hmfault
  obtain ⟨honly, hbetween3, hwiped⟩ := State.sweepStage3_wiping hbetween hfault (Control.peek_holds (s := s.setMon m) hfl) hwiping
  have hreplay : (s.setMon m).replay = s.setMon m := State.replay_clear hmarker
  have hsweep : s.sweep = (s.setMon m).sweepStage3.sweepStage4.sweepStage5.sweepStage6.becomeReady := by
    rw [State.sweep, hstage1, hreplay]
  generalize (s.setMon m).sweepStage3 = x at honly hbetween3 hwiped hsweep
  have hfault3 : ¬ x.inFault := by
    rw [honly]
    exact hfault
  have hsession : ∀ c, c < 16 → (sessionWord c).holds x SessEntry.free := fun c hc => hwiped.sessions c hc
  have hstage4 : x.sweepStage4 = x := State.sweepStage4_unsettled (State.settling_nil fun c hc => by
    rw [State.session_holds (hsession c hc) (State.entryLost_normal hfault3 c)]
    exact SessState.noConfusion)
  have hstage5 : x.sweepStage5 = x.setFree (BitVec.allOnes 1024) := State.sweepStage5_free hfault3 fun n hn => by
    have hslot : x.store.slot n = freedSlot (s.store.slot n) := hwiped.slots n hn
    rw [hslot]
    refine ⟨rfl, ?_⟩
    obtain ⟨e, es, hes⟩ := List.exists_cons_of_length_pos (l := (s.store.slot n).ecc) (by
      rw [Store.slot_ecc_length hs.canonical]
      exact Nat.succ_pos _)
    rw [freedSlot, hes]
    rfl
  have hstage6 : (x.setFree (BitVec.allOnes 1024)).sweepStage6 = x.setFree (BitVec.allOnes 1024) := by
    generalize BitVec.allOnes 1024 = all
    rw [State.sweepStage6, if_neg (show ¬ (x.setFree all).inFault from hfault3)]
    refine foldl_fixed fun c hc => ?_
    have hfree : (x.setFree all).session c = SessEntry.free :=
      State.session_holds (hsession c (List.mem_range.1 hc)) (State.entryLost_normal hfault3 c)
    rw [State.stage6Session, hfree]
    rfl
  refine ⟨m, x.store, hmfault, hwiped, ?_⟩
  rw [hsweep, hstage4, hstage5, hstage6, honly]
  rfl

end Sys2Proof.Machine
end

section
/-! PROOFS. The restart sweep over records and over settles that were cut short (R134, R170 to R172). -/

namespace Sys2Proof.Machine

/-! ### A record and its image (R134) -/

/-- A record that ten words hold: at most four grants, none of them with token 0. -/
def Rec.fits (r : Rec) : Prop := r.grants.length ≤ 4 ∧ ∀ g ∈ r.grants, g.token ≠ 0

theorem GrantPlace.grant_fits (p : GrantPlace) : p.grant.length ≤ 1 ∧ ∀ g ∈ p.grant, g.token ≠ 0 := by
  by_cases h : p.head.token = 0
  · rw [GrantPlace.grant, if_pos h]
    exact ⟨Nat.zero_le 1, nofun⟩
  · rw [GrantPlace.grant, if_neg h]
    exact ⟨Nat.le_refl 1, List.forall_mem_singleton.2 h⟩

theorem SlotImg.record_fits (i : SlotImg) : i.record.fits := by
  obtain ⟨h1, t1⟩ := i.g1.grant_fits
  obtain ⟨h2, t2⟩ := i.g2.grant_fits
  obtain ⟨h3, t3⟩ := i.g3.grant_fits
  obtain ⟨h4, t4⟩ := i.g4.grant_fits
  constructor
  · show i.grants.length ≤ 4
    simp only [SlotImg.grants, List.length_append]
    omega
  · exact List.forall_mem_append.2 ⟨List.forall_mem_append.2 ⟨List.forall_mem_append.2 ⟨t1, t2⟩, t3⟩, t4⟩

theorem placeOf_grant {o : Option Grant} (h : ∀ g ∈ o, g.token ≠ 0) : (placeOf o).grant = o.toList := by
  cases o with
  | none => rfl
  | some g => exact if_neg (h g rfl)

/-- A record is read back from its image. -/
theorem Rec.image_record {r : Rec} (h : r.fits) : r.image.record = r := by
  obtain ⟨hlen, htok⟩ := h
  have hplace : ∀ i : Nat, (placeOf r.grants[i]?).grant = r.grants[i]?.toList := fun i =>
    placeOf_grant fun g hg => htok g (List.mem_of_getElem? hg)
  have hgrants : r.image.grants = r.grants := by
    simp only [SlotImg.grants, Rec.image, hplace]
    exact List.getElem?_toList_four hlen
  show { r with grants := r.image.grants } = r
  rw [hgrants]

theorem Rec.fits.sweptTo {r : Rec} (h : r.fits) {gs : List Grant} (hlen : gs.length ≤ r.grants.length)
    (htok : ∀ g ∈ gs, g.token ≠ 0) : (r.sweptTo gs).fits := by
  rw [Rec.sweptTo]
  split
  · exact h
  · exact ⟨hlen.trans h.1, htok⟩

theorem Rec.sweptTo_grants (r : Rec) (gs : List Grant) : (r.sweptTo gs).grants = gs := by
  rw [Rec.sweptTo]
  split
  next heq => exact heq.symm
  next => rfl

theorem Rec.sweptTo_summary {r : Rec} (h : r.state = summaryOf r.grants) (gs : List Grant) :
    (r.sweptTo gs).state = summaryOf (r.sweptTo gs).grants := by
  rw [Rec.sweptTo]
  split
  · exact h
  · rfl

/-- A record changes with its grant list alone. -/
theorem Rec.withGrants_eq_iff {r : Rec} (h : r.state = summaryOf r.grants) (gs : List Grant) :
    r.withGrants gs = r ↔ gs = r.grants := by
  constructor
  · exact fun heq => congrArg Rec.grants heq
  · rintro rfl
    show { r with grants := r.grants, state := summaryOf r.grants } = r
    rw [← h]

theorem Rec.retires_withGrants (r : Rec) (gs : List Grant) :
    ((r.withGrants gs).persist = .transient ∧ (r.withGrants gs).state = .vacant) ↔ (r.sweptTo gs).retires [] := by
  have hpersist : (r.sweptTo gs).persist = r.persist := by
    rw [Rec.sweptTo]
    split <;> rfl
  rw [Rec.retires, hpersist, Rec.sweptTo_grants]
  exact ⟨fun ⟨h1, h2⟩ => ⟨h1, summaryOf_eq_vacant.1 h2, rfl⟩, fun ⟨h1, h2, _⟩ => ⟨h1, summaryOf_eq_vacant.2 h2⟩⟩

/-! ### The settles of the sessions found SETTLING (R170) -/

theorem List.find?_beq (l : List Nat) (k : Nat) : (l.find? fun c => c == k) = if k ∈ l then some k else none := by
  split
  next h =>
    cases hf : l.find? (fun c => c == k) with
    | none => simpa using List.find?_eq_none.1 hf k h
    | some c =>
      have hc : c = k := by simpa using List.find?_some hf
      rw [hc]
  next h => exact List.find?_eq_none.2 fun c hc hck => h (by rwa [← (by simpa using hck : c = k)])

theorem actionOf_settling {s : State} {se : Nat → SessEntry} (hse : ∀ c, c < 16 → s.session c = se c) (g : Grant) :
    actionOf s.settling g = settlesGrant se g := by
  rw [actionOf, State.settling, List.find?_map]
  have hfind : ((List.range Config.sessions).filter fun c => (s.session c).state == .settling).find?
      ((fun p : Nat × Action => p.1 == g.client) ∘ fun c => (c, (s.session c).action)) =
      if g.client ∈ (List.range Config.sessions).filter fun c => (s.session c).state == .settling then some g.client else none :=
    List.find?_beq _ _
  rw [hfind, settlesGrant]
  by_cases h : g.client < Config.sessions
  · have hsession := hse g.client h
    simp only [List.mem_filter, List.mem_range, hsession, beq_iff_eq]
    split
    · exact congrArg SessEntry.action hsession
    · rfl
  · simp only [List.mem_filter, List.mem_range, h, false_and, if_false]
    rfl

/-- A grant as stage 4 leaves it. -/
theorem stage4Grant_settles {now : Tick} {sett : List (Nat × Action)} {g : Grant} {a : Action} (h : actionOf sett g = a) :
    settledGrant now a g = if stage4Removes now sett g then none else some (stage4Grant now sett g) := by
  subst h
  rw [stage4Removes, stage4Grant]
  cases actionOf sett g with
  | none => rfl
  | release => rfl
  | orphan =>
    dsimp only [settledGrant]
    rw [Grant.due]
    by_cases hdue : g.gstate = .live ∧ g.expiry ≤ now
    · rw [if_pos hdue, if_pos (by simpa using hdue)]
    · rw [if_neg hdue, if_neg (by simpa using hdue)]
  | revive =>
    dsimp only [settledGrant]
    rw [if_neg Bool.false_ne_true]
    split <;> rfl

theorem stage4_grants {now : Tick} {sett : List (Nat × Action)} {act : Grant → Action} (h : ∀ g, actionOf sett g = act g) :
    ∀ gs : List Grant, (gs.filter fun g => !stage4Removes now sett g).map (stage4Grant now sett) =
      gs.filterMap fun g => settledGrant now (act g) g
  | [] => rfl
  | g :: gs => by
    rw [List.filterMap_cons, ← stage4_grants h gs, List.filter_cons, stage4Grant_settles (h g)]
    cases stage4Removes now sett g <;> rfl

/-! ### What a sweep stage does to a slot -/

/-- A slot whose record becomes `r`, by one commit: freed, or written whole (R15, R134). -/
structure Block.writes (r : Rec) (b b' : Block SlotImg) : Prop where
  freed   : r.retires [] → b' = freedSlot b
  written : ¬ r.retires [] → b' = { val := r.image, ecc := tenGood }

/-- What a stage of the sweep makes of the slots of a set, each by its rule; of the main domain the notices and the
attention lines may change. -/
structure State.sweptSlots (s : State) (rule : Nat → Block SlotImg → Prop) (done : Nat → Prop) (x : State) : Prop where
  between : x.between
  only    : x = (s.setStore x.store).setMain { s.main with notices := x.main.notices, attn := x.main.attn }
  rest    : x.store = { s.store with slots := x.store.slots, intent := x.store.intent }
  slots   : ∀ n, (done n → rule n (x.store.slot n)) ∧ (¬ done n → x.store.slot n = s.store.slot n)

section
variable {s x y : State} {rule : Nat → Block SlotImg → Prop} {done next : Nat → Prop}

theorem State.sweptSlots.refl (h : s.between) : s.sweptSlots rule (fun _ => False) s :=
  ⟨h, rfl, rfl, fun _ => ⟨False.elim, fun _ => rfl⟩⟩

theorem State.sweptSlots.trans (h : s.sweptSlots rule done x) (h' : x.sweptSlots rule next y) (hnew : ∀ n, done n → ¬ next n) :
    s.sweptSlots rule (fun n => done n ∨ next n) y where
  between := h'.between
  only := by
    have h1 := h.only
    have h2 := h'.only
    rw [h1] at h2
    exact h2
  rest := by
    have h1 := h.rest
    have h2 := h'.rest
    rw [h1] at h2
    exact h2
  slots n := by
    obtain ⟨hin, hout⟩ := h.slots n
    obtain ⟨hin', hout'⟩ := h'.slots n
    refine ⟨fun hn => ?_, fun hn => (hout' fun h => hn (.inr h)).trans (hout fun h => hn (.inl h))⟩
    rcases hn with hd | hn
    · rw [hout' (hnew n hd)]
      exact hin hd
    · exact hin' hn

theorem State.sweptSlots.congr {done' : Nat → Prop} (h : s.sweptSlots rule done x) (hd : ∀ n, done n ↔ done' n) :
    s.sweptSlots rule done' x := by
  rwa [show done' = done from funext fun n => propext (hd n).symm]

theorem State.sweptSlots.now (h : s.sweptSlots rule done x) : x.now = s.now := by
  have h1 := h.only
  rw [h1]
  rfl

theorem State.sweptSlots.mon (h : s.sweptSlots rule done x) : x.main.mon = s.main.mon := by
  have h1 := h.only
  rw [h1]
  rfl

/-- A stage over the slots of a list, each by its rule. -/
theorem foldl_sweptSlots {g : State → Nat → State} (hg : ∀ (n : Nat) (x : State), x.between → x.now = s.now → ¬ x.inFault →
      x.store.slot n = s.store.slot n → n < 1024 → x.sweptSlots rule (· = n) (g x n)) :
    ∀ (l : List Nat) {x : State}, l.Nodup → (∀ n ∈ l, n < 1024) → x.between → x.now = s.now → ¬ x.inFault →
      (∀ n ∈ l, x.store.slot n = s.store.slot n) → x.sweptSlots rule (· ∈ l) (l.foldl g x)
  | [], _, _, _, hx, _, _, _ => (State.sweptSlots.refl hx).congr fun n => iff_of_false id List.not_mem_nil
  | n :: l, x, hnodup, hl, hx, hnow, hfault, hslots => by
    obtain ⟨hnew, hnodup⟩ := List.nodup_cons.1 hnodup
    obtain ⟨hn, hl⟩ := List.forall_mem_cons.1 hl
    obtain ⟨hslot, hslots⟩ := List.forall_mem_cons.1 hslots
    have hone := hg n x hx hnow hfault hslot hn
    have hrest := foldl_sweptSlots hg l hnodup hl hone.between (hone.now.trans hnow)
      (by rw [State.inFault, hone.mon]; exact hfault) fun m hm =>
        ((hone.slots m).2 fun h => hnew (h ▸ hm)).trans (hslots m hm)
    exact (hone.trans hrest fun m hm => by rw [hm]; exact hnew).congr fun m => List.mem_cons.symm

end

/-- Notices offered change the notice queues and the attention lines alone. -/
theorem State.handOuts_notices {os : List Out} (h : ∀ o ∈ os, ∃ c n, o = .notice c n) (s : State) :
    ∃ q a, s.handOuts os = s.setMain { s.main with notices := q, attn := a } := by
  induction os generalizing s with
  | nil => exact ⟨s.main.notices, s.main.attn, rfl⟩
  | cons o os ih =>
    obtain ⟨⟨c, n, rfl⟩, hos⟩ := List.forall_mem_cons.1 h
    obtain ⟨q, a, hrest⟩ := ih hos (s.offer c n)
    refine ⟨q, a, ?_⟩
    show (s.offer c n).handOuts os = _
    rw [hrest]
    rcases State.offer_cases s c n with h | ⟨l, h⟩
    · rw [h]
    · rw [h]
      rfl

theorem mem_expiredOuts {now : Tick} {k : Key} {gs : List Grant} : ∀ o ∈ expiredOuts now k gs, ∃ c n, o = .notice c n :=
  fun _ ho => by
    obtain ⟨g, -, rfl⟩ := List.mem_map.1 ho
    exact ⟨_, _, rfl⟩

/-- The commit of one image of a slot. -/
theorem State.commit_slot {s : State} (hs : s.between) (n : Nat) (b : Block SlotImg) {img : Image}
    (himg : s.store.putImage img = s.store.setSlot n b) :
    ∃ st, s.commit { images := [img] } = s.setStore st ∧ (s.setStore st).between ∧
      st = { s.store with slots := st.slots, intent := st.intent } ∧
      ∀ m, st.slot m = if n = m then b else s.store.slot m := by
  have heq := State.commit_eq s hs.uncut { images := [img] }
  have hbetween := State.between_commit hs { images := [img] }
  have hcore := State.commit_store hs.uncut hs.canonical { images := [img] }
  rw [heq] at hbetween
  generalize (s.commit { images := [img] }).store = st at *
  have hput : s.store.putCommit { images := [img] } = s.store.setSlot n b := himg
  rw [hput] at hcore
  refine ⟨st, heq, hbetween, ?_, fun m => (hcore.slot m).trans (Store.slot_setSlot hs.canonical n m b)⟩
  rw [(Store.coreEq_iff _ _).1 hcore]
  rfl

theorem Rec.writes_freed {r : Rec} {b : Block SlotImg} (h : r.retires []) : Block.writes r b (freedSlot b) :=
  ⟨fun _ => rfl, fun hkept => absurd h hkept⟩

theorem Rec.writes_image {r : Rec} {b : Block SlotImg} (h : ¬ r.retires []) :
    Block.writes r b { val := r.image, ecc := tenGood } :=
  ⟨fun hret => absurd hret h, fun _ => rfl⟩

/-- A commit of one slot, behind notices. -/
theorem State.sweptSlots_commit {s : State} (hs : s.between) {os : List Out} (hos : ∀ o ∈ os, ∃ c n, o = .notice c n)
    {n : Nat} {b : Block SlotImg} {img : Image} (himg : s.store.putImage img = s.store.setSlot n b)
    {rule : Nat → Block SlotImg → Prop} (hrule : rule n b) :
    s.sweptSlots rule (· = n) ((s.handOuts os).commit { images := [img] }) := by
  obtain ⟨q, a, hnotices⟩ := State.handOuts_notices hos s
  have hx : (s.handOuts os).between := steady_between.handOuts s os hs
  rw [hnotices] at hx ⊢
  obtain ⟨st, hst, hbetween, hrest, hslots⟩ := State.commit_slot hx n b (img := img) himg
  rw [hst]
  refine ⟨hbetween, rfl, hrest, fun m => ⟨?_, fun hm => ?_⟩⟩
  · rintro rfl
    show rule m (st.slot m)
    rw [hslots m, if_pos rfl]
    exact hrule
  · exact (hslots m).trans (if_neg (Ne.symm hm))

/-- The commit of a record that the sweep has changed, or retires, behind its notices. -/
theorem State.sweepCommit_sweeps {s : State} (hs : s.between) {os : List Out} (hos : ∀ o ∈ os, ∃ c n, o = .notice c n)
    {n : Nat} {r : Rec} {gs : List Grant} (hchanged : (r.sweptTo gs).retires [] ∨ gs ≠ r.grants) {rule : Nat → Block SlotImg → Prop}
    (hrule : ∀ b, Block.writes (r.sweptTo gs) (s.store.slot n) b → rule n b) :
    s.sweptSlots rule (· = n) ((s.handOuts os).sweepCommit n (r.withGrants gs)) := by
  rw [State.sweepCommit]
  split
  next hret =>
    have hretires := (Rec.retires_withGrants r gs).1 hret
    rw [State.commitIdent, State.handOuts_store]
    exact State.sweptSlots_commit hs hos rfl (hrule _ (Rec.writes_freed hretires))
  next hret =>
    have hretires : ¬ (r.sweptTo gs).retires [] := fun h => hret ((Rec.retires_withGrants r gs).2 h)
    refine State.sweptSlots_commit hs hos rfl (hrule _ ?_)
    have himage : ({ r.withGrants gs with gen := (r.withGrants gs).gen + 1 } : Rec) = r.sweptTo gs :=
      (if_neg (hchanged.resolve_left hretires)).symm
    rw [himage]
    exact Rec.writes_image hretires

/-- A slot whose record a stage of the sweep turns into `r'`: as it was where nothing changes, and else committed. -/
structure Block.turned (r r' : Rec) (b b' : Block SlotImg) : Prop where
  same    : r' = r → b' = b
  changed : r' ≠ r → Block.writes r' b b'

theorem State.sweptSlots_same {s : State} (hs : s.between) {rule : Nat → Block SlotImg → Prop} {n : Nat}
    (hrule : rule n (s.store.slot n)) : s.sweptSlots rule (· = n) s :=
  ⟨hs, rfl, rfl, fun _ => ⟨by rintro rfl; exact hrule, fun _ => rfl⟩⟩

theorem Rec.sweptTo_eq_iff (r : Rec) (gs : List Grant) : r.sweptTo gs = r ↔ gs = r.grants := by
  constructor
  · intro h
    have hgrants := Rec.sweptTo_grants r gs
    rw [h] at hgrants
    exact hgrants.symm
  · exact fun h => if_pos h

/-- A slot that holds a record whose ten words read. -/
structure Block.sound (b : Block SlotImg) : Prop where
  holds : b.val.ident.holdsRecord = true
  good  : b.ecc = tenGood
  state : b.val.record.state = summaryOf b.val.record.grants

theorem State.sweepRead_good {s : State} {n : Nat} (h : (s.store.slot n).sound) : s.sweepRead n = (s, true) := by
  rw [State.sweepRead]
  split <;> exact State.readSlot_good h.good _

theorem Block.sound.identReadable {b : Block SlotImg} (h : b.sound) : Machine.identReadable b = true := by
  rw [Machine.identReadable, h.good]
  rfl

theorem Block.sound.inUse {b : Block SlotImg} (h : b.sound) :
    b.val.ident.inUse = true ∧ b.val.ident.state ≠ .quarantined := by
  simpa [IdWord.holdsRecord] using h.holds

/-- Stage 4 on a slot that holds a record (R170). -/
theorem State.stage4Slot_turns {s : State} (hs : s.between) {n : Nat} (hsound : (s.store.slot n).sound) {sett : List (Nat × Action)}
    {act : Grant → Action} (hact : ∀ g, actionOf sett g = act g) :
    s.sweptSlots (fun n b => Block.turned (s.store.slot n).val.record
      ((s.store.slot n).val.record.sweptTo ((s.store.slot n).val.record.grants.filterMap fun g => settledGrant s.now (act g) g))
      (s.store.slot n) b) (· = n) (State.stage4Slot sett s n) := by
  rw [State.stage4Slot, State.sweepRead_good hsound]
  dsimp only
  rw [hsound.identReadable, hsound.holds, if_neg (by decide), if_neg (by decide), if_neg (by decide),
    State.stage4Record, stage4_grants hact]
  have hsame := Rec.withGrants_eq_iff hsound.state
    ((s.store.slot n).val.record.grants.filterMap fun g => settledGrant s.now (act g) g)
  split
  next h => exact State.sweptSlots_same hs ⟨fun _ => rfl, fun hne => absurd (if_pos (hsame.1 h)) hne⟩
  next h =>
    have hne := fun heq => h (hsame.2 heq)
    exact State.sweepCommit_sweeps hs mem_expiredOuts (.inr hne) fun b hb =>
      ⟨fun heq => absurd ((Rec.sweptTo_eq_iff _ _).1 heq) hne, fun _ => hb⟩

theorem State.stage4Slot_free {s : State} {n : Nat} {sett : List (Nat × Action)} (hfree : (s.store.slot n).val.ident.inUse = false)
    (hgood : (s.store.slot n).ecc.head? = some .good) : State.stage4Slot sett s n = s := by
  rw [State.stage4Slot, State.sweepRead_free hfree hgood]
  dsimp only
  rw [identReadable_good hgood, IdWord.holdsRecord, hfree, Bool.false_and, if_neg (by decide), if_pos (by decide)]

/-- The record of a slot as stage 4 leaves it (R170). -/
def State.settledRec (s : State) (act : Grant → Action) (n : Nat) : Rec :=
  (s.recordOf n).sweptTo ((s.recordOf n).grants.filterMap fun g => settledGrant s.now (act g) g)

/-- What stage 4 makes of a slot (R170). -/
structure State.settledSlot (s : State) (act : Grant → Action) (n : Nat) (b : Block SlotImg) : Prop where
  free : (s.store.slot n).val.ident.inUse = false → b = s.store.slot n
  used : (s.store.slot n).val.ident.inUse = true → Block.turned (s.recordOf n) (s.settledRec act n) (s.store.slot n) b

/-- A slot that a sweep reads without error: FREE, or a record that is not QUARANTINED. -/
def Block.plain (b : Block SlotImg) : Prop := (b.val.ident.inUse = false ∧ b.ecc.head? = some .good) ∨ b.sound

section
variable {s : State} {act : Grant → Action}

theorem State.stage4Slot_settles {x : State} (hx : x.between) (hnow : x.now = s.now) {n : Nat}
    (hslot : x.store.slot n = s.store.slot n) (hplain : (s.store.slot n).plain) {sett : List (Nat × Action)}
    (hact : ∀ g, actionOf sett g = act g) : x.sweptSlots (s.settledSlot act) (· = n) (State.stage4Slot sett x n) := by
  rw [← hslot] at hplain
  rcases hplain with ⟨hfree, hgood⟩ | hsound
  · rw [State.stage4Slot_free hfree hgood]
    exact State.sweptSlots_same hx
      ⟨fun _ => hslot, fun hused => Bool.noConfusion (hused.symm.trans ((congrArg (·.val.ident.inUse) hslot.symm).trans hfree))⟩
  · have hturn := State.stage4Slot_turns hx hsound hact
    refine { hturn with slots := fun m => ⟨?_, (hturn.slots m).2⟩ }
    rintro rfl
    have hone := (hturn.slots m).1 rfl
    rw [hnow, hslot] at hone
    exact ⟨fun hfree => Bool.noConfusion (hsound.inUse.1.symm.trans ((congrArg (·.val.ident.inUse) hslot).trans hfree)), fun _ => hone⟩

/-- Without a settling session no record changes. -/
theorem State.settledSlot_same {n : Nat} (h : ∀ g, act g = .none) : s.settledSlot act n (s.store.slot n) := by
  have hsame : s.settledRec act n = s.recordOf n := by
    rw [State.settledRec, Rec.sweptTo_eq_iff]
    simp only [h, settledGrant, List.filterMap_some]
  exact ⟨fun _ => rfl, fun _ => ⟨fun _ => rfl, fun hne => absurd hsame hne⟩⟩

/-- The entries of the settling sessions, committed one by one (R170). -/
theorem foldl_settledEntries {se : Nat → SessEntry} : ∀ (cs : List (Nat × Action)) {s : State}, s.between → ¬ s.inFault →
    (cs.map Prod.fst).Nodup → (∀ p ∈ cs, (sessionWord p.1).holds s (se p.1)) →
    ∃ st, cs.foldl (fun s p => s.commit { session := some (p.1, stage4Entry (s.session p.1)) }) s = s.setStore st ∧
      (s.setStore st).between ∧ st = { s.store with sess := st.sess, intent := st.intent } ∧
      ∀ c, st.session c = if c ∈ cs.map Prod.fst then Copies.two (stage4Entry (se c)) else s.store.session c
  | [], s, hs, _, _, _ => ⟨s.store, rfl, hs, rfl, fun _ => rfl⟩
  | p :: cs, s, hs, hfault, hnodup, hse => by
    obtain ⟨hnew, hnodup⟩ := List.nodup_cons.1 hnodup
    obtain ⟨hp, hcs⟩ := List.forall_mem_cons.1 hse
    have hsession : s.session p.1 = se p.1 := State.session_holds hp (State.entryLost_normal hfault p.1)
    have heq := State.commit_eq s hs.uncut { session := some (p.1, stage4Entry (se p.1)) }
    have hbetween := State.between_commit hs { session := some (p.1, stage4Entry (se p.1)) }
    have hcore := State.commit_store hs.uncut hs.canonical { session := some (p.1, stage4Entry (se p.1)) }
    rw [heq] at hbetween
    rw [List.foldl_cons, hsession, heq]
    generalize (s.commit { session := some (p.1, stage4Entry (se p.1)) }).store = st1 at *
    have hone : ∀ c, st1.session c = if p.1 = c then Copies.two (stage4Entry (se p.1)) else s.store.session c := fun c =>
      (hcore.session c).trans (Store.session_setSession hs.canonical p.1 c _)
    obtain ⟨st, hst, hstbetween, hrest, hsessions⟩ := foldl_settledEntries (se := se) cs hbetween hfault hnodup
      fun q hq => ((hone q.1).trans (if_neg fun h => hnew (List.mem_map.2 ⟨q, hq, h.symm⟩))).trans (hcs q hq)
    refine ⟨st, hst, hstbetween, ?_, fun c => ?_⟩
    · rw [(Store.coreEq_iff _ _).1 hcore] at hrest
      exact hrest
    · rw [hsessions, List.map_cons]
      show (if _ then _ else st1.session c) = _
      rw [hone]
      by_cases hc : c ∈ cs.map Prod.fst
      · rw [if_pos hc, if_pos (List.mem_cons_of_mem _ hc)]
      · rw [if_neg hc]
        by_cases hpc : p.1 = c
        · subst hpc
          rw [if_pos rfl, if_pos List.mem_cons_self]
        · rw [if_neg hpc, if_neg fun h => (List.mem_cons.1 h).elim (fun h => hpc h.symm) hc]

/-- What stage 4 leaves: the records and the entries settled; of the main domain the notices and the attention lines may
change. -/
structure State.settles (s : State) (act : Grant → Action) (out : Nat → SessEntry) (x : State) : Prop where
  between : x.between
  only    : x = (s.setStore x.store).setMain { s.main with notices := x.main.notices, attn := x.main.attn }
  rest    : x.store = { s.store with slots := x.store.slots, sess := x.store.sess, intent := x.store.intent }
  slots   : ∀ n, n < 1024 → s.settledSlot act n (x.store.slot n)
  entries : ∀ c, c < 16 → (sessionWord c).holds x (out c)

theorem State.mem_settling {c : Nat} : c ∈ s.settling.map Prod.fst ↔ c < 16 ∧ (s.session c).state = .settling := by
  rw [State.settling, List.map_map, show (Prod.fst ∘ fun c => (c, (s.session c).action)) = id from rfl, List.map_id,
    List.mem_filter, List.mem_range, beq_iff_eq]

theorem State.stage4Slots_settles (hs : s.between) (hfault : ¬ s.inFault) (hplain : ∀ n, n < 1024 → (s.store.slot n).plain)
    {sett : List (Nat × Action)} (hact : ∀ g, actionOf sett g = act g) :
    s.sweptSlots (s.settledSlot act) (· < 1024) ((List.range Config.slots).foldl (State.stage4Slot sett) s) :=
  (foldl_sweptSlots
    (fun n _ hx hnow _ hslot hn => State.stage4Slot_settles hx hnow hslot (hplain n hn) hact)
    (List.range Config.slots) List.nodup_range (fun _ hn => List.mem_range.1 hn) hs rfl hfault fun _ _ => rfl).congr
    fun _ => List.mem_range

theorem State.sweepStage4_eq (hfault : ¬ s.inFault) (hsome : s.settling ≠ []) : s.sweepStage4 =
    (s.settling.foldl (fun s p => s.commit { session := some (p.1, stage4Entry (s.session p.1)) })
      ((List.range Config.slots).foldl (State.stage4Slot s.settling) s)).driveLines :=
  if_neg fun h => h.elim hfault hsome

/-- The records settled, the entries follow (R170). -/
theorem State.sweptSlots.settles {se : Nat → SessEntry} {x : State} (hslots : s.sweptSlots (s.settledSlot act) (· < 1024) x)
    (hfault : ¬ s.inFault) (hse : ∀ c, c < 16 → (sessionWord c).holds s (se c)) {sett : List (Nat × Action)}
    (hlt : ∀ c ∈ sett.map Prod.fst, c < 16) (hmem : ∀ c, c < 16 → (c ∈ sett.map Prod.fst ↔ (se c).state = .settling))
    (hnodup : (sett.map Prod.fst).Nodup) :
    s.settles act (fun c => if (se c).state = .settling then stage4Entry (se c) else se c)
      (sett.foldl (fun s p => s.commit { session := some (p.1, stage4Entry (s.session p.1)) }) x).driveLines := by
  have hsess : ∀ c, x.store.session c = s.store.session c := fun c => by rw [hslots.rest]; rfl
  obtain ⟨st, hst, hstbetween, hrest, hentries⟩ := foldl_settledEntries (se := se) sett hslots.between
    (by rw [State.inFault, hslots.mon]; exact hfault) hnodup fun p hp => (hsess p.1).trans (hse p.1 (hlt p.1 (List.mem_map_of_mem hp)))
  rw [hst]
  have hx := hslots.only
  have hxrest := hslots.rest
  have hlines : ∃ l, (x.setStore st).driveLines = (x.setStore st).setAttn l := by
    rcases State.driveLines_cases (x.setStore st) with h | h
    · exact ⟨_, h⟩
    · exact h
  obtain ⟨l, hl⟩ := hlines
  have hbetween := steady_between.driveLines _ hstbetween
  rw [hl] at hbetween ⊢
  refine ⟨hbetween, ?_, ?_, fun n hn => ?_, fun c hc => ?_⟩
  · rw [hx]
    rfl
  · have hsame : st.slots = x.store.slots := by rw [hrest]
    rw [hxrest, ← hsame] at hrest
    exact hrest
  · have hslot : st.slot n = x.store.slot n := by rw [hrest]; rfl
    have hone := (hslots.slots n).1 hn
    rw [← hslot] at hone
    exact hone
  · refine (hentries c).trans ?_
    rw [hsess c]
    by_cases h : (se c).state = .settling
    · rw [if_pos ((hmem c hc).2 h), if_pos h]
      rfl
    · rw [if_neg fun hin => h ((hmem c hc).1 hin), if_neg h]
      exact hse c hc

/-- Stage 4 (R170). -/
theorem State.sweepStage4_settles {se : Nat → SessEntry} (hs : s.between) (hfault : ¬ s.inFault)
    (hse : ∀ c, c < 16 → (sessionWord c).holds s (se c)) (hplain : ∀ n, n < 1024 → (s.store.slot n).plain) :
    s.settles (settlesGrant se) (fun c => if (se c).state = .settling then stage4Entry (se c) else se c) s.sweepStage4 := by
  have hsession : ∀ c, c < 16 → s.session c = se c := fun c hc =>
    State.session_holds (hse c hc) (State.entryLost_normal hfault c)
  have hact := actionOf_settling hsession
  have hmem : ∀ c, c < 16 → (c ∈ s.settling.map Prod.fst ↔ (se c).state = .settling) := fun c hc => by
    rw [State.mem_settling, hsession c hc, and_iff_right hc]
  by_cases hnone : s.settling = []
  · rw [State.sweepStage4_unsettled hnone]
    refine ⟨hs, rfl, rfl, fun n _ => State.settledSlot_same fun g => ?_, fun c hc => ?_⟩
    · rw [← hact g, hnone]
      rfl
    · rw [if_neg fun h => ?_]
      · exact hse c hc
      · have hin := (hmem c hc).2 h
        rw [hnone] at hin
        exact List.not_mem_nil hin
  · have hnodup : (s.settling.map Prod.fst).Nodup := by
      rw [State.settling, List.map_map, show (Prod.fst ∘ fun c => (c, (s.session c).action)) = id from rfl, List.map_id]
      exact List.nodup_range.filter _
    rw [State.sweepStage4_eq hfault hnone]
    exact State.sweptSlots.settles (State.stage4Slots_settles hs hfault hplain hact) hfault hse
      (fun c hc => (State.mem_settling.1 hc).1) hmem hnodup

end

end Sys2Proof.Machine
end

section
/-! PROOFS. The restart sweep over records: index, set of FREE slots and schedule (R171). -/

namespace Sys2Proof.Machine

/-- The schedule entries of a record's LIVE grants (R171). -/
theorem handOuts_grantEntries (n : Nat) : ∀ (gs : List Grant) (s : State),
    ∃ sch, s.handOuts (grantEntries n gs) = s.setSched sch ∧
      (∀ e ∈ s.main.sched, (∀ g ∈ gs, g.gstate = .live → e.ref ≠ .grant n g.token) → e ∈ sch) ∧
      ((gs.map Grant.token).Nodup → ∀ g ∈ gs, g.gstate = .live → ∃ e ∈ sch,
        e.kind = .grantExpiry ∧ e.ref = .grant n g.token ∧ e.deadline = g.expiry)
  | [], s => ⟨s.main.sched, rfl, fun _ he _ => he, fun _ _ hg => absurd hg List.not_mem_nil⟩
  | g :: gs, s => by
    by_cases hlive : g.gstate = .live
    · obtain ⟨sch, hsch, hkept, hnew⟩ := handOuts_grantEntries n gs (s.schedInsert .grantExpiry (.grant n g.token) g.expiry)
      have hentries : grantEntries n (g :: gs) = .insert .grantExpiry (.grant n g.token) g.expiry :: grantEntries n gs := by
        rw [grantEntries, List.filter_cons_of_pos (by simpa using hlive)]
        rfl
      refine ⟨sch, ?_, fun e he hne => ?_, fun hnodup x hx hxlive => ?_⟩
      · rw [hentries]
        exact hsch
      · obtain ⟨hne, hrest⟩ := List.forall_mem_cons.1 hne
        exact hkept e (mem_schedInsert.2 (.inr ⟨he, hne hlive⟩)) hrest
      · obtain ⟨htok, hnodup⟩ := List.nodup_cons.1 hnodup
        rcases List.mem_cons.1 hx with rfl | hx
        · refine ⟨_, hkept _ (mem_schedInsert.2 (.inl rfl)) fun y hy _ heq => ?_, rfl, rfl, rfl⟩
          exact htok (List.mem_map.2 ⟨y, hy, (Ref.grant.inj heq).2.symm⟩)
        · exact hnew hnodup x hx hxlive
    · obtain ⟨sch, hsch, hkept, hnew⟩ := handOuts_grantEntries n gs s
      have hentries : grantEntries n (g :: gs) = grantEntries n gs := by
        rw [grantEntries, List.filter_cons_of_neg (by simpa using hlive)]
        rfl
      refine ⟨sch, ?_, fun e he hne => ?_, fun hnodup x hx hxlive => ?_⟩
      · rw [hentries]
        exact hsch
      · exact hkept e he (List.forall_mem_cons.1 hne).2
      · rcases List.mem_cons.1 hx with rfl | hx
        · exact absurd hxlive hlive
        · exact hnew (List.nodup_cons.1 hnodup).2 x hx hxlive

/-- A record without the grants that are due (R171). -/
def Rec.unexpired (r : Rec) (now : Tick) : Rec := r.sweptTo (r.grants.filter fun g => !g.due now)

theorem State.sweptSlots_notices {s : State} (hs : s.between) {os : List Out} (hos : ∀ o ∈ os, ∃ c n, o = .notice c n)
    {rule : Nat → Block SlotImg → Prop} {n : Nat} (hrule : rule n (s.store.slot n)) :
    s.sweptSlots rule (· = n) (s.handOuts os) := by
  obtain ⟨q, a, hnotices⟩ := State.handOuts_notices hos s
  have hx := steady_between.handOuts s os hs
  rw [hnotices] at hx ⊢
  exact ⟨hx, rfl, rfl, fun m => ⟨by rintro rfl; exact hrule, fun _ => rfl⟩⟩

/-- Stage 5 on a record whose key is not in the index: retired, or in the index with its entries (R171). -/
theorem State.stage5Slot_record {s : State} (hs : s.between) {n : Nat} (hsound : (s.store.slot n).sound) {k : Key}
    (hkey : (s.store.slot n).val.ident.key = some k) (habsent : s.lookup k = none) :
    (((s.recordOf n).unexpired s.now).retires [] →
      ∃ y, s.sweptSlots (fun n b => b = freedSlot (s.store.slot n)) (· = n) y ∧ s.stage5Slot n = y.markFree n true) ∧
    (¬ ((s.recordOf n).unexpired s.now).retires [] →
      ∃ y, s.sweptSlots
          (fun n b => Block.turned (s.recordOf n) ((s.recordOf n).unexpired s.now) (s.store.slot n) b) (· = n) y ∧
        s.stage5Slot n = (y.indexRecord n ((s.recordOf n).unexpired s.now)).handOuts
          (grantEntries n ((s.recordOf n).unexpired s.now).grants)) := by
  have hrecord : s.stage5Slot n = s.stage5Record n (s.recordOf n) := by
    rw [State.stage5Slot, State.sweepRead_good hsound]
    dsimp only
    rw [hsound.identReadable, hsound.inUse.1, hkey, if_neg (by decide), if_neg (by decide)]
    dsimp only
    rw [habsent, if_neg (by decide), if_neg hsound.inUse.2, if_neg (by decide)]
  have hstate : (s.recordOf n).state = summaryOf (s.recordOf n).grants := hsound.state
  have hgrants : ((s.recordOf n).unexpired s.now).grants = (s.recordOf n).grants.filter fun g => !g.due s.now :=
    Rec.sweptTo_grants _ _
  have hindex : ∀ y : State, y.indexRecord n ((s.recordOf n).unexpired s.now) =
      y.indexRecord n ((s.recordOf n).withGrants ((s.recordOf n).grants.filter fun g => !g.due s.now)) := fun y => by
    rw [State.indexRecord, hgrants, Rec.unexpired, Rec.sweptTo]
    split <;> rfl
  rw [hrecord, State.stage5Record, hgrants]
  simp only [hindex]
  have hretires := Rec.retires_withGrants (s.recordOf n) ((s.recordOf n).grants.filter fun g => !g.due s.now)
  constructor
  · intro hret
    refine ⟨_, ?_, if_pos (hretires.2 hret)⟩
    exact State.sweepCommit_sweeps hs mem_expiredOuts (.inl hret) fun b hb => hb.freed hret
  · intro hret
    refine ⟨_, ?_, if_neg fun h => hret (hretires.1 h)⟩
    split
    next hsame =>
      have hunchanged := (Rec.sweptTo_eq_iff _ _).2 ((Rec.withGrants_eq_iff hstate _).1 hsame)
      exact State.sweptSlots_notices hs mem_expiredOuts ⟨fun _ => rfl, fun hne => absurd hunchanged hne⟩
    next hchanged =>
      have hne := fun h => hchanged ((Rec.withGrants_eq_iff hstate _).2 h)
      exact State.sweepCommit_sweeps hs mem_expiredOuts (.inr hne) fun b hb =>
        ⟨fun heq => absurd ((Rec.sweptTo_eq_iff _ _).1 heq) hne, fun _ => hb⟩

/-! ### Stage 5 over the slots -/

/-- A record slot that stage 5 retires (R15, R171). -/
def State.retiredAt (s : State) (n : Nat) : Prop :=
  (s.store.slot n).val.ident.inUse = true ∧ ((s.recordOf n).unexpired s.now).retires []

/-- A record slot that stage 5 keeps (R171). -/
def State.keptAt (s : State) (n : Nat) : Prop :=
  (s.store.slot n).val.ident.inUse = true ∧ ¬ ((s.recordOf n).unexpired s.now).retires []

/-- A record kept by stage 5: its slot, its index entry, and the schedule entries of its LIVE grants. -/
structure State.indexed (s : State) (n : Nat) (k : Key) (x : State) : Prop where
  slot   : Block.turned (s.recordOf n) ((s.recordOf n).unexpired s.now) (s.store.slot n) (x.store.slot n)
  taken  : x.isFree n = s.isFree n
  entry  : x.lookup k = some
    { slot := n, quarantined := false, holders := ((s.recordOf n).unexpired s.now).grants.map fun g => (g.client, g.token) }
  sched  : ∀ g ∈ ((s.recordOf n).unexpired s.now).grants, g.gstate = .live → ∃ e ∈ x.main.sched,
    e.kind = .grantExpiry ∧ e.ref = .grant n g.token ∧ e.deadline = g.expiry

/-- What stage 5 has made of `s` behind its first `k` slots (R171). -/
structure State.rebuilt (s : State) (key : Nat → Key) (k : Nat) (x : State) : Prop where
  between : x.between
  only    : x = (s.setStore x.store).setMain
    { s.main with
      notices := x.main.notices, attn := x.main.attn, free := x.main.free, index := x.main.index, sched := x.main.sched }
  rest    : x.store = { s.store with slots := x.store.slots, intent := x.store.intent }
  ahead   : ∀ n, n < 1024 → k ≤ n → x.store.slot n = s.store.slot n ∧ x.isFree n = s.isFree n
  unused  : ∀ n, n < k → (s.store.slot n).val.ident.inUse = false → x.store.slot n = s.store.slot n ∧ x.isFree n = true
  retired : ∀ n, n < k → s.retiredAt n → x.store.slot n = freedSlot (s.store.slot n) ∧ x.isFree n = true
  kept    : ∀ n, n < k → s.keptAt n → s.indexed n (key n) x
  absent  : ∀ q, (∀ n, n < k → s.keptAt n → key n ≠ q) → x.lookup q = s.lookup q

theorem State.rebuilt.refl {s : State} (h : s.between) (key : Nat → Key) : s.rebuilt key 0 s where
  between := h
  only := rfl
  rest := rfl
  ahead _ _ _ := ⟨rfl, rfl⟩
  unused n hn := absurd hn n.not_lt_zero
  retired n hn := absurd hn n.not_lt_zero
  kept n hn := absurd hn n.not_lt_zero
  absent _ _ := rfl

section
variable {s x : State} {key : Nat → Key} {k : Nat}

theorem State.rebuilt.now (h : s.rebuilt key k x) : x.now = s.now := by
  have h1 := h.only
  rw [h1]
  rfl

theorem State.rebuilt.mon (h : s.rebuilt key k x) : x.main.mon = s.main.mon := by
  have h1 := h.only
  rw [h1]
  rfl

/-- The next slot leaves the kept records of the slots before it as they are. -/
theorem State.indexed.of_later {y : State} {n : Nat} {q : Key} (h : s.indexed n q x) (hslot : y.store.slot n = x.store.slot n)
    (hfree : y.isFree n = x.isFree n) (hlookup : y.lookup q = x.lookup q)
    (hsched : ∀ e ∈ x.main.sched, ∀ tok, e.ref = .grant n tok → e ∈ y.main.sched) : s.indexed n q y where
  slot := by rw [hslot]; exact h.slot
  taken := hfree.trans h.taken
  entry := hlookup.trans h.entry
  sched g hg hlive := by
    obtain ⟨e, he, hkind, href, hdeadline⟩ := h.sched g hg hlive
    exact ⟨e, hsched e he _ href, hkind, href, hdeadline⟩

/-- One more slot. -/
theorem State.rebuilt.next (h : s.rebuilt key k x) {y : State} (hk : k < 1024) (hbetween : y.between)
    (honly : y = (x.setStore y.store).setMain
      { x.main with
        notices := y.main.notices, attn := y.main.attn, free := y.main.free, index := y.main.index, sched := y.main.sched })
    (hrest : y.store = { x.store with slots := y.store.slots, intent := y.store.intent })
    (hother : ∀ n, n < 1024 → n ≠ k → y.store.slot n = x.store.slot n ∧ y.isFree n = x.isFree n)
    (hsched : ∀ e ∈ x.main.sched, (∀ tok, e.ref ≠ .grant k tok) → e ∈ y.main.sched)
    (hlookup : ∀ q, (s.keptAt k → key k ≠ q) → y.lookup q = x.lookup q)
    (hdistinct : ∀ n, n < k → s.keptAt n → s.keptAt k → key k ≠ key n)
    (hunused : (s.store.slot k).val.ident.inUse = false → y.store.slot k = s.store.slot k ∧ y.isFree k = true)
    (hretired : s.retiredAt k → y.store.slot k = freedSlot (s.store.slot k) ∧ y.isFree k = true)
    (hkept : s.keptAt k → s.indexed k (key k) y) : s.rebuilt key (k + 1) y where
  between := hbetween
  only := by
    have h1 := h.only
    rw [h1] at honly
    exact honly
  rest := by
    have h1 := h.rest
    rw [h1] at hrest
    exact hrest
  ahead n hn hkn := by
    obtain ⟨hslot, hfree⟩ := hother n hn (Nat.ne_of_gt hkn)
    obtain ⟨hslot', hfree'⟩ := h.ahead n hn (Nat.le_of_succ_le hkn)
    exact ⟨hslot.trans hslot', hfree.trans hfree'⟩
  unused n hn hfree := by
    rcases Nat.lt_succ_iff_lt_or_eq.1 hn with hlt | rfl
    · obtain ⟨hslot, hfree'⟩ := hother n (hlt.trans hk) hlt.ne
      rw [hslot, hfree']
      exact h.unused n hlt hfree
    · exact hunused hfree
  retired n hn hret := by
    rcases Nat.lt_succ_iff_lt_or_eq.1 hn with hlt | rfl
    · obtain ⟨hslot, hfree'⟩ := hother n (hlt.trans hk) hlt.ne
      rw [hslot, hfree']
      exact h.retired n hlt hret
    · exact hretired hret
  kept n hn hkeep := by
    rcases Nat.lt_succ_iff_lt_or_eq.1 hn with hlt | rfl
    · obtain ⟨hslot, hfree⟩ := hother n (hlt.trans hk) hlt.ne
      exact (h.kept n hlt hkeep).of_later hslot hfree (hlookup _ (hdistinct n hlt hkeep)) fun e he tok href =>
        hsched e he fun tok' href' => hlt.ne (Ref.grant.inj (href.symm.trans href')).1
    · exact hkept hkeep
  absent q hq := (hlookup q (hq k k.lt_succ_self)).trans
    (h.absent q fun n hn => hq n (Nat.lt_succ_of_lt hn))

theorem State.recordOf_congr {y : State} {n : Nat} (h : y.store.slot n = s.store.slot n) : y.recordOf n = s.recordOf n := by
  rw [State.recordOf, State.recordOf, h]

theorem Rec.unexpired_key (r : Rec) (now : Tick) : (r.unexpired now).key = r.key := by
  rw [Rec.unexpired, Rec.sweptTo]
  split <;> rfl

/-- Stage 5 on the next slot (R171). -/
theorem State.rebuilt.stage5Slot (h : s.rebuilt key k x) (hk : k < 1024) (hplain : (s.store.slot k).plain)
    (hkey : (s.store.slot k).val.ident.inUse = true → (s.store.slot k).val.ident.key = some (key k))
    (htok : (s.store.slot k).val.ident.inUse = true → ((s.recordOf k).grants.map Grant.token).Nodup) (habsent : s.lookup (key k) = none)
    (hdistinct : (s.store.slot k).val.ident.inUse = true → ∀ n, n < k → s.keptAt n → key k ≠ key n) :
    s.rebuilt key (k + 1) (x.stage5Slot k) := by
  obtain ⟨hslot, hfree⟩ := h.ahead k hk (Nat.le_refl k)
  have hbetween := steady_between.stage5Slot x k h.between
  rcases hplain with ⟨hunused, hgood⟩ | hsound
  · have hstage := State.stage5Slot_free (s := x) (n := k) (by rw [hslot]; exact hunused) (by rw [hslot]; exact hgood)
    rw [hstage] at hbetween ⊢
    have hnot : ∀ {p : Prop}, (s.store.slot k).val.ident.inUse = true → p := fun hused =>
      Bool.noConfusion (hunused.symm.trans hused)
    exact h.next hk hbetween rfl rfl
      (fun n hn hne => ⟨rfl, by rw [State.isFree_markFree hn, decide_eq_false hne, Bool.or_false]⟩) (fun _ he _ => he)
      (fun _ _ => rfl) (fun _ _ _ hkeep => hnot hkeep.1)
      (fun _ => ⟨hslot, by rw [State.isFree_markFree hk, decide_eq_true rfl, Bool.or_true]⟩)
      (fun hret => hnot hret.1) fun hkeep => hnot hkeep.1
  · have hinUse := hsound.inUse.1
    have hnew : x.lookup (key k) = none :=
      (h.absent _ fun n hn hkeep => Ne.symm (hdistinct hinUse n hn hkeep)).trans habsent
    obtain ⟨hretires, hkeeps⟩ := State.stage5Slot_record h.between (n := k) (by rw [hslot]; exact hsound) (k := key k)
      (by rw [hslot]; exact hkey hinUse) hnew
    rw [State.recordOf_congr hslot, h.now] at hretires hkeeps
    by_cases hret : ((s.recordOf k).unexpired s.now).retires []
    · obtain ⟨y, hy, hstage⟩ := hretires hret
      have hyonly := hy.only
      have hystore := hy.rest
      rw [hstage] at hbetween ⊢
      refine h.next hk hbetween ?_ hystore (fun n hn hne => ⟨(hy.slots n).2 hne, ?_⟩) (fun e he _ => ?_) (fun q _ => ?_)
        (fun _ _ _ hkeep => absurd hret hkeep.2) (fun hunused => Bool.noConfusion (hunused.symm.trans hinUse))
        (fun _ => ⟨?_, by rw [State.isFree_markFree hk, decide_eq_true rfl, Bool.or_true]⟩) fun hkeep => absurd hret hkeep.2
      · rw [hyonly]
        rfl
      · rw [State.isFree_markFree hn, decide_eq_false hne, Bool.or_false, hyonly]
        rfl
      · rw [hyonly]
        exact he
      · rw [hyonly]
        rfl
      · exact ((hy.slots k).1 rfl).trans (congrArg freedSlot hslot)
    · obtain ⟨y, hy, hstage⟩ := hkeeps hret
      have hyonly := hy.only
      have hystore := hy.rest
      have hykey : ((s.recordOf k).unexpired s.now).key = key k := by
        rw [Rec.unexpired_key]
        show (s.store.slot k).val.ident.key.getD 0 = _
        rw [hkey hinUse]
        rfl
      obtain ⟨sch, hsch, hold, hnewEntries⟩ := handOuts_grantEntries k ((s.recordOf k).unexpired s.now).grants
        (y.indexRecord k ((s.recordOf k).unexpired s.now))
      rw [hsch] at hstage
      have hnodup : (((s.recordOf k).unexpired s.now).grants.map Grant.token).Nodup := by
        rw [Rec.unexpired, Rec.sweptTo_grants]
        exact (htok hinUse).sublist (List.filter_sublist.map _)
      have hlookup : ∀ q, (x.stage5Slot k).lookup q = if key k = q then some
          { slot := k, quarantined := false, holders := ((s.recordOf k).unexpired s.now).grants.map fun g => (g.client, g.token) }
          else x.lookup q := fun q => by
        have hindex : y.main.index = x.main.index := by rw [hyonly]; rfl
        rw [hstage]
        show Tab.find? (Tab.put y.main.index _ _) q.toNat = _
        rw [hindex, Tab.find?_put, hykey]
        by_cases heq : key k = q
        · rw [if_pos heq, if_pos (congrArg BitVec.toNat heq)]
        · rw [if_neg heq, if_neg fun h => heq (BitVec.eq_of_toNat_eq h)]
          rfl
      rw [hstage] at hbetween hlookup ⊢
      refine h.next hk hbetween ?_ hystore (fun n hn hne => ⟨(hy.slots n).2 hne, ?_⟩) (fun e he hne => ?_) (fun q hq => ?_)
        (fun n hn hkeep _ => hdistinct hinUse n hn hkeep) (fun hunused => Bool.noConfusion (hunused.symm.trans hinUse))
        (fun hr => absurd hr.2 hret) fun _ => ⟨?_, ?_, ?_, hnewEntries hnodup⟩
      · rw [hyonly]
        rfl
      · rw [hyonly]
        rfl
      · exact hold e (by rw [hyonly]; exact he) fun g _ _ => hne g.token
      · exact (hlookup q).trans (if_neg (hq ⟨hinUse, hret⟩))
      · have hturn := (hy.slots k).1 rfl
        rw [hslot, State.recordOf_congr hslot] at hturn
        exact hturn
      · rw [← hfree, hyonly]
        rfl
      · exact (hlookup (key k)).trans (if_pos rfl)

end

/-- Stage 5 over every slot (R171). -/
theorem State.sweepStage5_rebuilt {s : State} {key : Nat → Key} (hs : s.between) (hfault : ¬ s.inFault) (hindex : s.main.index = [])
    (hplain : ∀ n, n < 1024 → (s.store.slot n).plain)
    (hkey : ∀ n, n < 1024 → (s.store.slot n).val.ident.inUse = true → (s.store.slot n).val.ident.key = some (key n))
    (htok : ∀ n, n < 1024 → (s.store.slot n).val.ident.inUse = true → ((s.recordOf n).grants.map Grant.token).Nodup)
    (hdistinct : ∀ a b, a < 1024 → b < 1024 → (s.store.slot a).val.ident.inUse = true →
      (s.store.slot b).val.ident.inUse = true → key a = key b → a = b) : s.rebuilt key 1024 s.sweepStage5 := by
  have hall : ∀ k, k ≤ 1024 → s.rebuilt key k ((List.range k).foldl State.stage5Slot s) := fun k => by
    induction k with
    | zero => exact fun _ => State.rebuilt.refl hs key
    | succ k ih =>
      intro hk
      rw [List.range_succ, List.foldl_append]
      refine (ih (Nat.le_of_succ_le hk)).stage5Slot hk (hplain k hk) (hkey k hk) ?_ ?_ fun hused n hn hkeep heq => ?_
      · exact htok k hk
      · rw [State.lookup, hindex]
        rfl
      · exact hn.ne (hdistinct n k (hn.trans hk) hk hkeep.1 hused heq.symm)
  rw [State.sweepStage5, if_neg hfault]
  exact hall 1024 (Nat.le_refl _)

/-! ### The two stages together -/

theorem Rec.unexpired_of_retires {r : Rec} (h : r.retires []) (now : Tick) : r.unexpired now = r := by
  obtain ⟨-, hgrants, -⟩ := h
  rw [Rec.unexpired, Rec.sweptTo_eq_iff, hgrants]
  rfl

/-- A settled record differs from the record in its grants and generation, and a generation advanced once or twice is
another one. -/
theorem Rec.sweptTo_sweptTo_ne {r : Rec} {gs hs : List Grant} (h : (r.sweptTo gs).sweptTo hs ≠ r.sweptTo gs) :
    (r.sweptTo gs).sweptTo hs ≠ r := by
  intro heq
  have hgen := congrArg Rec.gen heq
  rw [Rec.sweptTo, if_neg fun hsame => h ((Rec.sweptTo_eq_iff _ _).2 hsame)] at hgen
  dsimp only at hgen
  rw [Rec.sweptTo] at hgen
  split at hgen
  · bv_omega
  · dsimp only at hgen
    bv_omega

/-- A slot behind both stages: as it was where its record is, and else the image of the record. -/
theorem Block.turned.trans {r : Rec} {gs hs : List Grant} {b b1 b2 : Block SlotImg} (h : Block.turned r (r.sweptTo gs) b b1)
    (h' : Block.turned (r.sweptTo gs) ((r.sweptTo gs).sweptTo hs) b1 b2) (hkept : ¬ ((r.sweptTo gs).sweptTo hs).retires []) :
    b2 = if (r.sweptTo gs).sweptTo hs = r then b else { val := ((r.sweptTo gs).sweptTo hs).image, ecc := tenGood } := by
  by_cases h2 : (r.sweptTo gs).sweptTo hs = r.sweptTo gs
  · rw [h2] at hkept ⊢
    rw [h'.same h2]
    split
    next h1 => exact h.same h1
    next h1 => exact (h.changed h1).written hkept
  · rw [if_neg (Rec.sweptTo_sweptTo_ne h2)]
    exact (h'.changed h2).written hkept

theorem summaryOf_ne_quarantined : ∀ gs : List Grant, summaryOf gs ≠ .quarantined
  | [] => RecState.noConfusion
  | g :: gs => by
    rw [summaryOf]
    split <;> exact RecState.noConfusion

theorem settledGrant_token {now : Tick} {a : Action} {g x : Grant} (h : settledGrant now a g = some x) : x.token = g.token := by
  cases a with
  | none =>
    cases h
    rfl
  | release => cases h
  | orphan =>
    rw [settledGrant] at h
    split at h
    · cases h
    · cases h
      rfl
  | revive =>
    rw [settledGrant] at h
    split at h <;> cases h <;> rfl

theorem settledGrants_tokens {now : Tick} {act : Grant → Action} : ∀ gs : List Grant,
    ((gs.filterMap fun g => settledGrant now (act g) g).map Grant.token).Sublist (gs.map Grant.token)
  | [] => List.Sublist.slnil
  | g :: gs => by
    rw [List.filterMap_cons]
    cases hg : settledGrant now (act g) g with
    | none => exact (settledGrants_tokens gs).cons _
    | some x =>
      rw [List.map_cons, List.map_cons, settledGrant_token hg]
      exact (settledGrants_tokens gs).cons_cons _

section
variable {s x : State} {act : Grant → Action} {out : Nat → SessEntry}

/-- A record that stage 4 leaves in use: its slot holds the settled record under its key. -/
structure State.holdsSettled (s : State) (act : Grant → Action) (n : Nat) (x : State) : Prop where
  sound  : (x.store.slot n).sound
  record : x.recordOf n = s.settledRec act n
  key    : (x.store.slot n).val.ident.key = (s.store.slot n).val.ident.key

theorem State.settledRec_tokens (s : State) (act : Grant → Action) (n : Nat) :
    ((s.settledRec act n).grants.map Grant.token).Sublist ((s.recordOf n).grants.map Grant.token) := by
  rw [State.settledRec, Rec.sweptTo_grants]
  exact settledGrants_tokens _

theorem State.settledRec_fits (s : State) (act : Grant → Action) (n : Nat) : (s.settledRec act n).fits := by
  have hfits : (s.recordOf n).fits := SlotImg.record_fits _
  have htokens := settledGrants_tokens (now := s.now) (act := act) (s.recordOf n).grants
  refine hfits.sweptTo (List.length_filterMap_le _ _) fun g hg => ?_
  obtain ⟨g', hg', htok⟩ := List.mem_map.1 (htokens.subset (List.mem_map_of_mem hg))
  rw [← htok]
  exact hfits.2 g' hg'

/-- Stage 4 on a record: freed, or left in use. -/
theorem State.settles.used (h : s.settles act out x) {n : Nat} (hn : n < 1024) (hsound : (s.store.slot n).sound)
    {k : Key}
    (hkey : (s.store.slot n).val.ident.key = some k) :
    s.holdsSettled act n x ∨ (s.settledRec act n).retires [] ∧ x.store.slot n = freedSlot (s.store.slot n) := by
  have hturn := (h.slots n hn).used hsound.inUse.1
  by_cases hsame : s.settledRec act n = s.recordOf n
  · have hslot := hturn.same hsame
    refine .inl ⟨by rw [hslot]; exact hsound, (State.recordOf_congr hslot).trans hsame.symm, by rw [hslot]⟩
  · by_cases hret : (s.settledRec act n).retires []
    · exact .inr ⟨hret, (hturn.changed hsame).freed hret⟩
    · have hslot := (hturn.changed hsame).written hret
      have hrecord : (s.settledRec act n).image.record = s.settledRec act n := Rec.image_record (s.settledRec_fits act n)
      have hstate : (s.settledRec act n).state = summaryOf (s.settledRec act n).grants :=
        Rec.sweptTo_summary hsound.state _
      have hk : (s.settledRec act n).key = (s.store.slot n).val.ident.key.getD 0 := by
        rw [State.settledRec, Rec.sweptTo]
        split <;> rfl
      refine .inl ⟨?_, ?_, ?_⟩
      · rw [hslot]
        refine ⟨?_, rfl, by rw [hrecord]; exact hstate⟩
        show (true && (s.settledRec act n).state != .quarantined) = true
        rw [hstate, Bool.true_and, bne_iff_ne]
        exact summaryOf_ne_quarantined _
      · rw [State.recordOf, hslot]
        exact hrecord
      · rw [hslot]
        show some (s.settledRec act n).key = _
        rw [hk, hkey]
        rfl

end

end Sys2Proof.Machine
end

section
/-! PROOFS. The restart sweep in NORMAL mode over records, over settles and over a WIPE (R169 to R172). -/

namespace Sys2Proof.Machine

/-- The slots that the sweep reads: FREE, or a record under its key with distinct tokens (R134). -/
def State.swept (s : State) (key : Nat → Key) (n : Nat) : Prop :=
  ((s.store.slot n).val.ident.inUse = false ∧ (s.store.slot n).ecc.head? = some .good) ∨
    (s.store.slot n).sound ∧ (s.store.slot n).val.ident.key = some (key n) ∧ ((s.recordOf n).grants.map Grant.token).Nodup

section
variable {s x y : State} {act : Grant → Action} {out : Nat → SessEntry} {key : Nat → Key}

theorem State.swept.plain {n : Nat} (h : s.swept key n) : (s.store.slot n).plain := h.imp id fun h => h.1

theorem freedSlot_plain {b : Block SlotImg} (h : b.ecc.length = 10) : (freedSlot b).plain := by
  refine .inl ⟨rfl, ?_⟩
  show (b.ecc.set 0 .good).head? = _
  cases hes : b.ecc with
  | nil => rw [hes] at h; cases h
  | cons e es => rfl

/-- The slots behind stage 4. -/
theorem State.settles.swept (h : s.settles act out x) (hs : s.between) {n : Nat} (hn : n < 1024) (hswept : s.swept key n) :
    x.swept key n := by
  rcases hswept with ⟨hfree, hgood⟩ | ⟨hsound, hkey, htok⟩
  · have hslot := (h.slots n hn).free hfree
    exact .inl ⟨by rw [hslot]; exact hfree, by rw [hslot]; exact hgood⟩
  · rcases h.used hn hsound hkey with hheld | ⟨-, hslot⟩
    · exact .inr ⟨hheld.sound, hheld.key.trans hkey, by rw [hheld.record]; exact htok.sublist (s.settledRec_tokens act n)⟩
    · rcases freedSlot_plain (Store.slot_ecc_length hs.canonical n) with h | h
      · rw [← hslot] at h
        exact .inl h
      · exact Bool.noConfusion h.holds

theorem State.settles.now (h : s.settles act out x) : x.now = s.now := by
  have h1 := h.only
  rw [h1]
  rfl

theorem State.settles.main (h : s.settles act out x) : x.main.mon = s.main.mon ∧ x.main.index = s.main.index ∧
    x.main.quar = s.main.quar ∧ x.main.free = s.main.free ∧ x.power = s.power := by
  have h1 := h.only
  rw [h1]
  exact ⟨rfl, rfl, rfl, rfl, rfl⟩

/-- A slot in use behind stage 4 was in use before it. -/
theorem State.settles.inUse (h : s.settles act out x) {n : Nat} (hn : n < 1024)
    (hused : (x.store.slot n).val.ident.inUse = true) : (s.store.slot n).val.ident.inUse = true := by
  by_contra hfree
  rw [(h.slots n hn).free (Bool.eq_false_iff.2 hfree)] at hused
  exact hfree hused

/-- A record behind stages 4 and 5. -/
theorem State.settles.rebuilt_used (h : s.settles act out x) (h' : x.rebuilt key 1024 y) (hfree : ∀ n, x.isFree n = false)
    (hindex : x.main.index = []) {n : Nat} (hn : n < 1024)
    (hsound : (s.store.slot n).sound) (hkey : (s.store.slot n).val.ident.key = some (key n))
    (hdistinct : ∀ a b, a < 1024 → b < 1024 → (s.store.slot a).val.ident.inUse = true →
      (s.store.slot b).val.ident.inUse = true → key a = key b → a = b) :
    (((s.settledRec act n).unexpired s.now).retires [] → (y.store.slot n).val.ident = IdWord.free ∧ y.isFree n = true ∧
      y.lookup (key n) = none) ∧
    (¬ ((s.settledRec act n).unexpired s.now).retires [] →
      y.store.slot n = (if (s.settledRec act n).unexpired s.now = s.recordOf n then s.store.slot n
        else { val := ((s.settledRec act n).unexpired s.now).image, ecc := tenGood }) ∧
      y.isFree n = false ∧
      y.lookup (key n) = some
        { slot := n, quarantined := false,
          holders := ((s.settledRec act n).unexpired s.now).grants.map fun g => (g.client, g.token) } ∧
      ∀ g ∈ ((s.settledRec act n).unexpired s.now).grants, g.gstate = .live → ∃ e ∈ y.main.sched,
        e.kind = .grantExpiry ∧ e.ref = .grant n g.token ∧ e.deadline = g.expiry) := by
  have hgone : ¬ x.keptAt n → y.lookup (key n) = none := fun hnot => by
    rw [h'.absent (key n) fun m hm hkeep heq => hnot ?_, State.lookup, hindex]
    · rfl
    · rw [← hdistinct m n hm hn (h.inUse hm hkeep.1) hsound.inUse.1 heq]
      exact hkeep
  rcases h.used hn hsound hkey with hheld | ⟨hret, hslot⟩
  · have hused := hheld.sound.inUse.1
    have hrec : (x.recordOf n).unexpired x.now = (s.settledRec act n).unexpired s.now := by rw [hheld.record, h.now]
    constructor
    · intro hret
      rw [← hrec] at hret
      obtain ⟨hslot, hisFree⟩ := h'.retired n hn ⟨hused, hret⟩
      exact ⟨by rw [hslot]; rfl, hisFree, hgone fun hkeep => hkeep.2 hret⟩
    · intro hkeep
      obtain ⟨hturn, htaken, hentry, hsched⟩ := h'.kept n hn ⟨hused, by rw [hrec]; exact hkeep⟩
      rw [hrec] at hentry hsched hturn
      rw [hheld.record] at hturn
      exact ⟨((h.slots n hn).used hsound.inUse.1).trans hturn hkeep, htaken.trans (hfree n), hentry, hsched⟩
  · rw [Rec.unexpired_of_retires hret]
    have hxfree : (x.store.slot n).val.ident.inUse = false := by rw [hslot]; rfl
    obtain ⟨hyslot, hisFree⟩ := h'.unused n hn hxfree
    refine ⟨fun _ => ⟨by rw [hyslot, hslot]; rfl, hisFree, hgone fun hkeep => ?_⟩, fun hkeep => absurd hret hkeep⟩
    exact Bool.noConfusion (hxfree.symm.trans hkeep.1)

end

/-- The entry of a session behind stages 4 and 6 (R86, R170, R172). -/
theorem restartedEntry_settled {e : SessEntry} (h : e.state = .settling → e.action ≠ .none) :
    restartedEntry (if e.state = .settling then stage4Entry e else e) =
      if e.state = .settling then e.settled else
        if e.state = .free then e else
          { e with
            state := if e.state = .opened then .suspect else e.state,
            waitsLost := e.waitsLost || e.waitsHeld, waitsHeld := false } := by
  by_cases hset : e.state = .settling
  · have haction := h hset
    rw [if_pos hset, if_pos hset, stage4Entry, SessEntry.settled]
    cases ha : e.action with
    | none => exact absurd ha haction
    | release => rfl
    | orphan =>
      rw [restartedEntry, if_neg SessState.noConfusion, stage6Entry]
      simp
    | revive => rfl
  · rw [if_neg hset, if_neg hset]
    rfl

/-- The main domain of a part about to sweep (R165). -/
theorem State.sweeps.isFree {s : State} (h : s.sweeps) (n : Nat) : s.isFree n = false := by
  obtain ⟨-, -, -, hfree, -⟩ := h.main_eq
  rw [State.isFree, hfree]
  exact BitVec.getLsbD_zero

/-- Settles O53: stages 1 to 3 change nothing, stage 4 settles the records and the entries, stage 5 expires, retires and
indexes the records, stage 6 restarts the sessions; with the WIPING flag set stage 3 frees everything. -/
theorem sweepRestoresTheRecords : Obligations.SweepRestoresTheRecords := by
  refine ⟨fun s se key map tok nonce fl hs hsweeps hse hmap htok hnonce hfl hwiping hmarker hslots hkeys => ?_,
    fun s se map tok nonce fl hs hsweeps hse hmap htok hnonce hfl hwiping hmarker => ?_⟩
  · obtain ⟨hfault, hindex, hquar, -⟩ := hsweeps.main_eq
    have hholds : ∀ c, c < 16 → (sessionWord c).holds s (se c) := fun c hc => (hse c hc).1
    have hswept : ∀ n, n < 1024 → s.swept key n := fun n hn =>
      (hslots n hn).imp id fun ⟨hrec, hgood, hkey, hstate, hnodup⟩ => ⟨⟨hrec, hgood, hstate⟩, hkey, hnodup⟩
    have hstages : s.sweep = s.sweepStage4.sweepStage5.sweepStage6.becomeReady := by
      rw [State.sweep, State.sweepStage1_holds hholds hmap htok hnonce hfl, State.replay_clear hmarker,
        State.sweepStage3_unwiped hfl hwiping]
    have hsettles := State.sweepStage4_settles hs hfault hholds fun n hn => (hswept n hn).plain
    generalize s.sweepStage4 = x at hstages hsettles
    obtain ⟨hxmon, hxindex, hxquar, hxfree, hxpower⟩ := hsettles.main
    have hxfault : ¬ x.inFault := by rw [State.inFault, hxmon]; exact hfault
    have hxswept : ∀ n, n < 1024 → x.swept key n := fun n hn => hsettles.swept hs hn (hswept n hn)
    have hrebuilt := State.sweepStage5_rebuilt (key := key) hsettles.between hxfault (hxindex.trans hindex)
      (fun n hn => (hxswept n hn).plain)
      (fun n hn hused => by
        rcases hxswept n hn with h | h
        · exact Bool.noConfusion (h.1.symm.trans hused)
        · exact h.2.1)
      (fun n hn hused => by
        rcases hxswept n hn with h | h
        · exact Bool.noConfusion (h.1.symm.trans hused)
        · exact h.2.2)
      (fun a b ha hb hua hub => hkeys a b ha hb (hsettles.inUse ha hua) (hsettles.inUse hb hub))
    obtain ⟨y, hy⟩ : ∃ y, y = x.sweepStage5 := ⟨_, rfl⟩
    rw [← hy] at hstages hrebuilt
    have hyfault : ¬ y.inFault := by rw [State.inFault, hrebuilt.mon]; exact hxfault
    have hysess : ∀ c, y.store.session c = x.store.session c := fun c => by rw [hrebuilt.rest]; rfl
    have hrestarted := State.sweepStage6_restarts hrebuilt.between hyfault fun c hc =>
      (hysess c).trans (hsettles.entries c hc)
    generalize y.sweepStage6 = z at hstages hrestarted
    have hznow : s.now = y.now := by rw [hrebuilt.now, hsettles.now]
    have hzslot : ∀ n, z.store.slot n = y.store.slot n := fun n => by
      rw [Store.slot, Store.slot, hrestarted.slots]
    have hmain : z.main.free = y.main.free ∧ z.main.index = y.main.index ∧ z.main.quar = y.main.quar := by
      rw [hrestarted.only]
      exact ⟨rfl, rfl, rfl⟩
    obtain ⟨hzfree, hzindex, hzquar⟩ := hmain
    have hisFree : ∀ n, z.isFree n = y.isFree n := fun n => by rw [State.isFree, hzfree]; rfl
    have hlookup : ∀ k, z.lookup k = y.lookup k := fun k => by rw [State.lookup, hzindex]; rfl
    have hyquar : y.main.quar = [] := by rw [hrebuilt.only]; exact hxquar.trans hquar
    have hfreeNone : ∀ n, x.isFree n = false := fun n => by
      rw [State.isFree, hxfree]
      exact hsweeps.isFree n
    refine ⟨z.becomeReady, (exec_sweeps hsweeps).trans (congrArg _ hstages), rfl, ?_, rfl, hzquar.trans hyquar,
      fun n hn hfree => ?_, fun n r4 r5 hn hused hr4 hr5 => ?_, fun c e hc he => ?_⟩
    · show ¬ z.inFault
      rw [State.inFault, hrestarted.mon]
      exact hyfault
    · have hslot := (hsettles.slots n hn).free hfree
      obtain ⟨hyslot, hyfree⟩ := hrebuilt.unused n hn (by rw [hslot]; exact hfree)
      exact ⟨(hzslot n).trans (hyslot.trans hslot), (hisFree n).trans hyfree⟩
    · rcases hswept n hn with h | ⟨hsound, hkey, -⟩
      · exact Bool.noConfusion (h.1.symm.trans hused)
      obtain ⟨hretires, hkeeps⟩ := hsettles.rebuilt_used hrebuilt hfreeNone (hxindex.trans hindex) hn hsound hkey hkeys
      obtain rfl : r4 = s.settledRec (settlesGrant se) n := hr4
      obtain rfl : r5 = (s.settledRec (settlesGrant se) n).unexpired s.now := hr5
      refine ⟨fun hret => ?_, fun hkeep => ?_⟩
      · obtain ⟨hident, hfree, hnone⟩ := hretires hret
        exact ⟨by rw [← hident, ← hzslot n]; rfl, (hisFree n).trans hfree, (hlookup _).trans hnone⟩
      · obtain ⟨hslot, hfree, hentry, hsched⟩ := hkeeps hkeep
        refine ⟨(hzslot n).trans hslot, (hisFree n).trans hfree, (hlookup _).trans hentry, fun g hg hlive => ?_⟩
        obtain ⟨e, he, hkind, href, hdeadline⟩ := hsched g hg hlive
        exact ⟨e, hrestarted.sched e he fun c _ => by rw [href]; exact Ref.noConfusion, hkind, href, hdeadline⟩
    · rw [← restartedEntry_settled (hse c hc).2] at he
      subst he
      refine ⟨hrestarted.entry c hc, fun hused => (hrestarted.marks c hc hused).1, fun hsuspect => ?_⟩
      rw [hznow]
      exact hrestarted.deadline c hc hsuspect
  · obtain ⟨m, st, hm, hwiped, hsweep⟩ := sweep_wiping hs hsweeps hse hmap htok hnonce hfl hwiping hmarker
    obtain ⟨-, hindex, hquar, -, hsched, -⟩ := hsweeps.main_eq
    generalize BitVec.allOnes 1024 = all at hsweep ⊢
    refine ⟨_, (exec_sweeps hsweeps).trans (congrArg _ hsweep), rfl, Bool.eq_false_iff.1 hm, rfl, hwiped.slots,
      hwiped.sessions, hwiped.zone, hwiped.token, hwiped.nonce, hwiped.flags, rfl, hindex, hquar, hsched⟩

end Sys2Proof.Machine
end

section
/-! PROOFS. The restart sweep in STORE_FAULT mode: where a record holds one token twice (R92, R173). -/

namespace Sys2Proof.Machine

/-- A grant with token 1 that runs out at `expiry`. -/
def tokenOne (client : Nat) (expiry : Tick) : Grant :=
  { client := client, mode := .shared, gstate := .live, token := 1, expiry := expiry, term := 100 }

/-- A record that holds token 1 twice, with two expiries. -/
def twiceGranted : Rec :=
  { key := 6, zone := 0, state := .heldShared, persist := .pinned, defTerm := 100, maxTerm := 100, share := 2, gen := 0,
    grants := [tokenOne 0 50, tokenOne 1 70] }

/-- A part about to sweep, its zone map lost in both copies, with that record in slot 0. -/
def sweepsTwiceGranted : State :=
  { pending := [],
    power := { State.reset.power with state := .restarting, vdd := true },
    tb := { tick := 0, phase := 0 },
    store := { Store.por with
      slots := [(0, { val := twiceGranted.image, ecc := tenGood })],
      zone := { c1 := { val := ZoneMap.por, ecc := sevenGood.set 0 .double },
                c2 := { val := ZoneMap.por, ecc := sevenGood.set 0 .double } } },
    main := Main.atReset true 0, cut := none }

theorem sweepsTwiceGranted_used {n : Nat} (h : (sweepsTwiceGranted.store.slot n).val.ident.inUse = true) : n = 0 := by
  by_contra hne
  have hblank : sweepsTwiceGranted.store.slot n = Block.blankSlot := by
    show (if 0 = n then some _ else none).getD Block.blankSlot = _
    rw [if_neg (Ne.symm hne)]
    rfl
  rw [hblank] at h
  exact Bool.noConfusion h

/-- Refutes O54: nothing says that the tokens of a record are distinct. The schedule has one entry for each reference
(R92), and the two LIVE grants of the record name the same one, so that only the second of their entries stands. -/
theorem not_sweepInStoreFaultMode : ¬ Obligations.SweepInStoreFaultMode := by
  intro h
  obtain ⟨t, hexec, -, -, -, -, -, -, hslots, -⟩ := h sweepsTwiceGranted (fun _ => some SessEntry.free)
    (fun n => (sweepsTwiceGranted.store.slot n).val.ident.key) none (some 1) (some 1)
    (some { fresh := true, wiping := false }) ⟨by decide, by decide, rfl⟩ ⟨rfl, rfl, true, 0, rfl⟩
    (fun c _ => rfl) ⟨by decide, by decide⟩ rfl rfl rfl (.inl rfl) rfl (fun _ => rfl)
    fun a b _ _ _ ha hb _ _ _ _ => (sweepsTwiceGranted_used ha).trans (sweepsTwiceGranted_used hb).symm
  obtain ⟨-, -, hkeys⟩ := (hslots 0 (by decide) (by decide)).2 rfl
  obtain ⟨-, -, hentries⟩ := (hkeys 6 rfl).2 (by decide)
  obtain ⟨e1, he1, -, href1, hd1⟩ := hentries (tokenOne 0 50) (by decide) rfl
  obtain ⟨e2, he2, -, href2, hd2⟩ := hentries (tokenOne 1 70) (by decide) rfl
  have hrefs : (t.main.sched.map Entry.ref).Nodup := (exec_scheduleOk (State.scheduleOk_of_empty rfl) hexec).2.1
  have hsame : e1 = e2 := List.inj_on_of_nodup_map hrefs he1 he2 (href1.trans href2.symm)
  rw [hsame] at hd1
  exact absurd (hd1.symm.trans hd2) (by decide)

end Sys2Proof.Machine
end

section
/-! PROOFS. What the checked reads leave: the words of the record area, and the values of the control words (R135, R141). -/

namespace Sys2Proof.Machine

/-- Two stores with the same words in their slots, and the same zone map and token counter to be read. -/
structure Store.alike (a b : Store) : Prop where
  slots : ∀ n, (b.slot n).val = (a.slot n).val
  token : b.token.value = a.token.value
  zone  : b.zone.value = a.zone.value

theorem Store.alike.refl (a : Store) : a.alike a := ⟨fun _ => rfl, rfl, rfl⟩

theorem Store.alike.trans {a b c : Store} (h : a.alike b) (h' : b.alike c) : a.alike c :=
  ⟨fun n => (h'.slots n).trans (h.slots n), h'.token.trans h.token, h'.zone.trans h.zone⟩

theorem readable_set_good {es : List Ecc} (h : readable es = true) (k : Nat) : readable (es.set k .good) = true := by
  rw [readable, List.all_eq_true] at h ⊢
  intro e he
  rcases List.mem_or_eq_of_mem_set he with he | rfl
  · exact h e he
  · rfl

/-! ### Reads of control words -/

/-- A control word whose copies are what was put there last. -/
def Control.faithful {α : Type} (c : Control α) : Prop := ∀ st x, c.get (c.put st x) = x

section
variable {α : Type} {c : Control α}

/-- The corrections and the rewriting of copy 2 leave a readable copy 1 as it is. -/
theorem foldl_repairs_copy1 [DecidableEq α] (hc : c.faithful) {st0 : Store} (h : readable (c.get st0).c1.ecc = true) {ws : List (Store → Store)}
    (hws : ∀ w ∈ ws, w ∈ c.mendWrites st0 ∨ w ∈ c.copy2Writes (c.get st0).c1.val) :
    (c.get (ws.foldl (fun st w => w st) st0)).value = some (c.get st0).c1.val := by
  have hkept : (c.get (ws.foldl (fun st w => w st) st0)).c1.val = (c.get st0).c1.val ∧
      readable (c.get (ws.foldl (fun st w => w st) st0)).c1.ecc = true := by
    refine foldl_writes_induct (P := fun st => (c.get st).c1.val = (c.get st0).c1.val ∧ readable (c.get st).c1.ecc = true)
      (fun w hw st ⟨hval, hread⟩ => ?_) ⟨rfl, h⟩
    rcases hws w hw with hw | hw
    · rcases List.mem_append.1 hw with hw | hw
      · obtain ⟨k, -, rfl⟩ := List.mem_map.1 hw
        dsimp only
        rw [hc]
        exact ⟨hval, readable_set_good hread k⟩
      · obtain ⟨k, -, rfl⟩ := List.mem_map.1 hw
        dsimp only
        rw [hc]
        exact ⟨hval, hread⟩
    · obtain ⟨k, -, rfl⟩ := List.mem_map.1 hw
      rw [Control.writeCopy2, hc]
      exact ⟨hval, hread⟩
  rw [Copies.value, if_pos hkept.2, hkept.1]

/-- A control word is read as the value that the read answers, behind its corrections (R135, R141). -/
theorem Control.read_value [DecidableEq α] (hc : c.faithful) (hl : c.lawful)
    (hcopy : ∀ (v : α) (st : Store), st.canonical = true →
      readable (c.get ((c.copy1Writes v).foldl (fun st w => w st) st)).c1.ecc = true ∧
        (c.get ((c.copy1Writes v).foldl (fun st w => w st) st)).c1.val = v)
    {s : State} (hs : s.canonical) (hcut : s.cut = none) :
    (c.get (c.read s).1.store).value = (c.get s.store).value := by
  obtain ⟨s1, hs1, ⟨-, hr⟩ | ⟨v, hv, ⟨-, hr⟩ | ⟨-, hr⟩⟩⟩ := Control.read_cases c s
  · rw [hr, hs1]
    rfl
  · rw [hr, hs1]
    rfl
  · have hstore : (c.read s).1.store =
        (c.repairWrites s.store).foldl (fun st w => w st) ((c.mendWrites s.store).foldl (fun st w => w st) s.store) := by
      rw [hr, State.writes_store (by rw [hs1]; exact hcut), List.foldl_append, hs1]
      rfl
    have hvalue : (c.get s.store).value = some v := hv
    rw [hstore, hvalue]
    by_cases h1 : readable (c.get s.store).c1.ecc = true
    · rw [Copies.value, if_pos h1] at hvalue
      rw [← hvalue, ← List.foldl_append]
      refine foldl_repairs_copy1 hc h1 fun w hw => (List.mem_append.1 hw).imp id fun hw => ?_
      rw [Control.repairWrites, if_pos h1] at hw
      split at hw
      · exact absurd hw List.not_mem_nil
      · exact hw
    · rw [Copies.value, if_neg h1] at hvalue
      split at hvalue
      next h2 =>
        have hcan : ((c.mendWrites s.store).foldl (fun st w => w st) s.store).canonical = true :=
          foldl_writes_induct (P := fun st => st.canonical = true) (keepsCanonical_mend hl s.store) hs
        obtain ⟨hread, hval⟩ := hcopy v _ hcan
        rw [Control.repairWrites, if_neg h1, if_pos h2, Option.some.inj hvalue, Copies.value, if_pos hread, hval]
      next => cases hvalue

/-- What a read of a control word leaves alone, every write of the word leaving it alone. -/
theorem Control.read_leaves [DecidableEq α] {β : Type} {g : Store → β} (hput : ∀ st x, g (c.put st x) = g st) (s : State) :
    g (c.read s).1.store = g s.store := by
  obtain ⟨s1, hs1, ⟨-, hr⟩ | ⟨v, -, ⟨-, hr⟩ | ⟨-, hr⟩⟩⟩ := Control.read_cases c s
  · rw [hr, hs1]
    rfl
  · rw [hr, hs1]
    rfl
  · rw [hr]
    refine State.writes_induct (P := fun st => g st = g s.store) (fun w hw st h => ?_) (by rw [hs1]; rfl)
    rcases List.mem_append.1 hw with hw | hw
    · rcases List.mem_append.1 hw with hw | hw <;>
      · obtain ⟨k, -, rfl⟩ := List.mem_map.1 hw
        exact (hput st _).trans h
    · rw [Control.repairWrites] at hw
      split at hw
      · split at hw
        · exact absurd hw List.not_mem_nil
        · obtain ⟨k, -, rfl⟩ := List.mem_map.1 hw
          exact (hput st _).trans h
      · split at hw
        · obtain ⟨k, -, rfl⟩ := List.mem_map.1 hw
          exact (hput st _).trans h
        · exact absurd hw List.not_mem_nil

end

theorem zoneWord_copy1 (v : ZoneMap) (st : Store) (hst : st.canonical = true) :
    readable (zoneWord.get ((zoneWord.copy1Writes v).foldl (fun st w => w st) st)).c1.ecc = true ∧
      (zoneWord.get ((zoneWord.copy1Writes v).foldl (fun st w => w st) st)).c1.val = v := by
  have hz := ((Store.canonical_iff st).1 hst).2.2.2.2.1
  have hcopy : (zoneWord.get ((zoneWord.copy1Writes v).foldl (fun st w => w st) st)).c1 = { val := v, ecc := sevenGood } := by
    rw [Control.copy1Writes, foldl_zoneCopy1]
    exact putWords_seven v _ hz.1
  rw [hcopy]
  exact ⟨rfl, rfl⟩

theorem tokenWord_copy1 (v : Token) (st : Store) (hst : st.canonical = true) :
    readable (tokenWord.get ((tokenWord.copy1Writes v).foldl (fun st w => w st) st)).c1.ecc = true ∧
      (tokenWord.get ((tokenWord.copy1Writes v).foldl (fun st w => w st) st)).c1.val = v := by
  have hl := ((Store.canonical_iff st).1 hst).2.2.2.2.2.1
  have hcopy : (tokenWord.get ((tokenWord.copy1Writes v).foldl (fun st w => w st) st)).c1 = Block.one v :=
    putWord_one v _ hl.1
  rw [hcopy]
  exact ⟨rfl, rfl⟩

/-- The control words as the sweep and the takes read them. -/
inductive Control.ofStore : {α : Type} → Control α → Prop where
  | session (c : Nat) : Control.ofStore (sessionWord c)
  | zone : Control.ofStore zoneWord
  | token : Control.ofStore tokenWord
  | nonce : Control.ofStore nonceWord
  | flags : Control.ofStore flagsWord

theorem Control.ofStore.read_alike {α : Type} [DecidableEq α] {c : Control α} (hc : c.ofStore) {s : State} (hs : s.canonical)
    (hcut : s.cut = none) : s.store.alike (c.read s).1.store := by
  have hslots : (c.read s).1.store.slots = s.store.slots := by
    cases hc <;> exact Control.read_leaves (fun _ _ => rfl) s
  refine ⟨fun n => by rw [Store.slot, hslots]; rfl, ?_, ?_⟩
  · cases hc
    case token => exact Control.read_value (c := tokenWord) (fun _ _ => rfl) lawful_token tokenWord_copy1 hs hcut
    all_goals exact congrArg Copies.value (Control.read_leaves (g := Store.token) (fun _ _ => rfl) s)
  · cases hc
    case zone => exact Control.read_value (c := zoneWord) (fun _ _ => rfl) lawful_zone zoneWord_copy1 hs hcut
    all_goals exact congrArg Copies.value (Control.read_leaves (g := Store.zone) (fun _ _ => rfl) s)

/-- What a read of a control word does to the main domain: the counts, the trap and the mode (R135, R136). -/
theorem Control.read_main {α : Type} [DecidableEq α] (c : Control α) (s : State) :
    ∃ m, (c.read s).1.main = { s.main with mon := m } ∧ m.cursor = s.main.mon.cursor ∧
      (((c.read s).2 = none ∧ m.fault = true) ∨ (∃ v, (c.read s).2 = some v ∧ c.peek s = some v) ∧ m.fault = s.main.mon.fault) := by
  have hlogged : s.main.mon.logged (Monitor.logWords .control c.number 2 0 (c.get s.store).c2.ecc
      (Monitor.logWords .control c.number 1 0 (c.get s.store).c1.ecc s.main.mon)) :=
    (Monitor.logged_logWords _ _ _ _ _ _).trans (Monitor.logged_logWords _ _ _ _ _ _)
  obtain ⟨x, y, tr, hm⟩ := hlogged
  have hcursor := congrArg Monitor.cursor hm
  have hfault := congrArg Monitor.fault hm
  obtain ⟨s1, hs1, ⟨-, hr⟩ | ⟨v, hv, ⟨-, hr⟩ | ⟨-, hr⟩⟩⟩ := Control.read_cases c s
  · rw [hr, hs1]
    exact ⟨_, rfl, hcursor, .inl ⟨rfl, rfl⟩⟩
  · rw [hr, hs1]
    exact ⟨_, rfl, hcursor, .inr ⟨⟨v, rfl, hv⟩, hfault⟩⟩
  · rw [hr, hs1]
    exact ⟨_, rfl, hcursor, .inr ⟨⟨v, rfl, hv⟩, hfault⟩⟩

/-! ### Reads of slots, and commits -/

/-- A read of a slot corrects words in place (R141). -/
theorem State.readSlot_alike {s : State} (hs : s.canonical) (n k : Nat) : s.store.alike (s.readSlot n k).1.store := by
  rw [State.readSlot]
  dsimp only
  split
  · exact Store.alike.refl _
  · refine (State.writes_induct (P := fun st => st.canonical = true ∧ s.store.alike st) (fun w hw st ⟨hcan, halike⟩ => ?_)
      ⟨hs, Store.alike.refl _⟩).2
    obtain ⟨j, -, rfl⟩ := List.mem_map.1 hw
    refine ⟨keepsCanonical_mendSlotWord n j st hcan, fun m => ?_, halike.token, halike.zone⟩
    rw [mendSlotWord, Store.slot_setSlot hcan, ← halike.slots m]
    split
    next h =>
      rw [h]
      rfl
    next => rfl

/-- A read of a slot changes the counts and the trap of the main domain alone. -/
theorem State.readSlot_main (s : State) (n k : Nat) :
    ∃ m, (s.readSlot n k).1.main = { s.main with mon := m } ∧ s.main.mon.logged m := by
  rw [State.readSlot]
  dsimp only
  split <;> exact ⟨_, rfl, Monitor.logged_logWords _ _ _ _ _ _⟩

/-- A commit without images and without the token counter. -/
theorem State.commit_alike {s : State} (hs : s.between) {c : Commit} (himages : c.images = []) (htoken : c.token = none) :
    s.store.alike (s.commit c).store := by
  have hcore := State.commit_store hs.uncut hs.canonical c
  obtain ⟨imgs, se, tk, no, fl⟩ := c
  obtain rfl : imgs = [] := himages
  obtain rfl : tk = none := htoken
  have hput : ∀ n, (s.store.putCommit { images := [], session := se, token := none, nonce := no, flags := fl }).slot n =
      s.store.slot n := fun n => by cases se <;> cases no <;> cases fl <;> rfl
  have hslot := hcore.slot
  obtain ⟨-, -, hzone, htok, -, -⟩ := hcore
  refine ⟨fun n => congrArg Block.val ((hslot n).trans (hput n)), congrArg Copies.value (htok.trans ?_),
    congrArg Copies.value (hzone.trans ?_)⟩ <;>
  · cases se <;> cases no <;> cases fl <;> rfl

end Sys2Proof.Machine
end

section
/-! PROOFS. The agreement of records, sets, index and queues, and what a change of one slot does to it (R5, R23, R25). -/

namespace Sys2Proof.Machine

/-- The main domain agrees with sound records, as `State.sound` has it, at a point inside a take or a sweep: the slots
`seen` have been placed in a set or in the index, the pool entries `out` are of waiters that have left their queues, and
every token held is below `bound`, where the token counter can be read. -/
structure State.tidy (s : State) (seen : Nat → Prop) (out : List Nat) (bound : Option Nat) : Prop where
  rules  : ∀ n, n < 1024 → (s.store.slot n).val.ident.holdsRecord = true → (s.store.slot n).val.record.holding
  tokens : ∀ t, bound = some t → ∀ n, n < 1024 → (s.store.slot n).val.ident.holdsRecord = true →
    ∀ g ∈ (s.store.slot n).val.record.grants, g.token.toNat < t
  free   : ∀ n, s.isFree n = true → (s.store.slot n).val.ident.inUse = false
  quar   : ∀ n key, Tab.find? s.main.quar n = some key → n < 1024 ∧ s.isFree n = false ∧
    (s.store.slot n).val.ident.holdsRecord = false ∧
    ∀ k, key = some k → ∃ h, s.lookup k = some { slot := n, quarantined := true, holders := h }
  held   : ∀ n, seen n → s.inHand n → (s.store.slot n).val.ident.holdsRecord = true ∧
    ∃ k h, (s.store.slot n).val.ident.key = some k ∧ s.lookup k = some { slot := n, quarantined := false, holders := h }
  index  : ∀ q e, s.lookup q = some e →
    (e.quarantined = true → Tab.find? s.main.quar e.slot = some (some q)) ∧
    (e.quarantined = false → seen e.slot ∧ s.inHand e.slot ∧ (s.store.slot e.slot).val.ident.key = some q)
  range  : ∀ e ∈ s.main.index, e.1 < 2 ^ 32
  queues : ∀ n, (s.queueOf n).Nodup ∧ ∀ id ∈ s.queueOf n, id ∉ out ∧ ∃ w, s.waiter id = some w ∧ w.slot = n
  pool   : ∀ id w, s.waiter id = some w → id < 128 ∧ (id ∈ out ∨ id ∈ s.queueOf w.slot ∧ s.inHand w.slot)
  sched  : ∀ e ∈ s.main.sched, ∀ n tok, e.ref = .grant n tok → n < 1024

/-! ### A slot and its key -/

/-- The slot is FREE, and its key is in no place. -/
structure State.freedAs (s : State) (n : Nat) (key : Option Key) : Prop where
  free   : s.isFree n = true
  unused : (s.store.slot n).val.ident.inUse = false
  quar   : Tab.find? s.main.quar n = none
  absent : ∀ k, key = some k → s.lookup k = none
  queue  : s.queueOf n = []

/-- The slot is quarantined, under its key or with the key unknown. -/
structure State.withdrawnAs (s : State) (n : Nat) (key : Option Key) : Prop where
  taken : s.isFree n = false
  none  : (s.store.slot n).val.ident.holdsRecord = false
  queue : s.queueOf n = []
  quar  : (Tab.find? s.main.quar n = some .none ∧ ∀ k, key = some k → s.lookup k = .none) ∨
    ∃ k h, key = some k ∧ Tab.find? s.main.quar n = some (some k) ∧
      s.lookup k = some { slot := n, quarantined := true, holders := h }

/-- The slot holds a sound record, and the index names it. -/
structure State.heldAs (s : State) (n : Nat) (key : Option Key) (bound : Option Nat) : Prop where
  taken  : s.isFree n = false
  quar   : Tab.find? s.main.quar n = none
  holds  : (s.store.slot n).val.ident.holdsRecord = true
  rules  : (s.store.slot n).val.record.holding
  tokens : ∀ t, bound = some t → ∀ g ∈ (s.store.slot n).val.record.grants, g.token.toNat < t
  key    : ∃ k h, key = some k ∧ (s.store.slot n).val.ident.key = some k ∧
    s.lookup k = some { slot := n, quarantined := false, holders := h }

def State.settledAs (s : State) (n : Nat) (key : Option Key) (bound : Option Nat) : Prop :=
  s.freedAs n key ∨ s.withdrawnAs n key ∨ s.heldAs n key bound

/-- Slot `n` alone changes, and in the index the key `key` alone. -/
structure State.sameBut (s x : State) (n : Nat) (key : Option Key) : Prop where
  slots  : ∀ m, m ≠ n → (x.store.slot m).val = (s.store.slot m).val
  free   : ∀ m, m ≠ n → x.isFree m = s.isFree m
  quar   : ∀ m, m ≠ n → Tab.find? x.main.quar m = Tab.find? s.main.quar m
  queue  : ∀ m, m ≠ n → x.queueOf m = s.queueOf m
  index  : ∀ q, key ≠ some q → x.lookup q = s.lookup q
  waiter : ∀ id, x.waiter id = s.waiter id

section
variable {s x : State} {seen : Nat → Prop} {out : List Nat} {bound bound' : Option Nat} {n : Nat} {key : Option Key}

theorem State.sameBut.inHand_iff (h : s.sameBut x n key) {m : Nat} (hm : m ≠ n) : x.inHand m ↔ s.inHand m := by
  rw [State.inHand, State.inHand, h.free m hm, h.quar m hm]

theorem IdWord.holdsRecord_of_unused {w : IdWord} (h : w.inUse = false) : w.holdsRecord = false := by
  rw [IdWord.holdsRecord, h, Bool.false_and]

/-- The index names slot `n` under `key` at most, and under `key` no other slot. -/
def State.namesOnly (s : State) (n : Nat) (key : Option Key) : Prop := ∀ q e, s.lookup q = some e → (e.slot = n ↔ key = some q)

/-- One slot changes: the agreement stays, with the waiters that left its queue. -/
theorem State.tidy.change (h : s.tidy seen out bound) (hn : n < 1024) (hbut : s.sameBut x n key) (hnames : s.namesOnly n key)
    (hstatus : x.settledAs n key bound') (hbound : ∀ t, bound' = some t → ∃ t0, bound = some t0 ∧ t0 ≤ t)
    (hrange : ∀ e ∈ x.main.index, e.1 < 2 ^ 32)
    (hsched : ∀ e ∈ x.main.sched, ∀ m tok, e.ref = .grant m tok → m < 1024) {gone : List Nat}
    (hnodup : (x.queueOf n).Nodup) (hkept : ∀ id ∈ x.queueOf n, id ∈ s.queueOf n ∧ id ∉ gone)
    (hgone : ∀ id ∈ s.queueOf n, id ∈ x.queueOf n ∨ id ∈ gone) (hleft : ∀ id ∈ gone, id ∈ s.queueOf n) :
    x.tidy (fun m => seen m ∨ m = n) (out ++ gone) bound' where
  rules m hm hrec := by
    by_cases hmn : m = n
    · subst hmn
      rcases hstatus with hs | hs | hs
      · exact absurd hrec (Bool.eq_false_iff.1 (IdWord.holdsRecord_of_unused hs.unused))
      · exact absurd hrec (Bool.eq_false_iff.1 hs.none)
      · exact hs.rules
    · rw [hbut.slots m hmn] at hrec ⊢
      exact h.rules m hm hrec
  tokens t ht m hm hrec g hg := by
    by_cases hmn : m = n
    · subst hmn
      rcases hstatus with hs | hs | hs
      · exact absurd hrec (Bool.eq_false_iff.1 (IdWord.holdsRecord_of_unused hs.unused))
      · exact absurd hrec (Bool.eq_false_iff.1 hs.none)
      · exact hs.tokens t ht g hg
    · rw [hbut.slots m hmn] at hrec hg
      obtain ⟨t0, ht0, hle⟩ := hbound t ht
      exact (h.tokens t0 ht0 m hm hrec g hg).trans_le hle
  free m hm := by
    by_cases hmn : m = n
    · subst hmn
      rcases hstatus with hs | hs | hs
      · exact hs.unused
      · exact absurd hm (Bool.eq_false_iff.1 hs.taken)
      · exact absurd hm (Bool.eq_false_iff.1 hs.taken)
    · rw [hbut.slots m hmn]
      exact h.free m (by rw [← hbut.free m hmn]; exact hm)
  quar m q hq := by
    by_cases hmn : m = n
    · subst hmn
      rcases hstatus with hs | hs | hs
      · exact absurd (hs.quar.symm.trans hq) (Option.some_ne_none q).symm
      · refine ⟨hn, hs.taken, hs.none, fun k hk => ?_⟩
        rcases hs.quar with ⟨hnone, -⟩ | ⟨k', hd, -, hsome, hlook⟩
        · obtain rfl := Option.some.inj (hnone.symm.trans hq)
          cases hk
        · obtain rfl := Option.some.inj (hsome.symm.trans hq)
          obtain rfl := Option.some.inj hk
          exact ⟨hd, hlook⟩
      · exact absurd (hs.quar.symm.trans hq) (Option.some_ne_none q).symm
    · rw [hbut.quar m hmn] at hq
      obtain ⟨hm, hfree, hnone, hkey⟩ := h.quar m q hq
      refine ⟨hm, (hbut.free m hmn).trans hfree, by rw [hbut.slots m hmn]; exact hnone, fun k hk => ?_⟩
      obtain ⟨hd, hlook⟩ := hkey k hk
      exact ⟨hd, (hbut.index k fun hkk => hmn ((hnames k _ hlook).2 hkk)).trans hlook⟩
  held m hseen hin := by
    by_cases hmn : m = n
    · subst hmn
      obtain ⟨-, hfree, hquar⟩ := hin
      rcases hstatus with hs | hs | hs
      · exact Bool.noConfusion (hs.free.symm.trans hfree)
      · rcases hs.quar with ⟨hsome, -⟩ | ⟨k', hd, -, hsome, -⟩ <;> exact absurd (hquar.symm.trans hsome) (Option.some_ne_none _).symm
      · obtain ⟨k, hd, -, hkey, hlook⟩ := hs.key
        exact ⟨hs.holds, k, hd, hkey, hlook⟩
    · obtain ⟨hrec, k, hd, hkey, hlook⟩ := h.held m (hseen.resolve_right hmn) ((hbut.inHand_iff hmn).1 hin)
      rw [hbut.slots m hmn]
      exact ⟨hrec, k, hd, hkey, (hbut.index k fun hkk => hmn ((hnames k _ hlook).2 hkk)).trans hlook⟩
  index q e he := by
    by_cases hq : key = some q
    · rcases hstatus with hs | hs | hs
      · exact absurd ((hs.absent q hq).symm.trans he) (Option.some_ne_none e).symm
      · rcases hs.quar with ⟨-, hnone⟩ | ⟨k, hd, hk, hsome, hlook⟩
        · exact absurd ((hnone q hq).symm.trans he) (Option.some_ne_none e).symm
        · obtain rfl := Option.some.inj (hq.symm.trans hk)
          obtain rfl := Option.some.inj (hlook.symm.trans he)
          exact ⟨fun _ => hsome, fun h => Bool.noConfusion h⟩
      · obtain ⟨k, hd, hk, hkey, hlook⟩ := hs.key
        obtain rfl := Option.some.inj (hq.symm.trans hk)
        obtain rfl := Option.some.inj (hlook.symm.trans he)
        exact ⟨fun h => Bool.noConfusion h, fun _ => ⟨.inr rfl, ⟨hn, hs.taken, hs.quar⟩, hkey⟩⟩
    · have hold := (hbut.index q hq).symm.trans he
      have hslot : e.slot ≠ n := fun heq => hq ((hnames q e hold).1 heq)
      obtain ⟨hquar, hin⟩ := h.index q e hold
      refine ⟨fun hqe => (hbut.quar _ hslot).trans (hquar hqe), fun hqe => ?_⟩
      obtain ⟨hseen, hin, hkey⟩ := hin hqe
      exact ⟨.inl hseen, (hbut.inHand_iff hslot).2 hin, by rw [hbut.slots _ hslot]; exact hkey⟩
  range := hrange
  queues m := by
    by_cases hmn : m = n
    · subst hmn
      refine ⟨hnodup, fun id hid => ?_⟩
      obtain ⟨hold, hnot⟩ := hkept id hid
      obtain ⟨hout, w, hw, hslot⟩ := (h.queues m).2 id hold
      exact ⟨fun hmem => (List.mem_append.1 hmem).elim hout hnot, w, (hbut.waiter id).trans hw, hslot⟩
    · rw [hbut.queue m hmn]
      refine ⟨(h.queues m).1, fun id hid => ?_⟩
      obtain ⟨hout, w, hw, hslot⟩ := (h.queues m).2 id hid
      refine ⟨fun hmem => (List.mem_append.1 hmem).elim hout fun hg => hmn ?_, w, (hbut.waiter id).trans hw, hslot⟩
      obtain ⟨-, w', hw', hslot'⟩ := (h.queues n).2 id (hleft id hg)
      rw [← hslot, ← hslot', Option.some.inj (hw.symm.trans hw')]
  pool id w hw := by
    rw [hbut.waiter id] at hw
    obtain ⟨hid, hplace⟩ := h.pool id w hw
    refine ⟨hid, ?_⟩
    rcases hplace with hout | ⟨hq, hin⟩
    · exact .inl (List.mem_append_left _ hout)
    · by_cases hwn : w.slot = n
      · rw [hwn] at hq ⊢
        rcases hgone id hq with hstay | hg
        · refine .inr ⟨hstay, ?_⟩
          rcases hstatus with hs | hs | hs
          · rw [hs.queue] at hstay
            exact absurd hstay List.not_mem_nil
          · rw [hs.queue] at hstay
            exact absurd hstay List.not_mem_nil
          · exact ⟨hn, hs.taken, hs.quar⟩
        · exact .inl (List.mem_append_right _ hg)
      · rw [hbut.queue _ hwn]
        exact .inr ⟨hq, (hbut.inHand_iff hwn).2 hin⟩
  sched := hsched

end

/-! ### The agreement at rest -/

theorem BitVec.ofNat_toNat_of_lt {n : Nat} (h : n < 2 ^ 32) : (BitVec.ofNat 32 n).toNat = n := by
  rw [BitVec.toNat_ofNat, Nat.mod_eq_of_lt h]

/-- The values of the counter and of the zone map as sound records need them, and the cursor of the scrub (R5, R150). -/
structure State.footed (s : State) : Prop where
  counter : ∀ v, s.store.token.value = some v → v ≠ 0
  zones   : ∀ m z, s.store.zone.value = some m → 1 ≤ (ZoneMap.attr m z).share
  cursor  : s.main.mon.cursor < 1024

/-- Below the token counter, where it can be read. -/
def State.counter (s : State) : Option Nat := s.store.token.value.map BitVec.toNat

section
variable {s : State}

theorem State.index_rising (hs : s.between) : Tab.rising s.main.index = true :=
  ((Main.canonical_iff _).1 hs.tables).1

theorem State.lookup_of_mem (hs : s.between) {e : Nat × IndexEntry} (he : e ∈ s.main.index) (hlt : e.1 < 2 ^ 32) :
    s.lookup (BitVec.ofNat 32 e.1) = some e.2 := by
  rw [State.lookup, BitVec.ofNat_toNat_of_lt hlt]
  exact Tab.find?_eq_of_mem_of_rising (State.index_rising hs) e he

theorem State.sound.tidy (h : s.sound) : s.tidy (· < 1024) [] s.counter where
  rules n hn := h.records.rules n hn
  tokens t ht n hn hrec g hg := by
    obtain ⟨v, hv, rfl⟩ := Option.map_eq_some_iff.1 ht
    exact h.records.tokens n v hn hrec hv g hg
  free := h.free
  quar n key hq := by
    obtain ⟨hn, hfree, hnone, hkey⟩ := h.quar n key hq
    exact ⟨hn, hfree, hnone, hkey⟩
  held n _ := h.held n
  index q e he := by
    have hmem : (q.toNat, e) ∈ s.main.index := Tab.mem_of_find? he
    obtain ⟨-, hquar, hin⟩ := h.index _ hmem
    rw [BitVec.ofNat_toNat, BitVec.setWidth_eq] at hquar hin
    exact ⟨hquar, fun hq => ⟨(hin hq).1.1, hin hq⟩⟩
  range e he := (h.index e he).1
  queues n := ⟨(h.queues n).1, fun id hid => ⟨List.not_mem_nil, (h.queues n).2 id hid⟩⟩
  pool id w hw := by
    obtain ⟨hid, hq⟩ := h.pool id w hw
    exact ⟨hid, .inr hq⟩
  sched := h.sched

theorem State.sound.footed (h : s.sound) : s.footed := ⟨h.records.counter, h.records.zones, h.cursor⟩

theorem State.tidy.sound (h : s.tidy (· < 1024) [] s.counter) (hs : s.between) (hf : s.footed) : s.sound where
  records := ⟨h.rules, fun n v hn hrec hv => h.tokens v.toNat (by rw [State.counter, hv]; rfl) n hn hrec, hf.counter, hf.zones⟩
  free := h.free
  quar := h.quar
  held n hin := h.held n hin.1 hin
  index e he := by
    have hlt := h.range e he
    obtain ⟨hquar, hin⟩ := h.index _ e.2 (State.lookup_of_mem hs he hlt)
    exact ⟨hlt, hquar, fun hq => (hin hq).2⟩
  queues n := ⟨(h.queues n).1, fun id hid => ((h.queues n).2 id hid).2⟩
  pool id w hw := by
    obtain ⟨hid, hq⟩ := h.pool id w hw
    exact ⟨hid, hq.resolve_left List.not_mem_nil⟩
  sched := h.sched
  cursor := hf.cursor

end

/-! ### Changes beside the directory -/

/-- Nothing of what the agreement speaks of changes, but for the schedule and the sessions. -/
structure State.beside (s x : State) : Prop where
  store  : s.store.alike x.store
  index  : x.main.index = s.main.index
  free   : x.main.free = s.main.free
  quar   : x.main.quar = s.main.quar
  queues : x.main.queues = s.main.queues
  pool   : x.main.pool = s.main.pool
  sched  : (∀ e ∈ s.main.sched, ∀ n tok, e.ref = .grant n tok → n < 1024) →
    ∀ e ∈ x.main.sched, ∀ n tok, e.ref = .grant n tok → n < 1024
  cursor : s.main.mon.cursor < 1024 → x.main.mon.cursor < 1024

section
variable {s x y : State}

theorem State.beside.refl (s : State) : s.beside s := ⟨Store.alike.refl _, rfl, rfl, rfl, rfl, rfl, id, id⟩

theorem State.beside.trans (h : s.beside x) (h' : x.beside y) : s.beside y :=
  ⟨h.store.trans h'.store, h'.index.trans h.index, h'.free.trans h.free, h'.quar.trans h.quar, h'.queues.trans h.queues,
    h'.pool.trans h.pool, fun hs => h'.sched (h.sched hs), fun hs => h'.cursor (h.cursor hs)⟩

theorem State.beside.lookup (h : s.beside x) (k : Key) : x.lookup k = s.lookup k := by
  rw [State.lookup, h.index]
  rfl

theorem State.beside.isFree (h : s.beside x) (n : Nat) : x.isFree n = s.isFree n := by
  rw [State.isFree, h.free]
  rfl

theorem State.beside.queueOf (h : s.beside x) (n : Nat) : x.queueOf n = s.queueOf n := by
  rw [State.queueOf, h.queues]
  rfl

theorem State.beside.waiter (h : s.beside x) (id : Nat) : x.waiter id = s.waiter id := by
  rw [State.waiter, h.pool]
  rfl

theorem State.beside.inHand_iff (h : s.beside x) {n : Nat} : x.inHand n ↔ s.inHand n := by
  rw [State.inHand, State.inHand, h.isFree, h.quar]

theorem State.beside.counter (h : s.beside x) : x.counter = s.counter := by
  rw [State.counter, h.store.token]
  rfl

theorem State.beside.footed (h : s.beside x) (hf : s.footed) : x.footed :=
  ⟨fun v hv => hf.counter v (h.store.token.symm.trans hv), fun m z hm => hf.zones m z (h.store.zone.symm.trans hm),
    h.cursor hf.cursor⟩

theorem State.beside.tidy (h : s.beside x) {seen : Nat → Prop} {out : List Nat} {bound : Option Nat}
    (ht : s.tidy seen out bound) : x.tidy seen out bound where
  rules n := by
    rw [h.store.slots n]
    exact ht.rules n
  tokens t hb n := by
    rw [h.store.slots n]
    exact ht.tokens t hb n
  free n := by
    rw [h.store.slots n, h.isFree]
    exact ht.free n
  quar n key := by
    rw [h.store.slots n, h.isFree, h.quar]
    simp only [h.lookup]
    exact ht.quar n key
  held n hseen hin := by
    rw [h.store.slots n]
    simp only [h.lookup]
    exact ht.held n hseen (h.inHand_iff.1 hin)
  index q e := by
    rw [h.lookup, h.store.slots e.slot, h.inHand_iff, h.quar]
    exact ht.index q e
  range := by
    rw [h.index]
    exact ht.range
  queues n := by
    rw [h.queueOf]
    simp only [h.waiter]
    exact ht.queues n
  pool id w := by
    rw [h.waiter, h.queueOf, h.inHand_iff]
    exact ht.pool id w
  sched := h.sched ht.sched

end

end Sys2Proof.Machine
end

section
/-! PROOFS. What leaves the directory as it is: reads, commits of control words, notices and the schedule (R9, R135). -/

namespace Sys2Proof.Machine

section
variable {s x : State}

theorem Control.ofStore.lawful {α : Type} {c : Control α} (hc : c.ofStore) : c.lawful := by
  cases hc
  case session c => exact lawful_session c
  case zone => exact lawful_zone
  case token => exact lawful_token
  case nonce => exact lawful_nonce
  case flags => exact lawful_flags

theorem State.beside_read {α : Type} [DecidableEq α] {c : Control α} (hc : c.ofStore) (hs : s.between) :
    s.beside (c.read s).1 ∧ (c.read s).1.between := by
  obtain ⟨m, hmain, hcursor, -⟩ := Control.read_main c s
  refine ⟨⟨hc.read_alike hs.canonical hs.uncut, ?_, ?_, ?_, ?_, ?_, ?_, ?_⟩, steady_between.read hc.lawful s hs⟩
  case refine_6 =>
    rw [hmain]
    exact id
  case refine_7 =>
    rw [hmain]
    exact fun h => hcursor.trans_lt h
  all_goals rw [hmain]

theorem State.beside_readSlot (hs : s.between) (n k : Nat) :
    s.beside (s.readSlot n k).1 ∧ (s.readSlot n k).1.between ∧ (s.readSlot n k).1.main.mon.fault = s.main.mon.fault := by
  obtain ⟨m, hmain, a, b, tr, rfl⟩ := State.readSlot_main s n k
  refine ⟨⟨State.readSlot_alike hs.canonical n k, ?_, ?_, ?_, ?_, ?_, ?_, ?_⟩, steady_between.readSlot s n k hs, ?_⟩
  case refine_6 =>
    rw [hmain]
    exact id
  case refine_7 =>
    rw [hmain]
    exact id
  all_goals rw [hmain]

theorem State.beside_logWords (s : State) (a : TrapArea) (i c : Nat) (es : List Ecc) : s.beside (s.logWords a i c es) := by
  obtain ⟨m, n, tr, hm⟩ := Monitor.logged_logWords a i c es 0 s.main.mon
  rw [State.logWords, hm]
  exact ⟨Store.alike.refl _, rfl, rfl, rfl, rfl, rfl, id, id⟩

/-- A change of the Store Monitor that leaves the scrub cursor. -/
theorem State.beside_setMon (s : State) {m : Monitor} (h : m.cursor = s.main.mon.cursor) : s.beside (s.setMon m) :=
  ⟨Store.alike.refl _, rfl, rfl, rfl, rfl, rfl, id, fun hs => h.trans_lt hs⟩

theorem State.beside_enterFault (s : State) (l : BitVec 24) : s.beside (s.enterFault l) := State.beside_setMon s rfl

/-- Writes of the intent area. -/
theorem State.beside_onIntent (s : State) {ws : List (Store → Store)} (h : ∀ w ∈ ws, OnIntent w) : s.beside (s.writes ws) := by
  refine ⟨?_, rfl, rfl, rfl, rfl, rfl, id, id⟩
  refine State.writes_induct (P := fun st => s.store.alike st) (fun w hw st hst => ?_) (Store.alike.refl _)
  obtain ⟨g, rfl⟩ := h w hw
  exact ⟨hst.slots, hst.token, hst.zone⟩

/-- A commit of session entries, the nonce counter or the flags. -/
theorem State.beside_commit (hs : s.between) {c : Commit} (himages : c.images = []) (htoken : c.token = none) :
    s.beside (s.commit c) ∧ (s.commit c).between :=
  ⟨⟨State.commit_alike hs himages htoken, rfl, rfl, rfl, rfl, rfl, id, id⟩, State.between_commit hs c⟩

/-- Results but the freeing of a waiter, a schedule entry of a grant naming a slot of the record area. -/
def Out.beside : Out → Prop
  | .notice _ _ => True
  | .insert _ r _ => ∀ n tok, r = .grant n tok → n < 1024
  | .move _ r _ => ∀ n tok, r = .grant n tok → n < 1024
  | .remove _ => True
  | .freeWaiter _ _ => False

theorem State.beside_offer (s : State) (c : Nat) (n : Notice) : s.beside (s.offer c n) := by
  rcases State.offer_cases s c n with h | ⟨l, h⟩ <;> rw [h]
  · exact State.beside.refl s
  · exact ⟨Store.alike.refl _, rfl, rfl, rfl, rfl, rfl, id, id⟩

theorem State.beside_schedInsert (s : State) (k : Kind) {r : Ref} (hr : ∀ n tok, r = .grant n tok → n < 1024) (d : Tick) :
    s.beside (s.schedInsert k r d) := by
  refine ⟨Store.alike.refl _, rfl, rfl, rfl, rfl, rfl, fun h e he => ?_, id⟩
  rcases mem_schedInsert.1 he with rfl | ⟨he, -⟩
  · exact hr
  · exact h e he

theorem State.beside_schedMove (s : State) (k : Kind) {r : Ref} (hr : ∀ n tok, r = .grant n tok → n < 1024) (d : Tick) :
    s.beside (s.schedMove k r d) := State.beside_schedInsert s _ hr d

theorem State.beside_schedRemove (s : State) (r : Ref) : s.beside (s.schedRemove r) :=
  ⟨Store.alike.refl _, rfl, rfl, rfl, rfl, rfl, fun h e he => h e (List.mem_of_mem_filter he), id⟩

theorem State.beside_handOut {o : Out} (ho : o.beside) (s : State) : s.beside (s.handOut o) := by
  cases o with
  | notice c n => exact State.beside_offer s c n
  | insert k r d => exact State.beside_schedInsert s k ho d
  | move k r d => exact State.beside_schedMove s k ho d
  | remove r => exact State.beside_schedRemove s r
  | freeWaiter id c => exact ho.elim

theorem State.beside_handOuts : ∀ {os : List Out} (s : State), (∀ o ∈ os, o.beside) → s.beside (s.handOuts os)
  | [], s, _ => State.beside.refl s
  | _ :: _, s, h => by
    obtain ⟨ho, hos⟩ := List.forall_mem_cons.1 h
    exact (State.beside_handOut ho s).trans (State.beside_handOuts _ hos)

theorem State.beside_driveLines (s : State) : s.beside s.driveLines := by
  rcases State.driveLines_cases s with h | ⟨l, h⟩ <;> rw [h]
  · exact State.beside.refl s
  · exact ⟨Store.alike.refl _, rfl, rfl, rfl, rfl, rfl, id, id⟩

end

end Sys2Proof.Machine
end

section
/-! PROOFS. The restart sweep and WIPE end in sound records (R129, R130, R168 to R172). -/

namespace Sys2Proof.Machine

/-- A stage that keeps a predicate over each element of a list keeps it over the list. -/
theorem foldl_keepsOver {α : Type} {P : State → Prop} {g : State → α → State} : ∀ {l : List α} {s : State},
    (∀ s, ∀ a ∈ l, P s → P (g s a)) → P s → P (l.foldl g s)
  | [], _, _, h => h
  | a :: l, s, hg, h => foldl_keepsOver (l := l) (fun s b hb => hg s b (List.mem_cons_of_mem _ hb))
      (hg s a List.mem_cons_self h)

/-- The sweep has placed the slots below `k`: behind them nothing is in a set, and no queue holds a waiter (R165, R171). -/
structure State.sweptUpTo (x : State) (k : Nat) : Prop where
  between : x.between
  tidy    : x.tidy (· < k) [] x.counter
  footed  : x.footed
  ahead   : ∀ n, k ≤ n → x.isFree n = false ∧ Tab.find? x.main.quar n = none
  idle    : x.main.queues = []

section
variable {s x y : State} {k : Nat}

theorem State.sweptUpTo.of_beside (h : x.sweptUpTo k) (hb : x.beside y) (hy : y.between) : y.sweptUpTo k where
  between := hy
  tidy := by
    rw [hb.counter]
    exact hb.tidy h.tidy
  footed := hb.footed h.footed
  ahead n hn := by
    rw [hb.isFree, hb.quar]
    exact h.ahead n hn
  idle := hb.queues.trans h.idle

/-! ### Stages 1 to 3 (R168, R169) -/

theorem State.beside_sweepSession (hs : s.between) (c : Nat) : s.beside (s.sweepSession c) ∧ (s.sweepSession c).between := by
  obtain ⟨hread, -⟩ := State.beside_read (.session c) hs
  refine ⟨?_, steady_between.sweepSession s c hs⟩
  rw [State.sweepSession]
  dsimp only
  split
  · exact hread
  · exact hread.trans ⟨Store.alike.refl _, rfl, rfl, rfl, rfl, rfl, id, id⟩

theorem State.beside_sweepStage1 (hs : s.between) : s.beside s.sweepStage1 := by
  have hsessions : ∀ (cs : List Nat) {x : State}, x.between →
      x.beside (cs.foldl State.sweepSession x) ∧ (cs.foldl State.sweepSession x).between := fun cs => by
    induction cs with
    | nil => exact fun hx => ⟨State.beside.refl _, hx⟩
    | cons c cs ih =>
      intro x hx
      obtain ⟨hone, hbetween⟩ := State.beside_sweepSession hx c
      obtain ⟨hrest, hlast⟩ := ih hbetween
      exact ⟨hone.trans hrest, hlast⟩
  obtain ⟨h0, b0⟩ := hsessions (List.range Config.sessions) hs
  rw [State.sweepStage1]
  generalize (List.range Config.sessions).foldl State.sweepSession s = s1 at h0 b0 ⊢
  obtain ⟨h1, b1⟩ := State.beside_read .zone b0
  obtain ⟨h2, b2⟩ := State.beside_read .token b1
  obtain ⟨h3, b3⟩ := State.beside_read .nonce b2
  obtain ⟨h4, -⟩ := State.beside_read .flags b3
  have hall := (((h0.trans h1).trans h2).trans h3).trans h4
  split
  · exact hall
  · exact hall.trans (State.beside_enterFault _ _)

/-- Stage 1 leaves the intent area alone. -/
theorem State.sweepStage1_intent (s : State) : s.sweepStage1.store.intent = s.store.intent := by
  have hread : ∀ {α : Type} [DecidableEq α] {c : Control α}, c.ofStore → ∀ x : State,
      (c.read x).1.store.intent = x.store.intent := fun hc x => by
    cases hc <;> exact Control.read_leaves (g := Store.intent) (fun _ _ => rfl) x
  have hsessions : ∀ (cs : List Nat) (x : State), (cs.foldl State.sweepSession x).store.intent = x.store.intent := fun cs => by
    induction cs with
    | nil => exact fun _ => rfl
    | cons c cs ih =>
      intro x
      refine (ih _).trans ?_
      rw [State.sweepSession]
      dsimp only
      split <;> exact hread (.session c) x
  have h0 := hsessions (List.range Config.sessions) s
  rw [State.sweepStage1]
  generalize (List.range Config.sessions).foldl State.sweepSession s = s1 at h0 ⊢
  have hall := (hread .flags _).trans ((hread .nonce _).trans ((hread .token _).trans ((hread .zone s1).trans h0)))
  split <;> exact hall

/-- Without a commit to replay stage 2 corrects the marker at most (R140, R141). -/
theorem State.beside_replay (hmarker : markerValid s.store.intent.marker = false) : s.beside s.replay := by
  have hlogs := (State.beside_logWords s .intent 0 1 s.store.intent.marker.c1.ecc).trans
    (State.beside_logWords _ .intent 0 2 s.store.intent.marker.c2.ecc)
  rw [State.replay]
  dsimp only
  rw [hmarker, if_neg Bool.false_ne_true]
  split
  · exact hlogs
  · exact hlogs.trans (State.beside_onIntent _ (onIntent_markerMends _))

/-- Behind the slots placed any sound words may stand. -/
theorem State.sweptUpTo.setStore (h : x.sweptUpTo k) {st : Store} (hb : (x.setStore st).between)
    (hplaced : ∀ n, n < k → (st.slot n).val = (x.store.slot n).val)
    (hslots : ∀ n, n < 1024 → k ≤ n → (st.slot n).val.ident.holdsRecord = true → (st.slot n).val.record.holding ∧
      ∀ t, x.counter = some t → ∀ g ∈ (st.slot n).val.record.grants, g.token.toNat < t)
    (htoken : st.token.value = x.store.token.value) (hzone : st.zone.value = x.store.zone.value) : (x.setStore st).sweptUpTo k where
  between := hb
  tidy := by
    have hcounter : (x.setStore st).counter = x.counter := congrArg (Option.map BitVec.toNat) htoken
    have hlt : ∀ n, x.isFree n = true ∨ (∃ key, Tab.find? x.main.quar n = some key) → n < k := fun n hn => by
      by_contra hge
      obtain ⟨hfree, hquar⟩ := h.ahead n (Nat.le_of_not_lt hge)
      rcases hn with hn | ⟨key, hn⟩
      · exact Bool.noConfusion (hn.symm.trans hfree)
      · exact Option.some_ne_none key (hn.symm.trans hquar)
    rw [hcounter]
    exact {
      rules := fun n hn hrec => by
        by_cases hnk : n < k
        · have hval : ((x.setStore st).store.slot n).val = (x.store.slot n).val := hplaced n hnk
          rw [hval] at hrec ⊢
          exact h.tidy.rules n hn hrec
        · exact (hslots n hn (Nat.le_of_not_lt hnk) hrec).1
      tokens := fun t ht n hn hrec => by
        by_cases hnk : n < k
        · have hval : ((x.setStore st).store.slot n).val = (x.store.slot n).val := hplaced n hnk
          rw [hval] at hrec ⊢
          exact h.tidy.tokens t ht n hn hrec
        · exact (hslots n hn (Nat.le_of_not_lt hnk) hrec).2 t ht
      free := fun n hfree => by
        have hval : ((x.setStore st).store.slot n).val = (x.store.slot n).val := hplaced n (hlt n (.inl hfree))
        rw [hval]
        exact h.tidy.free n hfree
      quar := fun n key hq => by
        have hval : ((x.setStore st).store.slot n).val = (x.store.slot n).val := hplaced n (hlt n (.inr ⟨key, hq⟩))
        rw [hval]
        exact h.tidy.quar n key hq
      held := fun n hn hin => by
        have hval : ((x.setStore st).store.slot n).val = (x.store.slot n).val := hplaced n hn
        rw [hval]
        exact h.tidy.held n hn hin
      index := fun q e he => by
        obtain ⟨hquar, hin⟩ := h.tidy.index q e he
        refine ⟨hquar, fun hq => ?_⟩
        obtain ⟨hn, hin, hkey⟩ := hin hq
        have hval : ((x.setStore st).store.slot e.slot).val = (x.store.slot e.slot).val := hplaced _ hn
        rw [hval]
        exact ⟨hn, hin, hkey⟩
      range := h.tidy.range
      queues := h.tidy.queues
      pool := h.tidy.pool
      sched := h.tidy.sched }
  footed := ⟨fun v hv => h.footed.counter v (htoken.symm.trans hv), fun m z hm => h.footed.zones m z (hzone.symm.trans hm),
    h.footed.cursor⟩
  ahead := h.ahead
  idle := h.idle

/-- Stage 3 leaves every slot without a record, or changes nothing (R169). -/
theorem State.sweptUpTo.stage3 (h : x.sweptUpTo 0) : x.sweepStage3.sweptUpTo 0 := by
  by_cases hfault : x.inFault
  · rw [State.sweepStage3, if_pos hfault]
    exact h
  cases hfl : flagsWord.peek x with
  | none =>
    rw [State.sweepStage3, if_neg hfault, hfl]
    exact h
  | some fl =>
    by_cases hwiping : fl.wiping = true
    · obtain ⟨hstore, hb, hwiped⟩ := State.sweepStage3_wiping h.between hfault hfl hwiping
      rw [hstore] at hb ⊢
      refine h.setStore hb (fun n hn => absurd hn n.not_lt_zero) (fun n hn _ hrec => ?_) (congrArg _ hwiped.token)
        (congrArg _ hwiped.zone)
      rw [hwiped.slots n hn] at hrec
      exact Bool.noConfusion hrec
    · rw [State.sweepStage3, if_neg hfault, hfl]
      dsimp only
      rw [if_neg hwiping]
      exact h

/-! ### Stage 4 (R170) -/

/-- One slot behind those placed is committed. -/
theorem State.sweptUpTo.commitSlot (h : x.sweptUpTo k) {n : Nat} (hn : k ≤ n) {b : Block SlotImg} {img : Image}
    (himg : x.store.putImage img = x.store.setSlot n b)
    (hb : b.val.ident.holdsRecord = true → b.val.record.holding ∧
      ∀ t, x.counter = some t → ∀ g ∈ b.val.record.grants, g.token.toNat < t) :
    (x.commit { images := [img] }).sweptUpTo k ∧ ((x.commit { images := [img] }).store.slot n).val = b.val ∧
      (x.commit { images := [img] }).main = x.main := by
  obtain ⟨st, hst, hbetween, hrest, hslots⟩ := State.commit_slot h.between n b himg
  rw [hst]
  refine ⟨h.setStore hbetween (fun m hm => ?_) (fun m hm hkm hrec => ?_) ?_ ?_, ?_, rfl⟩
  · rw [hslots m, if_neg (Nat.ne_of_gt (hm.trans_le hn))]
  · rw [hslots m] at hrec ⊢
    by_cases hnm : n = m
    · rw [if_pos hnm] at hrec ⊢
      exact hb hrec
    · rw [if_neg hnm] at hrec ⊢
      exact ⟨h.tidy.rules m hm hrec, fun t ht => h.tidy.tokens t ht m hm hrec⟩
  · rw [hrest]
  · rw [hrest]
  · show (st.slot n).val = _
    rw [hslots n, if_pos rfl]

/-- A slot behind those placed loses its record. -/
theorem State.sweptUpTo.commitIdent (h : x.sweptUpTo k) {n : Nat} (hn : k ≤ n) {w : IdWord} (hw : w.holdsRecord = false) :
    (x.commitIdent n w).sweptUpTo k ∧ ((x.commitIdent n w).store.slot n).val.ident = w ∧ (x.commitIdent n w).main = x.main := by
  obtain ⟨hswept, hval, hmain⟩ := h.commitSlot hn (n := n)
    (b := { val := { (x.store.slot n).val with ident := w }, ecc := (x.store.slot n).ecc.set 0 .good })
    (img := .slot n false { (x.store.slot n).val with ident := w }) rfl
    fun hrec => absurd hrec (Bool.eq_false_iff.1 hw)
  exact ⟨hswept, (congrArg SlotImg.ident hval).trans rfl, hmain⟩

/-- A record that may stand in a slot: it fits, keeps the holding rules, and its tokens are below the bound. -/
structure Rec.standing (r : Rec) (bound : Option Nat) : Prop where
  fits    : r.fits
  holding : r.holding
  tokens  : ∀ t, bound = some t → ∀ g ∈ r.grants, g.token.toNat < t

theorem Rec.standing.advance {r : Rec} {bound : Option Nat} (h : r.standing bound) (gen : Gen) : { r with gen := gen }.standing bound :=
  ⟨h.fits, ⟨h.holding.alone, h.holding.room, h.holding.clients, h.holding.summary, h.holding.limit⟩, h.tokens⟩

/-- A record whose grants are some of the record's, changed in their places. -/
theorem Rec.standing.withGrants {r : Rec} {bound : Option Nat} (h : r.standing bound) {gs : List Grant}
    (hholding : (r.withGrants gs).holding) (hlen : gs.length ≤ r.grants.length)
    (hof : ∀ g ∈ gs, ∃ g0 ∈ r.grants, g.token = g0.token) : (r.withGrants gs).standing bound where
  fits := ⟨hlen.trans h.fits.1, fun g hg => by
    obtain ⟨g0, hg0, heq⟩ := hof g hg
    rw [heq]
    exact h.fits.2 g0 hg0⟩
  holding := hholding
  tokens t ht g hg := by
    obtain ⟨g0, hg0, heq⟩ := hof g hg
    rw [heq]
    exact h.tokens t ht g0 hg0

theorem State.sweptUpTo.standing (h : x.sweptUpTo k) {n : Nat} (hn : n < 1024)
    (hrec : (x.store.slot n).val.ident.holdsRecord = true) : (x.store.slot n).val.record.standing x.counter :=
  ⟨SlotImg.record_fits _, h.tidy.rules n hn hrec, fun t ht => h.tidy.tokens t ht n hn hrec⟩

theorem Rec.image_holdsRecord {r : Rec} (h : r.state = summaryOf r.grants) : r.image.ident.holdsRecord = true := by
  show (true && r.state != .quarantined) = true
  rw [h, Bool.true_and, bne_iff_ne]
  exact summaryOf_ne_quarantined _

/-- The commit of a record that the sweep has changed (R170, R171). -/
theorem State.sweptUpTo.sweepCommit (h : x.sweptUpTo k) {n : Nat} (hn : k ≤ n) {r : Rec} (hr : r.standing x.counter) :
    (x.sweepCommit n r).sweptUpTo k ∧ (x.sweepCommit n r).main = x.main ∧
      ((r.persist = .transient ∧ r.state = .vacant) → ((x.sweepCommit n r).store.slot n).val.ident = IdWord.free) ∧
      (¬ (r.persist = .transient ∧ r.state = .vacant) →
        ((x.sweepCommit n r).store.slot n).val = { r with gen := r.gen + 1 }.image) := by
  have hnext := hr.advance (r.gen + 1)
  rw [State.sweepCommit]
  split
  next hret =>
    obtain ⟨hswept, hident, hmain⟩ := h.commitIdent hn (w := IdWord.free) rfl
    exact ⟨hswept, hmain, fun _ => hident, fun hnot => absurd hret hnot⟩
  next hkeep =>
    obtain ⟨hswept, hval, hmain⟩ := h.commitSlot hn (b := { val := { r with gen := r.gen + 1 }.image, ecc := tenGood })
      (img := .slot n true { r with gen := r.gen + 1 }.image) rfl fun _ => by
        rw [Rec.image_record hnext.fits]
        exact ⟨hnext.holding, hnext.tokens⟩
    exact ⟨hswept, hmain, fun hret => absurd hret hkeep, fun _ => hval⟩

theorem State.beside_sweepRead (hs : s.between) (n : Nat) :
    s.beside (s.sweepRead n).1 ∧ (s.sweepRead n).1.between := by
  rw [State.sweepRead]
  split <;>
  · obtain ⟨hb, hbetween, -⟩ := State.beside_readSlot hs n _
    exact ⟨hb, hbetween⟩

theorem Out.beside_of_notice {os : List Out} (h : ∀ o ∈ os, ∃ c n, o = .notice c n) : ∀ o ∈ os, o.beside := fun o ho => by
  obtain ⟨c, n, rfl⟩ := h o ho
  trivial

theorem State.sweptUpTo.handOuts (h : x.sweptUpTo k) {os : List Out} (hos : ∀ o ∈ os, o.beside) : (x.handOuts os).sweptUpTo k :=
  h.of_beside (State.beside_handOuts x hos) (steady_between.handOuts x os h.between)

theorem quarantinedIdent_holdsRecord (b : Block SlotImg) : (quarantinedIdent b).holdsRecord = false := by
  rw [quarantinedIdent, IdWord.holdsRecord]
  split
  · exact Bool.and_false _
  · rfl

/-- A slot that a sweep stage quarantines (R142, R171). -/
theorem State.sweptUpTo.sweepQuarantine (h : x.sweptUpTo k) {n : Nat} (hn : k ≤ n) :
    (x.sweepQuarantine n).sweptUpTo k ∧ ((x.sweepQuarantine n).store.slot n).val.ident = quarantinedIdent (x.store.slot n) ∧
      (∃ q a, (x.sweepQuarantine n).main = { x.main with notices := q, attn := a }) := by
  have hnotices : ∀ o ∈ (readableHolders (x.store.slot n)).map fun h =>
      Out.notice h.1 (grantNotice x.now .revoked .quarantine ((x.store.slot n).val.ident.key.getD 0) h.2),
      ∃ c m, o = .notice c m := fun o ho => by
    obtain ⟨g, -, rfl⟩ := List.mem_map.1 ho
    exact ⟨_, _, rfl⟩
  have hswept := h.handOuts (Out.beside_of_notice hnotices)
  obtain ⟨q, a, hq⟩ := State.handOuts_notices hnotices x
  rw [State.sweepQuarantine]
  rw [hq] at hswept ⊢
  obtain ⟨hswept, hident, hmain⟩ := hswept.commitIdent hn (quarantinedIdent_holdsRecord (x.store.slot n))
  exact ⟨hswept, hident, q, a, hmain⟩

theorem stage4Grant_keeps (now : Tick) (sett : List (Nat × Action)) : Grant.keepsHolding (stage4Grant now sett) := fun g => by
  rw [stage4Grant]
  split
  · exact ⟨rfl, .inl rfl⟩
  · exact ⟨rfl, .inl rfl⟩
  · exact ⟨rfl, .inl rfl⟩
  · split
    · exact ⟨rfl, .inl rfl⟩
    · exact ⟨rfl, .inl rfl⟩

theorem stage4Grant_token (now : Tick) (sett : List (Nat × Action)) (g : Grant) : (stage4Grant now sett g).token = g.token := by
  rw [stage4Grant]
  split
  · rfl
  · rfl
  · rfl
  · split <;> rfl

theorem State.sweptUpTo.stage4Record (h : x.sweptUpTo 0) {r : Rec} (hr : r.standing x.counter) (sett : List (Nat × Action)) (n : Nat) :
    (x.stage4Record sett n r).sweptUpTo 0 := by
  rw [State.stage4Record]
  split
  · exact h
  · refine ((h.handOuts (Out.beside_of_notice mem_expiredOuts)).sweepCommit n.zero_le ?_).1
    rw [(State.beside_handOuts x (Out.beside_of_notice mem_expiredOuts)).counter]
    refine hr.withGrants (Rec.holding.map (hr.holding.filter _) (stage4Grant_keeps x.now sett)) ?_ fun g hg => ?_
    · rw [List.length_map]
      exact List.length_filter_le _ _
    · obtain ⟨g0, hg0, rfl⟩ := List.mem_map.1 hg
      exact ⟨g0, List.mem_of_mem_filter hg0, stage4Grant_token _ _ _⟩

theorem State.sweptUpTo.stage4Slot (h : x.sweptUpTo 0) (sett : List (Nat × Action)) {n : Nat} (hn : n < 1024) :
    (State.stage4Slot sett x n).sweptUpTo 0 := by
  obtain ⟨hread, hb⟩ := State.beside_sweepRead h.between n
  have hswept := h.of_beside hread hb
  rw [State.stage4Slot]
  split
  · exact (hswept.commitIdent n.zero_le rfl).1
  · split
    · exact hswept
    next hrec =>
      split
      · exact (hswept.sweepQuarantine n.zero_le).1
      · refine hswept.stage4Record ?_ sett n
        rw [hread.counter]
        exact h.standing hn (by simpa using hrec)

theorem State.sweptUpTo.stage4 (h : x.sweptUpTo 0) : x.sweepStage4.sweptUpTo 0 := by
  by_cases hskip : x.inFault ∨ x.settling = []
  · rw [State.sweepStage4, if_pos hskip]
    exact h
  · rw [State.sweepStage4_eq (fun hf => hskip (.inl hf)) fun hs => hskip (.inr hs)]
    have hslots := foldl_keepsOver (P := fun x => x.sweptUpTo 0) (g := State.stage4Slot x.settling)
      (l := List.range Config.slots) (fun y n hn hy => hy.stage4Slot _ (List.mem_range.1 hn)) h
    generalize (List.range Config.slots).foldl (State.stage4Slot x.settling) x = y at hslots
    have hentries := foldl_keepsOver (P := fun x => x.sweptUpTo 0)
      (g := fun s (p : Nat × Action) => s.commit { session := some (p.1, stage4Entry (s.session p.1)) }) (l := x.settling)
      (fun y p _ hy => by
        obtain ⟨hb, hbetween⟩ := State.beside_commit hy.between
          (c := { session := some (p.1, stage4Entry (y.session p.1)) }) rfl rfl
        exact hy.of_beside hb hbetween) hslots
    exact hentries.of_beside (State.beside_driveLines _) (steady_between.driveLines _ hentries.between)

end

end Sys2Proof.Machine
end

section
/-! PROOFS. Stage 5 of the restart sweep, and the soundness of the records behind it (R171). -/

namespace Sys2Proof.Machine

theorem State.lookup_putIndex (s : State) (k q : Key) (e : IndexEntry) :
    (s.setIndex (Tab.put s.main.index k.toNat e)).lookup q = if k = q then some e else s.lookup q := by
  show Tab.find? (Tab.put s.main.index k.toNat e) q.toNat = _
  rw [Tab.find?_put]
  by_cases h : k = q
  · rw [if_pos h, if_pos (congrArg BitVec.toNat h)]
  · rw [if_neg h, if_neg fun hn => h (BitVec.eq_of_toNat_eq hn)]
    rfl

theorem State.range_putIndex {s : State} (h : ∀ e ∈ s.main.index, e.1 < 2 ^ 32) (k : Key) (v : IndexEntry) :
    ∀ e ∈ Tab.put s.main.index k.toNat v, e.1 < 2 ^ 32 := fun e he => by
  rcases Tab.mem_put he with rfl | he
  · exact k.isLt
  · exact h e he

section
variable {x y : State} {k : Nat}

/-- Nothing names a slot that is not placed yet. -/
theorem State.sweptUpTo.namesOnly (h : x.sweptUpTo k) {key : Option Key} (habsent : ∀ q, key = some q → x.lookup q = none) :
    x.namesOnly k key := fun q e he => by
  refine iff_of_false (fun hslot => ?_) fun hq => Option.some_ne_none e (he.symm.trans (habsent q hq))
  obtain ⟨hquar, hin⟩ := h.tidy.index q e he
  cases hkind : e.quarantined with
  | true =>
    have hsome := hquar hkind
    rw [hslot, (h.ahead k (Nat.le_refl k)).2] at hsome
    exact Option.some_ne_none _ hsome.symm
  | false => exact absurd hslot (hin hkind).1.ne

/-- The next slot is placed. -/
theorem State.sweptUpTo.place (h : x.sweptUpTo k) (hk : k < 1024) (hy : y.between) (hstore : y.store = x.store)
    {key : Option Key} (habsent : ∀ q, key = some q → x.lookup q = none)
    (hfree : ∀ m, m ≠ k → y.isFree m = x.isFree m) (hquar : ∀ m, m ≠ k → Tab.find? y.main.quar m = Tab.find? x.main.quar m)
    (hindex : ∀ q, key ≠ some q → y.lookup q = x.lookup q) (hrange : ∀ e ∈ y.main.index, e.1 < 2 ^ 32)
    (hsched : ∀ e ∈ y.main.sched, ∀ m tok, e.ref = .grant m tok → m < 1024)
    (hrest : y.main.queues = x.main.queues ∧ y.main.pool = x.main.pool ∧ y.main.mon = x.main.mon)
    (hstatus : y.settledAs k key x.counter) : y.sweptUpTo (k + 1) := by
  obtain ⟨hqueues, hpool, hmon⟩ := hrest
  have hempty : ∀ m, y.queueOf m = [] := fun m => by
    rw [State.queueOf, hqueues, h.idle]
    rfl
  have hempty' : ∀ m, x.queueOf m = [] := fun m => by
    rw [State.queueOf, h.idle]
    rfl
  have hbut : x.sameBut y k key :=
    ⟨fun m _ => by rw [hstore], hfree, hquar, fun m _ => (hempty m).trans (hempty' m).symm, hindex,
      fun id => by rw [State.waiter, hpool]; rfl⟩
  have htidy := h.tidy.change hk hbut (h.namesOnly habsent) hstatus (fun t ht => ⟨t, ht, Nat.le_refl t⟩) hrange hsched
    (gone := []) (by rw [hempty]; exact List.nodup_nil) (fun id hid => by rw [hempty] at hid; exact absurd hid List.not_mem_nil)
    (fun id hid => by rw [hempty'] at hid; exact absurd hid List.not_mem_nil) fun id hid => absurd hid List.not_mem_nil
  exact {
    between := hy
    tidy := by
      have hcounter : y.counter = x.counter := by rw [State.counter, hstore]; rfl
      have hseen : (fun m => m < k ∨ m = k) = (· < k + 1) := funext fun m => propext Nat.lt_succ_iff_lt_or_eq.symm
      rw [hcounter, ← hseen]
      exact htidy
    footed := ⟨by rw [hstore]; exact h.footed.counter, by rw [hstore]; exact h.footed.zones, by rw [hmon]; exact h.footed.cursor⟩
    ahead := fun n hn => by
      rw [hfree n (Nat.ne_of_gt hn), hquar n (Nat.ne_of_gt hn)]
      exact h.ahead n (Nat.le_of_succ_le hn)
    idle := hqueues.trans h.idle }

theorem State.sweptUpTo.queueOf (h : x.sweptUpTo k) (n : Nat) : x.queueOf n = [] := by
  rw [State.queueOf, h.idle]
  rfl

/-- A slot without a record is FREE. -/
theorem State.sweptUpTo.placeFree (h : x.sweptUpTo k) (hk : k < 1024) (hunused : (x.store.slot k).val.ident.inUse = false) :
    (x.markFree k true).sweptUpTo (k + 1) := by
  refine h.place (key := none) hk (steady_between.markFree x k true h.between) rfl nofun (fun m hm => ?_) (fun _ _ => rfl)
    (fun _ _ => rfl) h.tidy.range h.tidy.sched ⟨rfl, rfl, rfl⟩ (.inl ⟨?_, hunused, (h.ahead k (Nat.le_refl k)).2, nofun, h.queueOf k⟩)
  · by_cases hlt : m < 1024
    · rw [State.isFree_markFree hlt, decide_eq_false hm, Bool.or_false]
    · rw [State.isFree, State.isFree, BitVec.getLsbD_of_ge _ _ (Nat.le_of_not_lt hlt),
        BitVec.getLsbD_of_ge _ _ (Nat.le_of_not_lt hlt)]
  · rw [State.isFree_markFree hk, decide_eq_true rfl, Bool.or_true]

/-- A quarantined slot joins the quarantine set without a key. -/
theorem State.sweptUpTo.placeLost (h : x.sweptUpTo k) (hk : k < 1024) (hnone : (x.store.slot k).val.ident.holdsRecord = false) :
    (x.setQuar (Tab.put x.main.quar k none)).sweptUpTo (k + 1) :=
  h.place (key := none) hk (steady_between.quar x _ h.between fun hr => Tab.rising_put hr k none) rfl nofun (fun _ _ => rfl)
    (fun _ hm => (Tab.find?_put _ _ _ _).trans (if_neg (Ne.symm hm))) (fun _ _ => rfl) h.tidy.range h.tidy.sched ⟨rfl, rfl, rfl⟩
    (.inr (.inl ⟨(h.ahead k (Nat.le_refl k)).1, hnone, h.queueOf k, .inl ⟨Tab.find?_put_self _ _ _, nofun⟩⟩))

/-- A quarantined slot joins the quarantine set and the index under its key. -/
theorem State.sweptUpTo.placeQuarantined (h : x.sweptUpTo k) (hk : k < 1024)
    (hnone : (x.store.slot k).val.ident.holdsRecord = false) {q : Key} (habsent : x.lookup q = none) :
    (x.stage5Quarantined k q).sweptUpTo (k + 1) := by
  have hlookup : ∀ q', (x.stage5Quarantined k q).lookup q' =
      if q = q' then some { slot := k, quarantined := true, holders := [] } else x.lookup q' := fun q' =>
    State.lookup_putIndex (x.setQuar (Tab.put x.main.quar k (some q))) q q' _
  refine h.place (key := some q) hk
    (steady_between.index _ _ (steady_between.quar x _ h.between fun hr => Tab.rising_put hr k (some q)) fun hr =>
      Tab.rising_put hr q.toNat _) rfl
    (fun q' hq => Option.some.inj hq ▸ habsent) (fun _ _ => rfl)
    (fun _ hm => (Tab.find?_put _ _ _ _).trans (if_neg (Ne.symm hm)))
    (fun q' hq => (hlookup q').trans (if_neg fun heq => hq (congrArg _ heq)))
    (State.range_putIndex (s := x.setQuar _) h.tidy.range q _) h.tidy.sched ⟨rfl, rfl, rfl⟩
    (.inr (.inl ⟨(h.ahead k (Nat.le_refl k)).1, hnone, h.queueOf k,
      .inr ⟨q, [], rfl, Tab.find?_put_self _ _ _, (hlookup q).trans (if_pos rfl)⟩⟩))

/-- A record joins the index. -/
theorem State.sweptUpTo.placeRecord (h : x.sweptUpTo k) (hk : k < 1024) {r : Rec}
    (hrec : (x.store.slot k).val.ident.holdsRecord = true) (hkey : (x.store.slot k).val.ident.key = some r.key)
    (habsent : x.lookup r.key = none) : (x.indexRecord k r).sweptUpTo (k + 1) := by
  have hlookup := State.lookup_putIndex x r.key
  have hstanding := h.standing hk hrec
  exact h.place (key := some r.key) hk (steady_between.index x _ h.between fun hr => Tab.rising_put hr r.key.toNat _) rfl
    (fun q' hq => Option.some.inj hq ▸ habsent) (fun _ _ => rfl) (fun _ _ => rfl)
    (fun q' hq => (hlookup q' _).trans (if_neg fun heq => hq (congrArg _ heq)))
    (State.range_putIndex h.tidy.range r.key _) h.tidy.sched ⟨rfl, rfl, rfl⟩
    (.inr (.inr ⟨(h.ahead k (Nat.le_refl k)).1, (h.ahead k (Nat.le_refl k)).2, hrec, hstanding.holding, hstanding.tokens,
      r.key, _, rfl, hkey, (hlookup r.key _).trans (if_pos rfl)⟩))

/-- Stage 5 on a record whose key is not in the index (R171). -/
theorem State.sweptUpTo.stage5Record (h : x.sweptUpTo k) (hk : k < 1024)
    (hrec : (x.store.slot k).val.ident.holdsRecord = true) {q : Key} (hkey : (x.store.slot k).val.ident.key = some q)
    (habsent : x.lookup q = none) : (x.stage5Record k (x.store.slot k).val.record).sweptUpTo (k + 1) := by
  have hstanding := h.standing hk hrec
  have hq : (x.store.slot k).val.record.key = q := by
    show (x.store.slot k).val.ident.key.getD 0 = q
    rw [hkey]
    rfl
  generalize hr : (x.store.slot k).val.record = r at hstanding hq ⊢
  have hnotices := State.beside_handOuts x (Out.beside_of_notice
    (mem_expiredOuts (now := x.now) (k := r.key) (gs := r.grants.filter (Grant.due x.now))))
  have hs1 := h.handOuts (Out.beside_of_notice
    (mem_expiredOuts (now := x.now) (k := r.key) (gs := r.grants.filter (Grant.due x.now))))
  have hnext : (r.withGrants (r.grants.filter fun g => !g.due x.now)).standing x.counter :=
    hstanding.withGrants (hstanding.holding.filter _) (List.length_filter_le _ _)
      fun g hg => ⟨g, List.mem_of_mem_filter hg, rfl⟩
  rw [State.stage5Record]
  generalize x.handOuts (expiredOuts x.now r.key (r.grants.filter (Grant.due x.now))) = s1 at hnotices hs1 ⊢
  generalize hgs : r.withGrants (r.grants.filter fun g => !g.due x.now) = r1 at hnext ⊢
  have hr1key : r1.key = q := by rw [← hgs]; exact hq
  rw [← hnotices.counter] at hnext
  obtain ⟨hcommit, hmain, hfreed, hwritten⟩ := hs1.sweepCommit (Nat.le_refl k) hnext
  have habsent1 : s1.lookup q = none := by rw [hnotices.lookup]; exact habsent
  split
  next hret =>
    refine hcommit.placeFree hk ?_
    rw [hfreed hret]
  next hkeep =>
    have hentries : ∀ o ∈ grantEntries k r1.grants, o.beside := fun o ho => by
      obtain ⟨g, -, rfl⟩ := List.mem_map.1 ho
      exact fun n tok href => (Ref.grant.inj href).1 ▸ hk
    refine State.sweptUpTo.handOuts ?_ hentries
    split
    next hsame =>
      have hval := hnotices.store.slots k
      refine hs1.placeRecord hk (by rw [hval]; exact hrec) (by rw [hval, hr1key]; exact hkey) (by rw [hr1key]; exact habsent1)
    next =>
      have hval := hwritten hkeep
      refine hcommit.placeRecord hk ?_ (by rw [hval]; rfl) ?_
      · rw [hval]
        exact Rec.image_holdsRecord (r := { r1 with gen := r1.gen + 1 }) hnext.holding.summary
      · rw [State.lookup, hmain, hr1key]
        exact habsent1

theorem State.sweptUpTo.stage5Lost (h : x.sweptUpTo k) (hk : k < 1024) : (x.stage5Lost k).sweptUpTo (k + 1) := by
  obtain ⟨hswept, hident, hmain⟩ := h.commitIdent (Nat.le_refl k) (w := IdWord.lost) rfl
  have hplaced := hswept.placeLost hk (by rw [hident]; rfl)
  rw [hmain] at hplaced
  exact hplaced

/-- Stage 5 on the next slot (R171). -/
theorem State.sweptUpTo.stage5Slot (h : x.sweptUpTo k) (hk : k < 1024) : (x.stage5Slot k).sweptUpTo (k + 1) := by
  obtain ⟨hread, hb⟩ := State.beside_sweepRead h.between k
  have hswept := h.of_beside hread hb
  have hval := hread.store.slots k
  rw [State.stage5Slot]
  generalize (x.sweepRead k).1 = s1 at hread hswept hval ⊢
  split
  · exact hswept.stage5Lost hk
  split
  next hunused => exact hswept.placeFree hk (by rw [hval]; simpa using hunused)
  next hused =>
    split
    next hkey =>
      split
      next hquar => exact hswept.placeLost hk (by rw [hval, IdWord.holdsRecord, hquar]; exact Bool.and_false _)
      next => exact hswept.stage5Lost hk
    next q hkey =>
      split
      · exact hswept.stage5Lost hk
      next habsent =>
        have hnone : s1.lookup q = none := by simpa using habsent
        split
        next hquar => exact hswept.placeQuarantined hk (by rw [hval, IdWord.holdsRecord, hquar]; exact Bool.and_false _) hnone
        next hstate =>
          split
          · obtain ⟨hgone, hident, qs, a, hmain⟩ := hswept.sweepQuarantine (Nat.le_refl k)
            refine hgone.placeQuarantined hk (by rw [hident]; exact quarantinedIdent_holdsRecord _) ?_
            rw [State.lookup, hmain]
            exact hnone
          · have hrec : (x.store.slot k).val.ident.holdsRecord = true := by
              rw [IdWord.holdsRecord, show (x.store.slot k).val.ident.inUse = true by simpa using hused, Bool.true_and, bne_iff_ne]
              exact hstate
            rw [← hval] at hrec hkey ⊢
            exact hswept.stage5Record hk hrec hkey hnone

theorem State.sweptUpTo.stage5 (h : x.sweptUpTo 0) (hfault : ¬ x.inFault) : x.sweepStage5.sweptUpTo 1024 := by
  have hall : ∀ k, k ≤ 1024 → ((List.range k).foldl State.stage5Slot x).sweptUpTo k := fun k => by
    induction k with
    | zero => exact fun _ => h
    | succ k ih =>
      intro hk
      rw [List.range_succ, List.foldl_append]
      exact (ih (Nat.le_of_succ_le hk)).stage5Slot hk
  rw [State.sweepStage5, if_neg hfault]
  exact hall 1024 (Nat.le_refl _)

/-! ### Stage 6, and the whole sweep (R172) -/

theorem State.beside_setVol (s : State) (c : Nat) (v : SessVol) : s.beside (s.setVol c v) :=
  ⟨Store.alike.refl _, rfl, rfl, rfl, rfl, rfl, id, id⟩

theorem State.beside_setNoticesOf (s : State) (c : Nat) (q : NoticeQueue) : s.beside (s.setNoticesOf c q) :=
  ⟨Store.alike.refl _, rfl, rfl, rfl, rfl, rfl, id, id⟩

theorem State.beside_placeDeadline (s : State) (kind : Kind) (c : Nat) (d : Tick) : s.beside (s.placeDeadline kind c d) :=
  (State.beside_setVol s c _).trans (State.beside_schedInsert _ kind (fun _ _ href => Ref.noConfusion href) d)

theorem State.beside_stage6Session (hx : x.between) (c : Nat) : x.beside (x.stage6Session c) := by
  have hmark : ∀ y : State, y.beside (y.markRestarted c) := fun y =>
    (State.beside_setVol y c _).trans (State.beside_setNoticesOf _ c _)
  rw [State.stage6Session]
  split
  · exact State.beside.refl x
  · have hone : x.beside (if stage6Entry (x.session c) = x.session c then x
        else x.commit { session := some (c, stage6Entry (x.session c)) }) := by
      split
      · exact State.beside.refl x
      · exact (State.beside_commit hx rfl rfl).1
    have hmarked := hone.trans (hmark _)
    dsimp only
    split
    · exact hmarked.trans (State.beside_placeDeadline _ _ _ _)
    · exact hmarked

theorem State.sweptUpTo.stage6 (h : x.sweptUpTo k) (hfault : ¬ x.inFault) : x.sweepStage6.sweptUpTo k := by
  rw [State.sweepStage6, if_neg hfault]
  exact foldl_keepsOver (P := fun x => x.sweptUpTo k)
    (fun y c _ hy => hy.of_beside (State.beside_stage6Session hy.between c) (steady_between.stage6Session y c hy.between)) h

/-- In STORE_FAULT mode stages 5 and 6 leave the mode as it is (R173). -/
theorem State.sweepStage5_inFault (h : x.inFault) : x.sweepStage5.inFault := by
  rw [State.sweepStage5, if_pos h]
  refine foldl_keepsOver (P := fun x => x.inFault) (fun y n _ hy => ?_) h
  have hread : (y.sweepRead n).1.inFault := by
    rw [State.sweepRead]
    split <;>
    · obtain ⟨m, hmain, a, b, tr, rfl⟩ := State.readSlot_main y n _
      rw [State.inFault, hmain]
      exact hy
  rw [State.stage5Fault]
  generalize (y.sweepRead n).1 = s1 at hread ⊢
  split
  · exact hread
  split
  · exact hread
  split
  · exact hread
  split
  · split <;> exact hread
  split
  · exact hread
  · rw [State.inFault, State.handOuts_mon]
    exact hread

theorem State.sweepStage6_inFault (h : x.inFault) : x.sweepStage6.inFault := by
  rw [State.sweepStage6, if_pos h]
  refine foldl_keepsOver (P := fun x => x.inFault) (fun y c _ hy => ?_) h
  rw [State.stage6Fault]
  split
  · exact hy
  split
  · exact hy
  split <;> exact hy

/-- The state at a main reset has nothing placed (R165). -/
theorem State.sweeps.sweptUpTo (h : x.sweeps) (hx : x.between) (hrec : x.store.recordsSound) : x.sweptUpTo 0 := by
  obtain ⟨-, hindex, hquar, -, hsched, hqueues, hpool, -, hcursor⟩ := h.main_eq
  have hwaiter : ∀ id, x.waiter id = none := fun id => by
    rw [State.waiter, hpool]
    rfl
  have hlookup : ∀ q, x.lookup q = none := fun q => by
    rw [State.lookup, hindex]
    rfl
  have hnone : ∀ n, Tab.find? x.main.quar n = none := fun n => by
    rw [hquar]
    rfl
  have hqueue : ∀ n, x.queueOf n = [] := fun n => by
    rw [State.queueOf, hqueues]
    rfl
  exact {
    between := hx
    tidy := {
      rules := hrec.rules
      tokens := fun t ht n hn hr g hg => by
        obtain ⟨v, hv, rfl⟩ := Option.map_eq_some_iff.1 ht
        exact hrec.tokens n v hn hr hv g hg
      free := fun n hfree => Bool.noConfusion (hfree.symm.trans (h.isFree n))
      quar := fun n key hq => absurd ((hnone n).symm.trans hq) (Option.some_ne_none key).symm
      held := fun n hn => absurd hn n.not_lt_zero
      index := fun q e he => absurd ((hlookup q).symm.trans he) (Option.some_ne_none e).symm
      range := fun e he => by
        rw [hindex] at he
        exact absurd he List.not_mem_nil
      queues := fun n => by
        rw [hqueue n]
        exact ⟨List.nodup_nil, fun id hid => absurd hid List.not_mem_nil⟩
      pool := fun id w hw => absurd ((hwaiter id).symm.trans hw) (Option.some_ne_none w).symm
      sched := fun e he => by
        rw [hsched] at he
        exact absurd he List.not_mem_nil }
    footed := ⟨hrec.counter, hrec.zones, by rw [hcursor]; exact Nat.succ_pos _⟩
    ahead := fun n _ => ⟨h.isFree n, hnone n⟩
    idle := hqueues }

/-- The sweep leaves its part sound (R168 to R172). -/
theorem sweep_sound (hx : x.between) (h : x.sweeps) (hrec : x.store.recordsSound)
    (hmarker : markerValid x.store.intent.marker = false) (hfault : ¬ x.sweep.inFault) : x.sweep.sound := by
  have h0 := h.sweptUpTo hx hrec
  have h1 := h0.of_beside (State.beside_sweepStage1 hx) (steady_between.sweepStage1 x hx)
  have h2 := h1.of_beside (State.beside_replay (by rw [State.sweepStage1_intent]; exact hmarker))
    (steady_between.replay _ h1.between)
  have h4 := h2.stage3.stage4
  rw [State.sweep] at hfault ⊢
  generalize x.sweepStage1.replay.sweepStage3.sweepStage4 = y at h4 hfault ⊢
  have hfault4 : ¬ y.inFault := fun hf => hfault (State.sweepStage6_inFault (State.sweepStage5_inFault hf))
  have hfault5 : ¬ y.sweepStage5.inFault := fun hf => hfault (State.sweepStage6_inFault hf)
  have h6 := (h4.stage5 hfault4).stage6 hfault5
  generalize y.sweepStage5.sweepStage6 = z at h6
  have hready : z.beside z.becomeReady := ⟨Store.alike.refl _, rfl, rfl, rfl, rfl, rfl, id, id⟩
  have h7 := h6.of_beside hready (State.between_becomeReady h6.between)
  exact h7.tidy.sound h7.between h7.footed

end

end Sys2Proof.Machine
end

section
/-! PROOFS. The records behind a WIPE (R129, R130). -/

namespace Sys2Proof.Machine

theorem State.sound.respond {x : State} (h : x.sound) (p : PortId) (cmd : Byte) (r : Reply) : (x.respond p cmd r).sound :=
  ⟨h.records, h.free, h.quar, h.held, h.index, h.queues, h.pool, h.sched, h.cursor⟩

theorem allOnes_getLsbD {n : Nat} (h : (BitVec.allOnes 1024).getLsbD n = true) : n < 1024 := by
  by_contra hn
  rw [BitVec.getLsbD_of_ge _ _ (Nat.le_of_not_lt hn)] at h
  cases h

/-- With every slot FREE and nothing else placed there is nothing to disagree. -/
theorem State.wipedWith_sound {y : State} {st : Store} {m : Monitor}
    (hslots : ∀ n, n < 1024 → (st.slot n).val.ident = IdWord.free) (hcounter : ∀ v, st.token.value = some v → v ≠ 0)
    (hzones : ∀ map z, st.zone.value = some map → 1 ≤ (ZoneMap.attr map z).share) (hcursor : m.cursor < 1024) :
    (y.wipedWith st m).sound := by
  have hnone : ∀ n, n < 1024 → (st.slot n).val.ident.holdsRecord = true → False := fun n hn hrec => by
    rw [hslots n hn] at hrec
    cases hrec
  exact {
    records := ⟨fun n hn hrec => (hnone n hn hrec).elim, fun n _ hn hrec => (hnone n hn hrec).elim, hcounter, hzones⟩
    free := fun n hfree => congrArg IdWord.inUse (hslots n (allOnes_getLsbD hfree))
    quar := fun n key hq => absurd (show none = some key from hq) (Option.some_ne_none key).symm
    held := fun n ⟨hn, hfree, _⟩ => by
      have hone : (BitVec.allOnes 1024).getLsbD n = true := by
        rw [BitVec.getLsbD_allOnes]
        exact decide_eq_true hn
      exact Bool.noConfusion (hone.symm.trans hfree)
    index := fun e he => absurd he List.not_mem_nil
    queues := fun n => ⟨List.nodup_nil, fun id hid => absurd hid List.not_mem_nil⟩
    pool := fun id w hw => absurd (show none = some w from hw) (Option.some_ne_none w).symm
    sched := fun e he => absurd he List.not_mem_nil
    cursor := hcursor }

/-- The end of a WIPE leaves a sound part in NORMAL mode. -/
theorem State.wipeRest_sound {y : State} (hcut : y.cut = none) (hcan : y.canonical)
    (hcounter : ∀ v, y.store.token.value = some v → v ≠ 0)
    (hzones : ∀ map z, y.store.zone.value = some map → 1 ≤ (ZoneMap.attr map z).share) (hcursor : y.main.mon.cursor < 1024)
    (fl : StoreFlags) : ¬ (y.wipeRest fl).inFault ∧ (y.wipeRest fl).sound := by
  obtain ⟨heq, hwiped, -, -⟩ := State.wipeRest_eq hcut hcan fl
  have hslots : ∀ n, n < 1024 → ((y.wipeRest fl).store.slot n).val.ident = IdWord.free := fun n hn => by
    rw [hwiped.slots n hn]
    rfl
  have hsound := State.wipedWith_sound (y := y) (m := { y.main.mon with fault := false, lost := 0, replayFailed := false })
    hslots (by rw [hwiped.token]; exact hcounter) (by rw [hwiped.zone]; exact hzones) hcursor
  rw [← heq] at hsound
  refine ⟨?_, hsound⟩
  rw [heq]
  exact Bool.false_ne_true

theorem ZoneMap.por_share (z : BitVec 2) : 1 ≤ (ZoneMap.attr ZoneMap.por z).share := by
  rw [ZoneMap.attr]
  split
  · exact Nat.le_refl 1
  split
  · exact Nat.le_refl 1
  split <;> exact Nat.le_refl 1

/-- The token counter that a WIPE in STORE_FAULT mode writes is not 0 (short of the counter's end). -/
theorem wipedToken_ne_zero {failed : Bool} {o : Option Token} (h : ∀ v, o = some v → v ≠ 0 ∧ v.toNat + 16 < 2 ^ 48) :
    wipedToken failed o ≠ 0 := by
  cases o with
  | none => exact (by decide : (1 : Token) ≠ 0)
  | some v =>
    obtain ⟨hne, hlt⟩ := h v rfl
    show (if failed then _ else v) ≠ 0
    split
    · bv_omega
    · exact hne

/-- WIPE in STORE_FAULT mode, from whatever the store holds (R130). -/
theorem State.wipeInFault_sound {y : State} (hy : y.between) (hf : y.footed)
    (hroom : ∀ v, y.store.token.value = some v → v.toNat + 16 < 2 ^ 48) (flags : Option StoreFlags) :
    ¬ (y.wipeInFault flags).inFault ∧ (y.wipeInFault flags).sound := by
  obtain ⟨h1, b1⟩ := State.beside_read .zone hy
  obtain ⟨h2, b2⟩ := State.beside_read .token b1
  obtain ⟨h3, b3⟩ := State.beside_read .nonce b2
  obtain ⟨_, -, -, hzone⟩ := Control.read_main zoneWord y
  obtain ⟨_, -, -, htoken⟩ := Control.read_main tokenWord (zoneWord.read y).1
  rw [State.wipeInFault]
  generalize (zoneWord.read y).2 = zo at hzone
  generalize (zoneWord.read y).1 = y1 at h1 b1 h2 b2 h3 b3 htoken
  generalize (tokenWord.read y1).2 = tko at htoken
  generalize (tokenWord.read y1).1 = y2 at h2 b2 h3 b3
  generalize (nonceWord.read y2).2 = no
  generalize (nonceWord.read y2).1 = y3 at h3 b3
  have hshare : ∀ z, 1 ≤ (ZoneMap.attr (zo.getD ZoneMap.por) z).share := fun z => by
    rcases hzone with ⟨rfl, -⟩ | ⟨⟨map, rfl, hpeek⟩, -⟩
    · exact ZoneMap.por_share z
    · exact hf.zones map z hpeek
  have hcounter : wipedToken y.main.mon.replayFailed tko ≠ 0 := wipedToken_ne_zero fun v hv => by
    rcases htoken with ⟨hnone, -⟩ | ⟨⟨v', hsome, hpeek⟩, -⟩
    · exact absurd (hnone.symm.trans hv) (Option.some_ne_none v).symm
    · obtain rfl := Option.some.inj (hsome.symm.trans hv)
      have hvalue := h1.store.token.symm.trans hpeek
      exact ⟨hf.counter _ hvalue, hroom _ hvalue⟩
  generalize wipedToken y.main.mon.replayFailed tko = tok at hcounter ⊢
  generalize wipedFlags flags tok = fl
  obtain ⟨c, hc⟩ : ∃ c : Commit,
      c = { images := [.zone (zo.getD ZoneMap.por)], token := some tok, nonce := some (no.getD 1), flags := some fl } :=
    ⟨_, rfl⟩
  rw [← hc]
  have hstore := State.commitOver_store b3.uncut b3.canonical c
  have b4 := steady_between.commitOver _ c b3
  have hmain : (y3.commitOver c).main = y3.main := rfl
  generalize y3.commitOver c = y4 at hstore b4 hmain ⊢
  subst hc
  obtain ⟨-, -, hz, ht, -, -⟩ := hstore
  refine State.wipeRest_sound b4.uncut b4.canonical (fun v hv => ?_) (fun map z hm => ?_) ?_ fl
  · rw [ht] at hv
    obtain rfl := Option.some.inj hv
    exact hcounter
  · rw [hz] at hm
    obtain rfl := Option.some.inj hm
    exact hshare z
  · rw [hmain]
    exact h3.cursor (h2.cursor (h1.cursor hf.cursor))

/-- WIPE leaves a sound part in NORMAL mode, whatever the slots hold (R129, R130). -/
theorem State.wipe_sound {y : State} (hy : y.between) (hf : y.footed)
    (hroom : ∀ v, y.store.token.value = some v → v.toNat + 16 < 2 ^ 48) : ¬ y.wipe.inFault ∧ y.wipe.sound := by
  obtain ⟨h1, b1⟩ := State.beside_read .flags hy
  have hf1 := h1.footed hf
  have hroom1 : ∀ v, (flagsWord.read y).1.store.token.value = some v → v.toNat + 16 < 2 ^ 48 := fun v hv =>
    hroom v (h1.store.token.symm.trans hv)
  rw [State.wipe]
  generalize (flagsWord.read y).1 = y1 at b1 hf1 hroom1
  split
  · exact State.wipeInFault_sound b1 hf1 hroom1 none
  next fl _ =>
    split
    · exact State.wipeInFault_sound b1 hf1 hroom1 (some fl)
    · obtain ⟨h2, b2⟩ := State.beside_commit b1 (c := { flags := some { fl with wiping := true } }) rfl rfl
      have hf2 := h2.footed hf1
      exact State.wipeRest_sound b2.uncut b2.canonical hf2.counter hf2.zones hf2.cursor fl

/-- Settles O9: the sweep by its stages, and WIPE, which leaves nothing to disagree. -/
theorem sweepAndWipeMakeTheRecordsSound : Obligations.SweepAndWipeMakeTheRecordsSound := by
  refine ⟨fun s hs hsweeps hrec hmarker => ⟨_, exec_sweeps hsweeps, rfl, sweep_sound hs hsweeps hrec hmarker⟩,
    fun s s1 f hs htaken hrec hcursor hroom => ?_⟩
  have hstore := State.takenTo_store htaken
  have hf : s1.footed := by
    refine ⟨?_, ?_, ?_⟩
    · rw [hstore]
      exact hrec.counter
    · rw [hstore]
      exact hrec.zones
    · rw [State.takenTo_mon htaken]
      exact hcursor
  obtain ⟨hfault, hsound⟩ := State.wipe_sound (State.between_takenTo hs htaken) hf fun v hv => by
    rw [hstore] at hv
    have hlt := hroom v hv
    omega
  exact ⟨_, exec_wipe htaken, hfault, hsound.respond _ _ _⟩

end Sys2Proof.Machine
end

section
/-! PROOFS. What the work on a record in hand does to its queue, its tokens and its results (R8, R25, R46, R52). -/

namespace Sys2Proof.Machine

/-- The pool entry that a result frees. -/
def Out.freed : Out → Option Nat
  | .freeWaiter id _ => some id
  | .notice _ _ => none
  | .insert _ _ _ => none
  | .move _ _ _ => none
  | .remove _ => none

/-- The pool entries that results free, in order. -/
def freedIds (os : List Out) : List Nat := os.filterMap Out.freed

theorem freedIds_append (os os' : List Out) : freedIds (os ++ os') = freedIds os ++ freedIds os' := List.filterMap_append

/-- The result frees a waiter, or its schedule entry of a grant is of a slot of the record area. -/
def Out.usual (o : Out) : Prop := o.beside ∨ ∃ id c, o = .freeWaiter id c

/-- What work on a record in hand has done: it handed over `os`, took from the queue the waiters whose entries it frees,
and issued a token for each of them at most, and `j` besides. -/
structure Bench.worked (b c : Bench) (os : List Out) (j : Nat) : Prop where
  slot    : c.slot = b.slot
  isNew   : c.isNew = b.isNew
  key     : c.body.key = b.body.key
  outs    : c.outs = b.outs ++ os
  usual   : b.slot < 1024 → ∀ o ∈ os, o.usual
  holding : b.body.holding → c.body.holding
  queue   : (b.queue.map Prod.fst).Nodup → (b.queue.map Prod.fst).Perm (c.queue.map Prod.fst ++ freedIds os)
  tokens  : ∃ i, i ≤ (freedIds os).length + j ∧ c.issued = b.issued + i ∧ c.token = tokenNext^[i] b.token ∧
    ∀ g ∈ c.body.grants, g.token ∈ b.body.grants.map Grant.token ∨ ∃ m, m < i ∧ g.token = tokenNext^[m] b.token
  clean   : c.dirty = false → b.dirty = false ∧ c.body = b.body ∧ c.issued = b.issued

section
variable {b c d : Bench} {os os' : List Out} {j j' : Nat}

theorem Bench.worked.refl (b : Bench) : b.worked b [] 0 where
  slot := rfl
  isNew := rfl
  key := rfl
  outs := (List.append_nil _).symm
  usual _ := nofun
  holding := id
  queue _ := by
    rw [show freedIds [] = [] from rfl, List.append_nil]
  tokens := ⟨0, Nat.zero_le _, rfl, rfl, fun _ hg => .inl (List.mem_map_of_mem hg)⟩
  clean h := ⟨h, rfl, rfl⟩

theorem Bench.worked.trans (h : b.worked c os j) (h' : c.worked d os' j') : b.worked d (os ++ os') (j + j') where
  slot := h'.slot.trans h.slot
  isNew := h'.isNew.trans h.isNew
  key := h'.key.trans h.key
  outs := by rw [h'.outs, h.outs, List.append_assoc]
  usual hn := List.forall_mem_append.2 ⟨h.usual hn, h'.usual (by rwa [h.slot])⟩
  holding hb := h'.holding (h.holding hb)
  queue hn := by
    have hfirst := h.queue hn
    have hnodup := (List.nodup_append.1 (hfirst.nodup_iff.1 hn)).1
    have hboth := hfirst.trans ((h'.queue hnodup).append_right (freedIds os))
    rw [freedIds_append]
    refine hboth.trans ?_
    rw [List.append_assoc]
    exact List.perm_append_comm.append_left _
  tokens := by
    obtain ⟨i, hi, hissued, htoken, hgrants⟩ := h.tokens
    obtain ⟨i', hi', hissued', htoken', hgrants'⟩ := h'.tokens
    have hiter : ∀ m, tokenNext^[m] c.token = tokenNext^[m + i] b.token := fun m => by
      rw [htoken, ← Function.iterate_add_apply]
    refine ⟨i' + i, ?_, by rw [hissued', hissued]; omega, htoken'.trans (hiter i'), fun g hg => ?_⟩
    · rw [freedIds_append, List.length_append]
      omega
    · rcases hgrants' g hg with hold | ⟨m, hm, hnew⟩
      · obtain ⟨g', hg', heq⟩ := List.mem_map.1 hold
        rw [← heq]
        rcases hgrants g' hg' with hold | ⟨m, hm, hnew⟩
        · exact .inl hold
        · exact .inr ⟨m, by omega, hnew⟩
      · exact .inr ⟨m + i, by omega, hnew.trans (hiter m)⟩
  clean hd := by
    obtain ⟨hc, hbody, hissued⟩ := h'.clean hd
    obtain ⟨hb, hbody', hissued'⟩ := h.clean hc
    exact ⟨hb, hbody.trans hbody', hissued.trans hissued'⟩

/-! ### The changes of a record in hand -/

/-- Results that free no waiter. -/
theorem Bench.worked_emit (b : Bench) (h : b.slot < 1024 → ∀ o ∈ os, o.beside) (hfreed : freedIds os = []) :
    b.worked (b.emit os) os 0 where
  slot := rfl
  isNew := rfl
  key := rfl
  outs := rfl
  usual hn o ho := .inl (h hn o ho)
  holding := id
  queue _ := by
    rw [hfreed, List.append_nil]
    exact List.Perm.refl _
  tokens := ⟨0, Nat.zero_le _, rfl, rfl, fun _ hg => .inl (List.mem_map_of_mem hg)⟩
  clean h := ⟨h, rfl, rfl⟩

/-- Another grant list with no new token. -/
theorem Bench.worked_setGrants (b : Bench) {gs : List Grant} (hholding : b.body.holding → (b.body.withGrants gs).holding)
    (htokens : ∀ g ∈ gs, g.token ∈ b.body.grants.map Grant.token) : b.worked (b.setGrants gs) [] 0 where
  slot := rfl
  isNew := rfl
  key := rfl
  outs := (List.append_nil _).symm
  usual _ := nofun
  holding := hholding
  queue _ := by
    rw [show freedIds [] = [] from rfl, List.append_nil]
    exact List.Perm.refl _
  tokens := ⟨0, Nat.zero_le _, rfl, rfl, fun g hg => .inl (htokens g hg)⟩
  clean h := Bool.noConfusion h

/-- Waiters leave the queue, each with the results of its leaving. -/
theorem Bench.worked_leave (b : Bench) {q : List (Nat × Waiter)} (h : ∀ o ∈ os, o.usual)
    (hqueue : (b.queue.map Prod.fst).Nodup → (b.queue.map Prod.fst).Perm (q.map Prod.fst ++ freedIds os)) :
    b.worked { b with queue := q, outs := b.outs ++ os } os 0 where
  slot := rfl
  isNew := rfl
  key := rfl
  outs := rfl
  usual _ := h
  holding := id
  queue := hqueue
  tokens := ⟨0, Nat.zero_le _, rfl, rfl, fun _ hg => .inl (List.mem_map_of_mem hg)⟩
  clean h := ⟨h, rfl, rfl⟩

theorem Bench.worked_issue (b : Bench) {now : Tick} {client : Nat} {m : Mode} {term : Term}
    (hadm : b.body.admissible client m) : b.worked (b.issue now client m term)
      [.insert .grantExpiry (.grant b.slot b.token) (tickPlus now term.toNat)] 1 where
  slot := rfl
  isNew := rfl
  key := rfl
  outs := rfl
  usual hn := List.forall_mem_singleton.2 (.inl fun _ _ href => (Ref.grant.inj href).1 ▸ hn)
  holding h := Bench.issue_holding h hadm
  queue _ := by
    show (b.queue.map Prod.fst).Perm (b.queue.map Prod.fst ++ [])
    rw [List.append_nil]
  tokens := by
    refine ⟨1, Nat.le_refl 1, rfl, rfl, List.forall_mem_append.2 ⟨fun _ hg => .inl (List.mem_map_of_mem hg), fun _ hg => .inr
      ⟨0, Nat.one_pos, by rw [List.mem_singleton.1 hg]; rfl⟩⟩⟩
  clean h := Bool.noConfusion h

theorem Bench.worked_changeGrant (b : Bench) (tok : Token) {f : Grant → Grant} (hf : Grant.keepsHolding f)
    (htok : ∀ g, (f g).token = g.token) : b.worked (b.changeGrant tok f) [] 0 := by
  refine b.worked_setGrants (fun h => Bench.changeGrant_holding h tok hf) fun g hg => ?_
  obtain ⟨x, hx, rfl⟩ := List.mem_map.1 hg
  refine List.mem_map.2 ⟨x, hx, ?_⟩
  split
  · exact (htok x).symm
  · rfl

theorem Bench.worked_removeGrant (b : Bench) (g : Grant) : ∃ os, b.worked (b.removeGrant g) os 0 := by
  refine ⟨_, (b.worked_setGrants (gs := b.body.grants.filter fun x => x.token != g.token) (fun h => h.filter _)
    fun x hx => List.mem_map_of_mem (List.mem_of_mem_filter hx)).trans (Bench.worked_emit _ (fun _ o ho => ?_) ?_)⟩
  · split at ho
    · rw [List.mem_singleton.1 ho]
      trivial
    · exact absurd ho List.not_mem_nil
  · split <;> rfl

theorem Bench.worked_expireGrants (b : Bench) (now : Tick) : ∃ os, b.worked (b.expireGrants now) os 0 := by
  by_cases hdue : b.body.grants.filter (Grant.due now) = []
  · rw [Bench.expireGrants_none hdue]
    exact ⟨_, Bench.worked.refl b⟩
  · rw [Bench.expireGrants_due hdue]
    refine ⟨_, (b.worked_setGrants (fun h => h.filter _) fun x hx => List.mem_map_of_mem (List.mem_of_mem_filter hx)).trans
      (Bench.worked_emit _ (fun _ o ho => ?_) ?_)⟩
    · obtain ⟨g, -, ho⟩ := List.mem_flatMap.1 ho
      rcases List.mem_pair.1 ho with rfl | rfl <;> trivial
    · rw [freedIds, List.filterMap_eq_nil_iff]
      intro o ho
      obtain ⟨g, -, ho⟩ := List.mem_flatMap.1 ho
      rcases List.mem_pair.1 ho with rfl | rfl <;> rfl

theorem timeoutOuts_usual {now : Tick} {k : Key} {id : Nat} {w : Waiter} : ∀ o ∈ timeoutOuts now k id w, o.usual := fun o ho => by
  rcases List.mem_cons.1 ho with rfl | ho
  · exact .inr ⟨_, _, rfl⟩
  · rcases List.mem_pair.1 ho with rfl | rfl <;> exact .inl trivial

theorem Bench.worked_timeoutWaiters (b : Bench) (now : Tick) : ∃ os, b.worked (b.timeoutWaiters now) os 0 := by
  refine ⟨_, b.worked_leave (q := b.queue.filter fun p => !p.2.due now)
    (os := (b.queue.filter fun p : Nat × Waiter => p.2.due now).flatMap
      fun p : Nat × Waiter => timeoutOuts now b.body.key p.1 p.2) (fun o ho => ?_) fun _ => ?_⟩
  · obtain ⟨p, -, ho⟩ := List.mem_flatMap.1 ho
    exact timeoutOuts_usual o ho
  · have hfreed : ∀ q : List (Nat × Waiter), freedIds (q.flatMap fun p => timeoutOuts now b.body.key p.1 p.2) = q.map Prod.fst :=
      fun q => by
        induction q with
        | nil => rfl
        | cons p q ih =>
          rw [List.flatMap_cons, freedIds_append, ih]
          rfl
    rw [hfreed, ← List.map_append]
    exact (List.perm_append_comm.trans (List.filter_append_perm _ b.queue)).symm.map _

/-! ### Handoff and the removal of waiters -/

theorem freedIds_head {os : List Out} {id : Nat} (h : freedIds os = [id]) (w : Waiter) (q : List (Nat × Waiter)) :
    (((id, w) :: q).map Prod.fst).Perm (q.map Prod.fst ++ freedIds os) := by
  rw [h]
  exact (List.perm_append_singleton id _).symm

/-- The waiter at the head is granted: its token is paid for by its leaving (R52). -/
theorem Bench.worked_grantWaiter (b : Bench) {now : Tick} (id : Nat) {w : Waiter} {q : List (Nat × Waiter)}
    (hadm : b.body.admits w.client w.mode = true) :
    ∃ os, Bench.worked { b with queue := (id, w) :: q } { b.grantWaiter now id w with queue := q } os 0 := by
  have hleft := Bench.worked_leave { b with queue := (id, w) :: q } (os := [.freeWaiter id w.client, .remove (.waiter id)])
    (List.forall_mem_cons.2 ⟨.inr ⟨id, w.client, rfl⟩, List.forall_mem_singleton.2 (.inl trivial)⟩) fun _ => freedIds_head rfl w q
  have hissued := Bench.worked_issue { b with queue := q, outs := b.outs ++ [.freeWaiter id w.client, .remove (.waiter id)] }
    (now := now) (term := w.term) ((Rec.admits_iff _ _ _).1 hadm)
  have htold := Bench.worked_emit (os := [.notice w.client (grantNotice now .granted .none b.body.key b.token)])
    ((Bench.mk b.slot b.body q b.token b.issued b.dirty b.isNew
      (b.outs ++ [.freeWaiter id w.client, .remove (.waiter id)])).issue now w.client w.mode w.term)
    (fun _ => List.forall_mem_singleton.2 trivial) rfl
  have h := (hleft.trans hissued).trans htold
  refine ⟨_, { h with tokens := ⟨1, Nat.le_refl 1, rfl, rfl, ?_⟩ }⟩
  exact List.forall_mem_append.2 ⟨fun _ hg => .inl (List.mem_map_of_mem hg), fun g hg =>
    .inr ⟨0, Nat.one_pos, by rw [List.mem_singleton.1 hg]; rfl⟩⟩

theorem handoffOver_worked {now : Tick} : ∀ (q : List (Nat × Waiter)) (b : Bench),
    ∃ os, Bench.worked { b with queue := q } (handoffOver now q b) os 0
  | [], b => ⟨[], Bench.worked.refl _⟩
  | (id, w) :: q, b => by
    rw [handoffOver]
    split
    · obtain ⟨os, h⟩ := handoffOver_worked q (b.emit (timeoutOuts now b.body.key id w))
      exact ⟨_, (Bench.worked_leave { b with queue := (id, w) :: q } timeoutOuts_usual fun _ => freedIds_head rfl w q).trans h⟩
    · split
      next hadm =>
        have hgranted : ∃ os, Bench.worked { b with queue := (id, w) :: q } { b.grantWaiter now id w with queue := q } os 0 := by
          exact Bench.worked_grantWaiter b id hadm
        split
        · obtain ⟨os, h⟩ := hgranted
          obtain ⟨os', h'⟩ := handoffOver_worked q (b.grantWaiter now id w)
          exact ⟨_, h.trans h'⟩
        · exact hgranted
      next => exact ⟨[], Bench.worked.refl _⟩

theorem Bench.worked_handoff (b : Bench) (now : Tick) : ∃ os, b.worked (b.handoff now) os 0 := handoffOver_worked b.queue b

theorem Bench.worked_lazyExpiry (b : Bench) (now : Tick) : ∃ os, b.worked (b.lazyExpiry now) os 0 := by
  obtain ⟨os, h⟩ := b.worked_expireGrants now
  obtain ⟨os', h'⟩ := (b.expireGrants now).worked_timeoutWaiters now
  rw [Bench.lazyExpiry]
  split
  · obtain ⟨os'', h''⟩ := ((b.expireGrants now).timeoutWaiters now).worked_handoff now
    exact ⟨_, (h.trans h').trans h''⟩
  · exact ⟨_, h.trans h'⟩

theorem Bench.worked_removeWaiter {b : Bench} {id : Nat} (hmem : id ∈ b.queue.map Prod.fst) (client : Nat) :
    ∃ os, b.worked (b.removeWaiter id client) os 0 := by
  refine ⟨_, b.worked_leave (os := [.freeWaiter id client, .remove (.waiter id)]) (fun o ho => ?_) fun hn => ?_⟩
  · rcases List.mem_pair.1 ho with rfl | rfl
    · exact .inr ⟨_, _, rfl⟩
    · exact .inl trivial
  · have hfilter : (b.queue.filter fun p => p.1 != id).map Prod.fst = (b.queue.map Prod.fst).erase id := by
      rw [hn.erase_eq_filter, List.filter_map]
      rfl
    rw [hfilter]
    exact (List.perm_cons_erase hmem).trans (List.perm_append_singleton id _).symm

theorem Bench.worked_cancelWait {b : Bench} {id : Nat} (hmem : id ∈ b.queue.map Prod.fst) (now : Tick) (client : Nat) :
    ∃ os, b.worked (b.cancelWait now id client) os 0 := by
  obtain ⟨os, h⟩ := Bench.worked_removeWaiter hmem client
  rw [Bench.cancelWait]
  split
  · obtain ⟨os', h'⟩ := (b.removeWaiter id client).worked_handoff now
    exact ⟨_, h.trans h'⟩
  · exact ⟨_, h⟩

theorem Bench.worked_dropWaiterOf (b : Bench) (now : Tick) (client : Nat) : ∃ os, b.worked (b.dropWaiterOf now client) os 0 := by
  unfold Bench.dropWaiterOf
  cases hw : b.waiterOf client with
  | none => exact ⟨_, Bench.worked.refl b⟩
  | some p => exact Bench.worked_cancelWait (List.mem_map_of_mem (List.mem_of_find?_eq_some hw)) now client

/-! ### The work of the commands and of a settle -/

theorem Bench.worked_forceRelease (b : Bench) (now : Tick) (g : Grant) : ∃ os, b.worked (b.forceRelease now g) os 0 := by
  obtain ⟨os, h⟩ := b.worked_removeGrant g
  have h' := (b.removeGrant g).worked_emit (os := [.notice g.client (grantNotice now .revoked .force b.body.key g.token)])
    (fun _ => List.forall_mem_singleton.2 trivial) rfl
  rw [Bench.forceRelease]
  generalize Bench.emit (b.removeGrant g) _ = c at h' ⊢
  obtain ⟨os'', h''⟩ := c.worked_handoff now
  exact ⟨_, (h.trans h').trans h''⟩

theorem Bench.worked_settleRelease (b : Bench) (now : Tick) (client : Nat) : ∃ os, b.worked (b.settleRelease now client) os 0 := by
  unfold Bench.settleRelease
  split
  next g _ =>
    obtain ⟨os, h⟩ := b.worked_removeGrant g
    obtain ⟨os', h'⟩ := (b.removeGrant g).worked_dropWaiterOf now client
    obtain ⟨os'', h''⟩ := ((b.removeGrant g).dropWaiterOf now client).worked_handoff now
    exact ⟨_, (h.trans h').trans h''⟩
  next => exact b.worked_dropWaiterOf now client

theorem Bench.worked_settleOrphan (b : Bench) (now : Tick) (client : Nat) : ∃ os, b.worked (b.settleOrphan now client) os 0 := by
  unfold Bench.settleOrphan
  split
  next g _ =>
    split
    · have h := b.worked_changeGrant g.token (f := fun x => { x with gstate := .orphaned }) (fun _ => ⟨rfl, .inl rfl⟩)
        fun _ => rfl
      generalize b.changeGrant g.token _ = c at h ⊢
      have h' := c.worked_emit (os := [.remove (.grant b.slot g.token)]) (fun _ => List.forall_mem_singleton.2 trivial) rfl
      generalize c.emit _ = d at h' ⊢
      obtain ⟨os'', h''⟩ := d.worked_dropWaiterOf now client
      exact ⟨_, (h.trans h').trans h''⟩
    · exact b.worked_dropWaiterOf now client
  next => exact b.worked_dropWaiterOf now client

theorem Bench.worked_revived (b : Bench) (now : Tick) (tok : Token) {o : Out} (ho : b.slot < 1024 → o.beside)
    (hfreed : o.freed = none) : ∃ os, b.worked ((b.changeGrant tok (Grant.revived now)).emit [o]) os 0 := by
  refine ⟨_, (b.worked_changeGrant tok (Grant.keepsHolding_revived now) fun _ => rfl).trans
    (Bench.worked_emit _ (fun hn => List.forall_mem_singleton.2 (ho hn)) ?_)⟩
  rw [freedIds, List.filterMap_cons_none hfreed]
  rfl

theorem Bench.worked_settleRevive (b : Bench) (now : Tick) (client : Nat) : ∃ os, b.worked (b.settleRevive now client) os 0 := by
  unfold Bench.settleRevive
  split
  next g _ =>
    split
    · exact b.worked_revived now g.token (fun hn _ _ href => (Ref.grant.inj href).1 ▸ hn) rfl
    · exact ⟨_, Bench.worked.refl b⟩
  next => exact ⟨_, Bench.worked.refl b⟩

theorem Bench.worked_settleReviveDue (b : Bench) (now : Tick) (client : Nat) :
    ∃ os, b.worked (b.settleReviveDue now client) os 0 := by
  obtain ⟨os, h⟩ := b.worked_dropWaiterOf now client
  unfold Bench.settleReviveDue
  dsimp only
  have hslot := h.slot
  generalize b.dropWaiterOf now client = c at h hslot ⊢
  split
  next g _ =>
    obtain ⟨os', h'⟩ := c.worked_revived now g.token (o := .move .grantExpiry (.grant b.slot g.token) (tickPlus now g.term.toNat))
      (fun hn _ _ href => (Ref.grant.inj href).1 ▸ hslot ▸ hn) rfl
    exact ⟨_, h.trans h'⟩
  next => exact ⟨_, h⟩

theorem Bench.worked_settleWork (b : Bench) (form : SettleForm) (now : Tick) (client : Nat) :
    ∃ os, b.worked (b.settleWork form now client) os 0 := by
  cases form with
  | release => exact b.worked_settleRelease now client
  | orphan => exact b.worked_settleOrphan now client
  | revive => exact b.worked_settleRevive now client
  | reviveDue => exact b.worked_settleReviveDue now client

end

end Sys2Proof.Machine
end

section
/-! PROOFS. The close of records in hand keeps the agreement of records, sets, index and queues (R5, R9, R15, R53). -/

namespace Sys2Proof.Machine

/-! ### The set of FREE slots -/

theorem State.isFree_markFree_ne (s : State) {n m : Nat} (h : m ≠ n) (b : Bool) : (s.markFree n b).isFree m = s.isFree m := by
  cases b with
  | true =>
    by_cases hm : m < 1024
    · rw [State.isFree_markFree hm, decide_eq_false h, Bool.or_false]
    · rw [State.isFree, State.isFree, BitVec.getLsbD_of_ge _ _ (Nat.le_of_not_lt hm), BitVec.getLsbD_of_ge _ _ (Nat.le_of_not_lt hm)]
  | false =>
    have hbit : ((1 : BitVec 1024) <<< n).getLsbD m = false := by
      simp only [BitVec.getLsbD_shiftLeft]
      rcases Nat.lt_or_gt_of_ne h with hlt | hgt
      · simp [hlt]
      · simp [Nat.sub_ne_zero_of_lt hgt]
    show (s.main.free &&& ~~~((1 : BitVec 1024) <<< n)).getLsbD m = s.main.free.getLsbD m
    rw [BitVec.getLsbD_and, BitVec.getLsbD_not, hbit]
    by_cases hm : m < 1024
    · simp [hm]
    · rw [BitVec.getLsbD_of_ge _ _ (Nat.le_of_not_lt hm), Bool.false_and]

theorem State.lookup_unindex {s : State} (hs : s.between) (k q : Key) :
    (s.unindex k).lookup q = if k = q then none else s.lookup q := by
  show Tab.find? (Tab.del s.main.index k.toNat) q.toNat = _
  rw [Tab.find?_del (State.index_rising hs)]
  by_cases h : k = q
  · rw [if_pos h, if_pos (congrArg BitVec.toNat h)]
  · rw [if_neg h, if_neg fun hn => h (BitVec.eq_of_toNat_eq hn)]
    rfl

theorem State.queueOf_setQueueOf {s : State} (hs : s.between) (n m : Nat) (q : List Nat) :
    (s.setQueueOf n q).queueOf m = if n = m then q else s.queueOf m :=
  Tab.get_set (Tab.rising_of_wf (State.between_queues hs)) n m q

/-! ### The record that a commit writes -/

/-- The four grant places hold the first four grants of a record. -/
theorem Rec.image_record_take {r : Rec} (h : ∀ g ∈ r.grants, g.token ≠ 0) :
    r.image.record = { r with grants := r.grants.take 4 } := by
  have hfits : { r with grants := r.grants.take 4 }.fits :=
    ⟨List.length_take_le 4 r.grants, fun g hg => h g (List.mem_of_mem_take hg)⟩
  have himage : r.image = { r with grants := r.grants.take 4 }.image := by
    simp [Rec.image]
  rw [himage, Rec.image_record hfits]

theorem Rec.holding.take {r : Rec} (h : r.holding) : { r with grants := r.grants.take 4 }.holding where
  alone g hg hm := by
    have hall := h.alone g (List.mem_of_mem_take hg) hm
    show r.grants.take 4 = [g]
    rw [hall]
    rfl
  room hne := by
    have hsome : r.grants ≠ [] := fun hnil => hne (by
      show r.grants.take 4 = []
      rw [hnil, List.take_nil])
    exact (List.length_take_le' 4 r.grants).trans (h.room hsome)
  clients := h.clients.sublist ((List.take_sublist 4 r.grants).map _)
  summary := by
    show r.state = summaryOf (r.grants.take 4)
    rw [h.summary]
    cases r.grants <;> rfl
  limit := h.limit

theorem Rec.holding.advance {r : Rec} (h : r.holding) (gen : Gen) : { r with gen := gen }.holding :=
  ⟨h.alone, h.room, h.clients, h.summary, h.limit⟩

/-- What the close of a record in hand leaves in the record area, the images straight at their targets (R15, R134). -/
def Bench.put (b : Bench) (st : Store) : Store := b.owed.foldl Store.putImage st

theorem Bench.put_canonical (b : Bench) {st : Store} (h : st.canonical = true) : (b.put st).canonical = true := by
  have hall : ∀ (l : List Image) {st : Store}, st.canonical = true → (l.foldl Store.putImage st).canonical = true := fun l => by
    induction l with
    | nil => exact id
    | cons i l ih => exact fun h => ih (Store.canonical_putImage h i)
  exact hall _ h

theorem Bench.put_cases (b : Bench) {st : Store} (h : st.canonical = true) :
    (∀ m, m ≠ b.slot → ((b.put st).slot m).val = (st.slot m).val) ∧
    (b.toRetire = true → ((b.put st).slot b.slot).val.ident = IdWord.free) ∧
    (b.toRetire = false → b.dirty = true → ((b.put st).slot b.slot).val = b.next.image) ∧
    (b.toRetire = false → b.dirty = false → b.put st = st) := by
  rw [Bench.put, Bench.owed]
  split
  next hret =>
    refine ⟨fun m hm => ?_, fun _ => ?_, fun hno => ?_, fun hno => ?_⟩
    · exact congrArg Block.val (Store.slot_setSlot_ne st (Ne.symm hm) _)
    · show ((st.setSlot b.slot _).slot b.slot).val.ident = _
      rw [Store.slot_setSlot h, if_pos rfl]
    · rw [hret] at hno
      cases hno
    · rw [hret] at hno
      cases hno
  next hret =>
    split
    next hdirty =>
      refine ⟨fun m hm => ?_, fun hyes => absurd hyes hret, fun _ _ => ?_, fun _ hno => ?_⟩
      · exact congrArg Block.val (Store.slot_setSlot_ne st (Ne.symm hm) _)
      · show ((st.setSlot b.slot _).slot b.slot).val = _
        rw [Store.slot_setSlot h, if_pos rfl]
      · rw [hdirty] at hno
        cases hno
    next hdirty => exact ⟨fun _ _ => rfl, fun hyes => absurd hyes hret, fun _ hyes => absurd hyes hdirty, fun _ _ => rfl⟩

/-! ### A record in hand -/

/-- A record in hand that may be closed: `fs` are the pool entries of the waiters that have left its queue, and its tokens
are below the counter as the take has it, where the counter can be read. -/
structure State.handling (s : State) (b : Bench) (fs : List Nat) : Prop where
  slot    : b.slot < 1024
  place   : (b.isNew = true ∧ s.isFree b.slot = true ∧ s.lookup b.body.key = none) ∨
    (b.isNew = false ∧ s.inHand b.slot ∧ (s.store.slot b.slot).val.ident.key = some b.body.key)
  holding : b.body.holding
  nonzero : ∀ g ∈ b.body.grants, g.token ≠ 0
  tokens  : s.counter ≠ none → ∀ g ∈ b.body.grants, g.token.toNat < b.token.toNat
  queue   : (s.queueOf b.slot).Perm (b.queue.map Prod.fst ++ fs)
  clean   : b.dirty = false → b.isNew = false ∧ (b.toRetire = false → b.body = s.recordOf b.slot) ∧ b.issued = 0

/-- The close of a record in hand, the images straight at their targets. -/
def State.closeIn (x : State) (b : Bench) : State := (x.settleIn b).setStore (b.put x.store)

section
variable {x y : State} {b : Bench} {fs out : List Nat}

theorem State.between_closeIn (hx : x.between) (b : Bench) : (x.closeIn b).between where
  canonical := b.put_canonical hx.canonical
  tables := (steady_between.settleIn x b hx).tables
  uncut := (steady_between.settleIn x b hx).uncut

theorem State.requeue_queueOf (hx : x.between) (b : Bench) (m : Nat) :
    (x.requeue b).queueOf m = if b.slot = m then b.queue.map Prod.fst else x.queueOf m := by
  rw [State.requeue_eq hx, State.queueOf_setQueueOf hx]

theorem State.closeIn_queueOf (hx : x.between) (b : Bench) (m : Nat) :
    (x.closeIn b).queueOf m = if b.slot = m then b.queue.map Prod.fst else x.queueOf m := by
  rw [← State.requeue_queueOf hx]
  show (x.settleIn b).queueOf m = _
  rw [State.settleIn]
  split
  · rfl
  · split <;> rfl

theorem State.closeIn_lookup (hx : x.between) (b : Bench) (q : Key) :
    (x.closeIn b).lookup q = if b.toRetire = true then (if b.body.key = q then none else x.lookup q)
      else if b.dirty = true then
        (if b.body.key = q then some { slot := b.slot, quarantined := false, holders := b.body.grants.map fun g => (g.client, g.token) }
          else x.lookup q)
      else x.lookup q := by
  have hrequeue : (x.requeue b).between ∧ (x.requeue b).lookup q = x.lookup q := by
    rw [State.requeue_eq hx]
    exact ⟨steady_between.setQueueOf x _ _ hx, rfl⟩
  show (x.settleIn b).lookup q = _
  rw [State.settleIn]
  split
  · show ((x.requeue b).unindex b.body.key).lookup q = _
    rw [State.lookup_unindex hrequeue.1, hrequeue.2]
  · split
    · show ((x.requeue b).indexRecord b.slot b.body).lookup q = _
      rw [State.indexRecord, State.lookup_putIndex, hrequeue.2]
    · exact hrequeue.2

theorem State.closeIn_isFree (hx : x.between) (b : Bench) (m : Nat) : (m ≠ b.slot → (x.closeIn b).isFree m = x.isFree m) ∧
    (b.slot < 1024 → b.toRetire = true → (x.closeIn b).isFree b.slot = true) ∧
    (b.toRetire = false → b.dirty = true → (x.closeIn b).isFree b.slot = false) ∧
    (b.toRetire = false → b.dirty = false → (x.closeIn b).isFree b.slot = x.isFree b.slot) := by
  have hrequeue : ∀ m, (x.requeue b).isFree m = x.isFree m := fun m => by
    rw [State.requeue_eq hx]
    rfl
  show (m ≠ b.slot → (x.settleIn b).isFree m = x.isFree m) ∧ (_ → _ → (x.settleIn b).isFree b.slot = true) ∧
    (_ → _ → (x.settleIn b).isFree b.slot = false) ∧ (_ → _ → (x.settleIn b).isFree b.slot = _)
  rw [State.settleIn]
  split
  next hret =>
    refine ⟨fun hm => ?_, fun hn _ => State.isFree_markFree_self _ hn, fun hno => ?_, fun hno => ?_⟩
    · exact (State.isFree_markFree_ne ((x.requeue b).unindex b.body.key) hm true).trans (hrequeue m)
    · rw [hret] at hno
      cases hno
    · rw [hret] at hno
      cases hno
  next hret =>
    split
    next hdirty =>
      refine ⟨fun hm => ?_, fun _ hyes => absurd hyes hret, fun _ _ => State.isFree_markFree_false _ _, fun _ hno => ?_⟩
      · exact (State.isFree_markFree_ne ((x.requeue b).indexRecord b.slot b.body) hm false).trans (hrequeue m)
      · rw [hdirty] at hno
        cases hno
    next hdirty =>
      exact ⟨fun _ => hrequeue m, fun _ hyes => absurd hyes hret, fun _ hyes => absurd hyes hdirty, fun _ _ => hrequeue _⟩

/-- What the close leaves of the main domain beside the index, the sets and the queues. -/
theorem State.closeIn_rest (hx : x.between) (b : Bench) : (x.closeIn b).main.quar = x.main.quar ∧
    (x.closeIn b).main.pool = x.main.pool ∧ (x.closeIn b).main.sched = x.main.sched ∧
    (x.closeIn b).main.mon = x.main.mon := by
  show (x.settleIn b).main.quar = _ ∧ (x.settleIn b).main.pool = _ ∧ (x.settleIn b).main.sched = _ ∧ (x.settleIn b).main.mon = _
  rw [State.settleIn, State.requeue_eq hx]
  split
  · exact ⟨rfl, rfl, rfl, rfl⟩
  · split <;> exact ⟨rfl, rfl, rfl, rfl⟩

theorem State.closeIn_sameBut (hx : x.between) (b : Bench) : x.sameBut (x.closeIn b) b.slot (some b.body.key) := by
  obtain ⟨hquar, hpool, -, -⟩ := State.closeIn_rest hx b
  refine ⟨(b.put_cases hx.canonical).1, fun m hm => (State.closeIn_isFree hx b m).1 hm, fun m _ => by rw [hquar], fun m hm => ?_,
    fun q hq => ?_, fun id => by rw [State.waiter, hpool]; rfl⟩
  · rw [State.closeIn_queueOf hx, if_neg (Ne.symm hm)]
  · have hne : b.body.key ≠ q := fun h => hq (congrArg some h)
    rw [State.closeIn_lookup hx, if_neg hne, if_neg hne]
    split
    · rfl
    · split <;> rfl

/-! ### What the index names -/

theorem State.tidy.namesOnly_held {bound : Option Nat} (h : x.tidy (· < 1024) out bound) {n : Nat} {k : Key} (hin : x.inHand n)
    (hkey : (x.store.slot n).val.ident.key = some k) : x.namesOnly n (some k) := fun q e he => by
  obtain ⟨hquar, hheld⟩ := h.index q e he
  constructor
  · rintro rfl
    cases hq : e.quarantined with
    | true => exact absurd (hin.2.2.symm.trans (hquar hq)) (Option.some_ne_none _).symm
    | false => exact hkey.symm.trans (hheld hq).2.2
  · intro hk
    obtain ⟨-, k', hd, hkey', hlook⟩ := h.held n hin.1 hin
    obtain rfl := Option.some.inj (hkey.symm.trans hkey')
    obtain rfl := Option.some.inj hk
    obtain rfl := Option.some.inj (he.symm.trans hlook)
    rfl

theorem State.tidy.namesOnly_free {bound : Option Nat} (h : x.tidy (· < 1024) out bound) {n : Nat} {key : Option Key}
    (hfree : x.isFree n = true) (habsent : ∀ k, key = some k → x.lookup k = none) : x.namesOnly n key := fun q e he => by
  refine iff_of_false ?_ fun hk => absurd ((habsent q hk).symm.trans he) (Option.some_ne_none e).symm
  rintro rfl
  obtain ⟨hquar, hheld⟩ := h.index q e he
  cases hq : e.quarantined with
  | true => exact Bool.noConfusion (hfree.symm.trans (h.quar _ _ (hquar hq)).2.1)
  | false =>
    obtain ⟨_, ⟨_, htaken, _⟩, _⟩ := hheld hq
    exact Bool.noConfusion (hfree.symm.trans htaken)

theorem State.tidy.quar_free {bound : Option Nat} (h : x.tidy (· < 1024) out bound) {n : Nat} (hfree : x.isFree n = true) :
    Tab.find? x.main.quar n = none := by
  cases hq : Tab.find? x.main.quar n with
  | none => rfl
  | some key => exact Bool.noConfusion (hfree.symm.trans (h.quar n key hq).2.1)

theorem State.handling.namesOnly {bound : Option Nat} (h : x.tidy (· < 1024) out bound) (hp : x.handling b fs) :
    x.namesOnly b.slot (some b.body.key) := by
  rcases hp.place with ⟨-, hfree, habsent⟩ | ⟨-, hin, hkey⟩
  · exact h.namesOnly_free hfree fun k hk => Option.some.inj hk ▸ habsent
  · exact h.namesOnly_held hin hkey

theorem State.handling.quar {bound : Option Nat} (h : x.tidy (· < 1024) out bound) (hp : x.handling b fs) :
    Tab.find? x.main.quar b.slot = none := by
  rcases hp.place with ⟨-, hfree, -⟩ | ⟨-, hin, -⟩
  · exact h.quar_free hfree
  · exact hin.2.2

/-! ### The close of one record -/

/-- The record in hand stands in its slot, or the slot is FREE. -/
theorem State.handling.settledAs {bound bound' : Option Nat} (hx : x.between) (h : x.tidy (· < 1024) out bound)
    (hp : x.handling b fs) (htokens : ∀ t', bound' = some t' → ∀ g ∈ b.body.grants, g.token.toNat < t') :
    (x.closeIn b).settledAs b.slot (some b.body.key) bound' := by
  obtain ⟨-, hfreed, hwritten, hkept⟩ := b.put_cases hx.canonical
  obtain ⟨-, hfreeyes, hfreeno, hfreekept⟩ := State.closeIn_isFree hx b b.slot
  have hlookup := State.closeIn_lookup hx b
  have hquar : Tab.find? (x.closeIn b).main.quar b.slot = none := by
    rw [(State.closeIn_rest hx b).1]
    exact hp.quar h
  have hqueue := State.closeIn_queueOf hx b b.slot
  rw [if_pos rfl] at hqueue
  cases hret : b.toRetire with
  | true =>
    refine .inl ⟨hfreeyes hp.slot hret, congrArg IdWord.inUse (hfreed hret), hquar, fun k hk => ?_, ?_⟩
    · obtain rfl := Option.some.inj hk
      rw [hlookup, if_pos hret, if_pos rfl]
    · have hempty : b.queue = [] := by
        simp only [Bench.toRetire, Bool.and_eq_true, List.isEmpty_iff] at hret
        exact hret.2
      rw [hqueue, hempty]
      rfl
  | false =>
    have hret' : ¬ b.toRetire = true := by rw [hret]; exact Bool.false_ne_true
    cases hdirty : b.dirty with
    | true =>
      have hval : ((x.closeIn b).store.slot b.slot).val = b.next.image := hwritten hret hdirty
      have hrec : b.next.image.record = { b.next with grants := b.next.grants.take 4 } := Rec.image_record_take hp.nonzero
      refine .inr (.inr ⟨hfreeno hret hdirty, hquar, ?_, ?_, fun t' ht' g hg => ?_, b.body.key,
        b.body.grants.map fun g => (g.client, g.token), rfl, ?_, ?_⟩)
      · rw [hval]
        exact Rec.image_holdsRecord (r := b.next) hp.holding.summary
      · rw [hval, hrec]
        exact (hp.holding.advance _).take
      · rw [hval, hrec] at hg
        exact htokens t' ht' g (List.mem_of_mem_take hg)
      · rw [hval]
        rfl
      · rw [hlookup, if_neg hret', if_pos hdirty, if_pos rfl]
    | false =>
      obtain ⟨hold, hbody, -⟩ := hp.clean hdirty
      rcases hp.place with ⟨hnew, -⟩ | ⟨-, hin, hkey⟩
      · rw [hnew] at hold
        cases hold
      · obtain ⟨hholds, k, hd, hkey', hlook⟩ := h.held b.slot hin.1 hin
        obtain rfl := Option.some.inj (hkey.symm.trans hkey')
        have hstore : (x.closeIn b).store = x.store := hkept hret hdirty
        have hsame : (x.store.slot b.slot).val.record = b.body := (hbody hret).symm
        refine .inr (.inr ⟨(hfreekept hret hdirty).trans hin.2.1, hquar, ?_, ?_, fun t' ht' g hg => ?_, _, hd, rfl, ?_, ?_⟩)
        · rw [hstore]
          exact hholds
        · rw [hstore, hsame]
          exact hp.holding
        · rw [hstore, hsame] at hg
          exact htokens t' ht' g hg
        · rw [hstore]
          exact hkey
        · rw [hlookup, if_neg hret', if_neg (by rw [hdirty]; exact Bool.false_ne_true)]
          exact hlook

/-- The close of a record in hand keeps the agreement; its waiters that left are out of their queue. -/
theorem State.tidy.closeIn {bound bound' : Option Nat} (hx : x.between) (h : x.tidy (· < 1024) out bound)
    (hp : x.handling b fs) (htokens : ∀ t', bound' = some t' → ∀ g ∈ b.body.grants, g.token.toNat < t')
    (hbound : ∀ t', bound' = some t' → ∃ t0, bound = some t0 ∧ t0 ≤ t') :
    (x.closeIn b).tidy (· < 1024) (out ++ fs) bound' := by
  obtain ⟨-, -, hsched, -⟩ := State.closeIn_rest hx b
  have hqueue := State.closeIn_queueOf hx b b.slot
  rw [if_pos rfl] at hqueue
  have hnodup := hp.queue.nodup_iff.1 (h.queues b.slot).1
  have hmem : ∀ id, id ∈ x.queueOf b.slot ↔ id ∈ b.queue.map Prod.fst ∨ id ∈ fs := fun id =>
    hp.queue.mem_iff.trans List.mem_append
  have hafter := h.change hp.slot (State.closeIn_sameBut hx b) (hp.namesOnly h) (hp.settledAs hx h htokens) hbound
    (fun e he => ?range) (by rw [hsched]; exact h.sched) (gone := fs) (by rw [hqueue]; exact (List.nodup_append.1 hnodup).1)
    (fun id hid => ?kept) (fun id hid => by rw [hqueue]; exact (hmem id).1 hid) (fun id hid => (hmem id).2 (.inr hid))
  case kept =>
    rw [hqueue] at hid
    exact ⟨(hmem id).2 (.inl hid), fun hfs => (List.nodup_append.1 hnodup).2.2 id hid id hfs rfl⟩
  case range =>
    change e ∈ (x.settleIn b).main.index at he
    rw [State.settleIn, State.requeue_eq hx] at he
    split at he
    · exact h.range e (Tab.mem_del he)
    · split at he
      · exact State.range_putIndex h.range b.body.key _ e he
      · exact h.range e he
  have hseen : (fun m => m < 1024 ∨ m = b.slot) = (· < 1024) := funext fun m =>
    propext ⟨fun hm => hm.elim id fun heq => heq ▸ hp.slot, .inl⟩
  rw [hseen] at hafter
  exact hafter

end

end Sys2Proof.Machine
end

section
/-! PROOFS. What a take leads to: where it goes to its end, or is ended by a lost control word (R136). -/

namespace Sys2Proof.Machine

/-- A lost control word has ended the take; a WIPE that goes on may still take its course. -/
structure State.halted (s : State) : Prop where
  fault   : s.inFault
  between : s.between
  footed  : s.footed
  room    : ∀ v, s.store.token.value = some v → v.toNat + 16 < 2 ^ 48

/-- Where a take goes to its end it answers as `Q` says; where it is ended the part is in STORE_FAULT mode. -/
def Take.leads {α : Type} (t : Take α) (s : State) (Q : α → State → Prop) : Prop :=
  match t s with
  | .ok a x => Q a x
  | .error _ x => x.halted

section
variable {α β : Type} {s : State} {Q : α → State → Prop} {R : β → State → Prop}

theorem Take.leads.mono {t : Take α} {Q' : α → State → Prop} (h : t.leads s Q) (himp : ∀ a x, Q a x → Q' a x) : t.leads s Q' := by
  rw [Take.leads] at h ⊢
  cases ht : t s with
  | ok a x => rw [ht] at h; exact himp a x h
  | error e x => rw [ht] at h; exact h

theorem Take.leads_pure {a : α} (h : Q a s) : (pure a : Take α).leads s Q := h

theorem Take.leads_modify {g : State → State} {Q : PUnit → State → Prop} (h : Q ⟨⟩ (g s)) : (modify g : Take PUnit).leads s Q := h

theorem Take.leads_set {x : State} {Q : PUnit → State → Prop} (h : Q ⟨⟩ x) : (set x : Take PUnit).leads s Q := h

theorem Take.leads_bind {t : Take α} {g : α → Take β} (h : t.leads s fun a x => (g a).leads x R) : (t >>= g).leads s R := by
  rw [Take.leads] at h ⊢
  rw [Take.run_bind]
  cases ht : t s with
  | ok a x => rw [ht] at h; exact h
  | error e x => rw [ht] at h; exact h

theorem Take.leads_get {g : State → Take β} (h : (g s).leads s R) : (get >>= g).leads s R := Take.leads_bind h

theorem Take.leads_ite {c : Prop} [Decidable c] {t u : Take α} (ht : c → t.leads s Q) (hu : ¬ c → u.leads s Q) :
    (if c then t else u).leads s Q := by
  split
  next h => exact ht h
  next h => exact hu h

theorem Take.leads_discard {t : Take α} {Q : PUnit → State → Prop} (h : t.leads s fun _ x => Q ⟨⟩ x) :
    (discard t : Take PUnit).leads s Q := by
  rw [Take.leads] at h ⊢
  rw [Take.run_discard]
  cases ht : t s with
  | ok a x => rw [ht] at h; exact h
  | error e x => rw [ht] at h; exact h

/-- A take that only adds to how it is ended. -/
theorem Take.leads_rethrow {t : Take α} {g : State → State} (h : t.leads s Q) (hg : ∀ x, x.halted → (g x).halted) :
    (tryCatch t fun e => do
      modify g
      throw e).leads s Q := by
  rw [Take.leads] at h ⊢
  rw [Take.run_tryCatch]
  cases ht : t s with
  | ok a x => rw [ht] at h; exact h
  | error e x => rw [ht] at h; exact hg x h

theorem Take.leads_run {t : Take Unit} {P : State → Prop} (h : t.leads s fun _ x => P x) : P (s.run t) ∨ (s.run t).inFault := by
  rw [Take.leads] at h
  rw [State.run]
  cases ht : t s with
  | ok a x => rw [ht] at h; exact .inl h
  | error e x => rw [ht] at h; exact .inr h.fault

end

/-! ### Room for tokens -/

/-- The waiters in the pool whose entry is not about to be freed. -/
def State.waiting (s : State) (out : List Nat) : Nat :=
  ((Finset.range 128).filter fun id => (s.waiter id).isSome = true ∧ id ∉ out).card

/-- Every waiter may still be granted, and `k` tokens more be issued, short of the counter's end (log 6). -/
def State.roomFor (s : State) (tok : Token) (out : List Nat) (k : Nat) : Prop := tok.toNat + s.waiting out + k + 16 < 2 ^ 48

theorem State.waiting_le (s : State) (out : List Nat) : s.waiting out ≤ 128 :=
  (Finset.card_filter_le _ _).trans (Finset.card_range 128).le

theorem State.waiting_append {s : State} {out fs : List Nat} (hnodup : fs.Nodup)
    (hfs : ∀ id ∈ fs, id < 128 ∧ (s.waiter id).isSome = true ∧ id ∉ out) :
    s.waiting (out ++ fs) + fs.length = s.waiting out := by
  have hsub : fs.toFinset ⊆ (Finset.range 128).filter fun id => (s.waiter id).isSome = true ∧ id ∉ out := fun id hid => by
    obtain ⟨hlt, hsome, hnot⟩ := hfs id (List.mem_toFinset.1 hid)
    exact Finset.mem_filter.2 ⟨Finset.mem_range.2 hlt, hsome, hnot⟩
  have hsplit : ((Finset.range 128).filter fun id => (s.waiter id).isSome = true ∧ id ∉ out ++ fs) =
      ((Finset.range 128).filter fun id => (s.waiter id).isSome = true ∧ id ∉ out) \ fs.toFinset := by
    ext id
    simp only [Finset.mem_filter, Finset.mem_range, Finset.mem_sdiff, List.mem_toFinset, List.mem_append, not_or, and_assoc]
  rw [State.waiting, hsplit, ← List.toFinset_card_of_nodup hnodup]
  exact Finset.card_sdiff_add_card_eq_card hsub

theorem State.waiting_congr {s x : State} {out out' : List Nat}
    (h : ∀ id, (x.waiter id).isSome = true → id ∉ out' → (s.waiter id).isSome = true ∧ id ∉ out) : x.waiting out' ≤ s.waiting out := by
  refine Finset.card_le_card fun id hid => ?_
  obtain ⟨hlt, hsome, hnot⟩ := Finset.mem_filter.1 hid
  exact Finset.mem_filter.2 ⟨hlt, h id hsome hnot⟩

theorem State.nextToken_of_value {s : State} {v : Token} (h : s.store.token.value = some v) : s.nextToken = v := by
  have hpeek : tokenWord.peek s = some v := h
  rw [State.nextToken, hpeek]
  rfl

theorem State.nextToken_of_lost {s : State} (h : s.store.token.value = none) : s.nextToken = 1 := by
  have hpeek : tokenWord.peek s = none := h
  rw [State.nextToken, hpeek]
  rfl

/-! ### A take on its way -/

/-- A take is on its way in NORMAL mode: the agreement holds but for the waiters `out`, which are out of their queues and not
yet out of the pool, and there is room for their tokens and `k` more. -/
structure State.orderly (s : State) (out : List Nat) (k : Nat) : Prop where
  between : s.between
  normal  : ¬ s.inFault
  footed  : s.footed
  tidy    : s.tidy (· < 1024) out s.counter
  room    : s.roomFor s.nextToken out k

section
variable {s x : State} {out : List Nat} {k : Nat}

theorem State.orderly.nextToken_ne_zero (h : s.orderly out k) : s.nextToken ≠ 0 := by
  cases hv : s.store.token.value with
  | none =>
    rw [State.nextToken_of_lost hv]
    decide
  | some v =>
    rw [State.nextToken_of_value hv]
    exact h.footed.counter v hv

/-- The state that a lost control word leaves. -/
theorem State.orderly.halted (h : s.orderly out k) (hb : s.beside x) (hx : x.between) (hf : x.inFault) : x.halted where
  fault := hf
  between := hx
  footed := hb.footed h.footed
  room v hv := by
    have hroom := h.room
    rw [State.roomFor, State.nextToken_of_value (hb.store.token.symm.trans hv)] at hroom
    omega

/-- What leaves the directory as it is leaves the take on its way. -/
theorem State.orderly.of_beside (h : s.orderly out k) (hb : s.beside x) (hx : x.between) (hf : x.main.mon.fault = s.main.mon.fault) :
    x.orderly out k where
  between := hx
  normal := fun hfault => h.normal (hf.symm.trans hfault)
  footed := hb.footed h.footed
  tidy := by
    rw [hb.counter]
    exact hb.tidy h.tidy
  room := by
    have hwaiting : x.waiting out = s.waiting out := by
      rw [State.waiting, State.waiting]
      simp only [hb.waiter]
    have hnext : x.nextToken = s.nextToken := by
      show (x.store.token.value).getD 1 = (s.store.token.value).getD 1
      rw [hb.store.token]
    rw [State.roomFor, hwaiting, hnext]
    exact h.room

theorem State.sound.orderly (h : s.sound) (hs : s.between) (hn : ¬ s.inFault)
    (hroom : ∀ v, s.store.token.value = some v → v.toNat + 256 < 2 ^ 48) : s.orderly [] 4 where
  between := hs
  normal := hn
  footed := h.footed
  tidy := h.tidy
  room := by
    have hwaiting := s.waiting_le []
    rw [State.roomFor]
    cases hv : s.store.token.value with
    | none =>
      rw [State.nextToken_of_lost hv, show (1 : Token).toNat = 1 from rfl]
      omega
    | some v =>
      rw [State.nextToken_of_value hv]
      have hlt := hroom v hv
      omega

theorem State.orderly.sound (h : s.orderly [] k) : s.sound := h.tidy.sound h.between h.footed

theorem State.orderly.weaken {k' : Nat} (h : s.orderly out k) (hk : k' ≤ k) : s.orderly out k' := by
  refine ⟨h.between, h.normal, h.footed, h.tidy, ?_⟩
  have hroom := h.room
  rw [State.roomFor] at hroom ⊢
  omega

end

end Sys2Proof.Machine
end

section
/-! PROOFS. The reads, the results and the close of records in hand on the way of a take (R9, R34, R53, R136). -/

namespace Sys2Proof.Machine

section
variable {s x y : State} {out : List Nat} {k : Nat}

/-! ### Checked reads -/

theorem readControl_leads {α : Type} [DecidableEq α] {c : Control α} (hc : c.ofStore) (h : s.orderly out k) :
    (readControl c).leads s fun v x => x.orderly out k ∧ s.beside x ∧ c.peek s = some v := by
  obtain ⟨hb, hx⟩ := State.beside_read hc h.between
  obtain ⟨m, hmain, -, hvalue⟩ := Control.read_main c s
  rw [Take.leads, readControl]
  rcases hr : c.read s with ⟨x, o⟩
  rw [hr] at hb hx hmain hvalue
  rcases hvalue with ⟨rfl, hfault⟩ | ⟨⟨v, rfl, hpeek⟩, hfault⟩
  · exact h.halted hb hx (by rw [State.inFault, hmain]; exact hfault)
  · exact ⟨h.of_beside hb hx (by rw [hmain]; exact hfault), hb, hpeek⟩

theorem readSession_leads (c : Nat) (h : s.orderly out k) :
    (readSession c).leads s fun _ x => x.orderly out k ∧ s.beside x := by
  obtain ⟨hb, hx⟩ := State.beside_read (.session c) h.between
  obtain ⟨m, hmain, -, hvalue⟩ := Control.read_main (sessionWord c) s
  rw [Take.leads, readSession]
  rcases hr : (sessionWord c).read s with ⟨x, o⟩
  rw [hr] at hb hx hmain hvalue
  rcases hvalue with ⟨rfl, hfault⟩ | ⟨⟨v, rfl, -⟩, hfault⟩
  · dsimp only
    rw [if_neg h.normal]
    exact h.halted hb hx (by rw [State.inFault, hmain]; exact hfault)
  · exact ⟨h.of_beside hb hx (by rw [hmain]; exact hfault), hb⟩

theorem readWords_leads (n j : Nat) (h : s.orderly out k) :
    (readWords n j).leads s fun _ x => x.orderly out k ∧ s.beside x := by
  obtain ⟨hb, hx, hf⟩ := State.beside_readSlot h.between n j
  exact ⟨h.of_beside hb hx hf, hb⟩

/-! ### Results handed over (R9, R47) -/

/-- The pool entries `ids` become FREE; of the rest of what the agreement speaks of, nothing changes. -/
structure State.frees (s x : State) (ids : List Nat) : Prop where
  store  : s.store.alike x.store
  index  : x.main.index = s.main.index
  free   : x.main.free = s.main.free
  quar   : x.main.quar = s.main.quar
  queues : x.main.queues = s.main.queues
  waiter : ∀ id, x.waiter id = if id ∈ ids then none else s.waiter id
  sched  : (∀ e ∈ s.main.sched, ∀ n tok, e.ref = .grant n tok → n < 1024) →
    ∀ e ∈ x.main.sched, ∀ n tok, e.ref = .grant n tok → n < 1024
  cursor : s.main.mon.cursor < 1024 → x.main.mon.cursor < 1024

theorem State.beside.frees (h : s.beside x) : s.frees x [] :=
  ⟨h.store, h.index, h.free, h.quar, h.queues, fun id => by rw [h.waiter, if_neg List.not_mem_nil], h.sched, h.cursor⟩

theorem State.frees.trans {ids ids' : List Nat} (h : s.frees x ids) (h' : x.frees y ids') : s.frees y (ids ++ ids') where
  store := h.store.trans h'.store
  index := h'.index.trans h.index
  free := h'.free.trans h.free
  quar := h'.quar.trans h.quar
  queues := h'.queues.trans h.queues
  waiter id := by
    rw [h'.waiter, h.waiter]
    by_cases h1 : id ∈ ids <;> by_cases h2 : id ∈ ids' <;> simp [h1, h2]
  sched hs := h'.sched (h.sched hs)
  cursor hs := h'.cursor (h.cursor hs)

theorem State.frees.isFree {ids : List Nat} (h : s.frees x ids) (n : Nat) : x.isFree n = s.isFree n := by
  rw [State.isFree, h.free]
  rfl

theorem State.frees.lookup {ids : List Nat} (h : s.frees x ids) (q : Key) : x.lookup q = s.lookup q := by
  rw [State.lookup, h.index]
  rfl

theorem State.frees.queueOf {ids : List Nat} (h : s.frees x ids) (n : Nat) : x.queueOf n = s.queueOf n := by
  rw [State.queueOf, h.queues]
  rfl

theorem State.frees.inHand_iff {ids : List Nat} (h : s.frees x ids) {n : Nat} : x.inHand n ↔ s.inHand n := by
  rw [State.inHand, State.inHand, h.isFree, h.quar]

theorem State.frees.counter {ids : List Nat} (h : s.frees x ids) : x.counter = s.counter := by
  rw [State.counter, h.store.token]
  rfl

theorem State.frees.nextToken {ids : List Nat} (h : s.frees x ids) : x.nextToken = s.nextToken := by
  show (x.store.token.value).getD 1 = (s.store.token.value).getD 1
  rw [h.store.token]

/-- The entries of waiters that are out of their queues become FREE. -/
theorem State.orderly.of_frees {ids : List Nat} (h : s.orderly out k) (hf : s.frees x ids) (hx : x.between)
    (hfault : x.main.mon.fault = s.main.mon.fault) (hids : ∀ id ∈ ids, id ∈ out) : x.orderly out k where
  between := hx
  normal hx := h.normal (hfault.symm.trans hx)
  footed := ⟨fun v hv => h.footed.counter v (hf.store.token.symm.trans hv),
    fun m z hm => h.footed.zones m z (hf.store.zone.symm.trans hm), hf.cursor h.footed.cursor⟩
  tidy := by
    rw [hf.counter]
    refine ⟨fun n => ?_, fun t ht n => ?_, fun n => ?_, fun n key => ?_, fun n hn hin => ?_, fun q e => ?_, ?_, fun n => ?_,
      fun id w hw => ?_, hf.sched h.tidy.sched⟩
    · rw [hf.store.slots n]
      exact h.tidy.rules n
    · rw [hf.store.slots n]
      exact h.tidy.tokens t ht n
    · rw [hf.store.slots n, hf.isFree]
      exact h.tidy.free n
    · rw [hf.store.slots n, hf.isFree, hf.quar]
      simp only [hf.lookup]
      exact h.tidy.quar n key
    · rw [hf.store.slots n]
      simp only [hf.lookup]
      exact h.tidy.held n hn (hf.inHand_iff.1 hin)
    · rw [hf.lookup, hf.store.slots e.slot, hf.inHand_iff, hf.quar]
      exact h.tidy.index q e
    · rw [hf.index]
      exact h.tidy.range
    · rw [hf.queueOf]
      refine ⟨(h.tidy.queues n).1, fun id hid => ?_⟩
      obtain ⟨hnot, w, hw, hslot⟩ := (h.tidy.queues n).2 id hid
      exact ⟨hnot, w, (hf.waiter id).trans ((if_neg fun hmem => hnot (hids id hmem)).trans hw), hslot⟩
    · rw [hf.waiter] at hw
      split at hw
      · cases hw
      · rw [hf.queueOf, hf.inHand_iff]
        exact h.tidy.pool id w hw
  room := by
    have hwaiting : x.waiting out ≤ s.waiting out := State.waiting_congr fun id hsome hnot => by
      rw [hf.waiter] at hsome
      split at hsome
      · cases hsome
      · exact ⟨hsome, hnot⟩
    have hroom := h.room
    rw [State.roomFor] at hroom ⊢
    rw [hf.nextToken]
    omega

/-- With their entries FREE the waiters that left their queues are gone. -/
theorem State.orderly.cleared {rest : List Nat} (h : s.orderly out k) (hrest : ∀ id ∈ rest, id ∈ out)
    (hgone : ∀ id ∈ out, id ∈ rest ∨ s.waiter id = none) : s.orderly rest k where
  between := h.between
  normal := h.normal
  footed := h.footed
  tidy := { h.tidy with
    queues := fun n => ⟨(h.tidy.queues n).1, fun id hid => by
      obtain ⟨hnot, hw⟩ := (h.tidy.queues n).2 id hid
      exact ⟨fun hmem => hnot (hrest id hmem), hw⟩⟩
    pool := fun id w hw => by
      obtain ⟨hid, hplace⟩ := h.tidy.pool id w hw
      exact ⟨hid, hplace.imp (fun hout => (hgone id hout).resolve_right fun hnone => Option.some_ne_none w (hw.symm.trans hnone)) fun hin => hin⟩ }
  room := by
    have hwaiting : s.waiting rest ≤ s.waiting out := State.waiting_congr fun id hsome hnot =>
      ⟨hsome, fun hout => by
        rw [(hgone id hout).resolve_left hnot] at hsome
        cases hsome⟩
    have hroom := h.room
    rw [State.roomFor] at hroom ⊢
    omega

theorem State.frees_handOut (hs : s.between) {o : Out} (ho : o.usual) : s.frees (s.handOut o) (freedIds [o]) := by
  rcases ho with ho | ⟨id, c, rfl⟩
  · have hb := State.beside_handOut ho s
    have hnone : freedIds [o] = [] := by
      cases o with
      | freeWaiter id c => exact ho.elim
      | _ => rfl
    rw [hnone]
    exact hb.frees
  · refine ⟨Store.alike.refl _, rfl, rfl, rfl, rfl, fun i => ?_, fun h => h, fun h => h⟩
    show Tab.find? (Tab.del s.main.pool id) i = if i ∈ [id] then none else Tab.find? s.main.pool i
    rw [Tab.find?_del ((Main.canonical_iff _).1 hs.tables).2.2.1]
    simp only [List.mem_singleton, eq_comm]

theorem State.frees_handOuts : ∀ {os : List Out} {s : State}, s.between → (∀ o ∈ os, o.usual) → s.frees (s.handOuts os) (freedIds os)
  | [], s, _, _ => (State.beside.refl s).frees
  | o :: os, s, hs, h => by
    obtain ⟨ho, hos⟩ := List.forall_mem_cons.1 h
    have hrest := State.frees_handOuts (steady_between.handOut s o hs) hos
    rw [show freedIds (o :: os) = freedIds [o] ++ freedIds os from freedIds_append [o] os]
    exact (State.frees_handOut hs ho).trans hrest

theorem clearMark_leads (c : Nat) (h : s.orderly out k) : (clearMark c).leads s fun _ x => x.orderly out k ∧ s.beside x := by
  refine Take.leads_bind ((readControl_leads (.session c) h).mono fun e x ⟨hx, hb, _⟩ => ?_)
  split
  · obtain ⟨hcommit, hbetween⟩ := State.beside_commit hx.between (c := { session := some (c, { e with waitsHeld := false }) }) rfl rfl
    exact ⟨hx.of_beside hcommit hbetween rfl, hb.trans hcommit⟩
  · exact ⟨hx, hb⟩

theorem clearMarks_leads : ∀ (cs : List Nat) {s : State}, s.orderly out k →
    (clearMarks cs).leads s fun _ x => x.orderly out k ∧ s.beside x
  | [], s, h => ⟨h, State.beside.refl s⟩
  | c :: cs, s, h => by
    refine Take.leads_get (Take.leads_ite (fun _ => Take.leads_bind ?_) fun _ => clearMarks_leads cs h)
    exact (clearMark_leads c h).mono fun _ x ⟨hx, hb⟩ => (clearMarks_leads cs hx).mono fun _ y ⟨hy, hb'⟩ => ⟨hy, hb.trans hb'⟩

/-- Results are handed over (R9, R47). -/
theorem deliver_leads {os : List Out} (h : s.orderly out k) (hos : ∀ o ∈ os, o.usual) (hids : ∀ id ∈ freedIds os, id ∈ out) :
    (deliver os).leads s fun _ x => x.orderly out k ∧ s.frees x (freedIds os) := by
  have hf := State.frees_handOuts h.between hos
  have hx := h.of_frees hf (steady_between.handOuts s os h.between) (congrArg Monitor.fault (State.handOuts_mon os s)) hids
  refine Take.leads_bind (Take.leads_modify ((clearMarks_leads (freedClients os) hx).mono fun _ y ⟨hy, hb⟩ => ⟨hy, ?_⟩))
  have hboth := hf.trans hb.frees
  rw [List.append_nil] at hboth
  exact hboth

end

end Sys2Proof.Machine
end

section
/-! PROOFS. The close of several records in hand by one commit (R34, R53). -/

namespace Sys2Proof.Machine

/-- Of the record area, the sets, the index and the queues only the slots `ns` and the keys `ks` change. -/
structure State.apart (s x : State) (ns : List Nat) (ks : List Key) : Prop where
  slots  : ∀ m, m ∉ ns → (x.store.slot m).val = (s.store.slot m).val
  free   : ∀ m, m ∉ ns → x.isFree m = s.isFree m
  quar   : ∀ m, m ∉ ns → Tab.find? x.main.quar m = Tab.find? s.main.quar m
  queue  : ∀ m, m ∉ ns → x.queueOf m = s.queueOf m
  index  : ∀ q, q ∉ ks → x.lookup q = s.lookup q

section
variable {s x y : State} {b : Bench} {out fs : List Nat} {ns ns' : List Nat} {ks ks' : List Key}

theorem State.apart.refl (s : State) (ns : List Nat) (ks : List Key) : s.apart s ns ks :=
  ⟨fun _ _ => rfl, fun _ _ => rfl, fun _ _ => rfl, fun _ _ => rfl, fun _ _ => rfl⟩

theorem State.apart.trans (h : s.apart x ns ks) (h' : x.apart y ns ks) : s.apart y ns ks :=
  ⟨fun m hm => (h'.slots m hm).trans (h.slots m hm), fun m hm => (h'.free m hm).trans (h.free m hm),
    fun m hm => (h'.quar m hm).trans (h.quar m hm), fun m hm => (h'.queue m hm).trans (h.queue m hm),
    fun q hq => (h'.index q hq).trans (h.index q hq)⟩

theorem State.apart.mono (h : s.apart x ns ks) (hn : ∀ n ∈ ns, n ∈ ns') (hk : ∀ q ∈ ks, q ∈ ks') : s.apart x ns' ks' :=
  ⟨fun m hm => h.slots m fun hmem => hm (hn m hmem), fun m hm => h.free m fun hmem => hm (hn m hmem),
    fun m hm => h.quar m fun hmem => hm (hn m hmem), fun m hm => h.queue m fun hmem => hm (hn m hmem),
    fun q hq => h.index q fun hmem => hq (hk q hmem)⟩

theorem State.frees.apart {ids : List Nat} (h : s.frees x ids) (ns : List Nat) (ks : List Key) : s.apart x ns ks :=
  ⟨fun m _ => h.store.slots m, fun m _ => h.isFree m, fun m _ => by rw [h.quar], fun m _ => h.queueOf m, fun q _ => h.lookup q⟩

theorem State.beside.apart (h : s.beside x) (ns : List Nat) (ks : List Key) : s.apart x ns ks := h.frees.apart ns ks

theorem State.sameBut.apart {n : Nat} {key : Option Key} (h : s.sameBut x n key) (hn : n ∈ ns) (hk : ∀ q, key = some q → q ∈ ks) :
    s.apart x ns ks :=
  ⟨fun m hm => h.slots m fun heq => hm (heq ▸ hn), fun m hm => h.free m fun heq => hm (heq ▸ hn),
    fun m hm => h.quar m fun heq => hm (heq ▸ hn), fun m hm => h.queue m fun heq => hm (heq ▸ hn),
    fun q hq => h.index q fun heq => hq (hk q heq)⟩

theorem State.apart.inHand_iff (h : s.apart x ns ks) {m : Nat} (hm : m ∉ ns) : x.inHand m ↔ s.inHand m := by
  rw [State.inHand, State.inHand, h.free m hm, h.quar m hm]

/-- A record in hand is as it was where other records change. -/
theorem State.handling.of_apart (hb : s.handling b fs) (h : s.apart x ns ks) (hn : b.slot ∉ ns) (hk : b.body.key ∉ ks)
    (hcounter : x.counter ≠ none → s.counter ≠ none) : x.handling b fs where
  slot := hb.slot
  place := by
    rw [h.free _ hn, h.index _ hk, h.inHand_iff hn, h.slots _ hn]
    exact hb.place
  holding := hb.holding
  nonzero := hb.nonzero
  tokens hsome := hb.tokens (hcounter hsome)
  queue := by
    rw [h.queue _ hn]
    exact hb.queue
  clean hd := by
    rw [State.recordOf, h.slots _ hn]
    exact hb.clean hd

/-! ### The closes one after the other -/

theorem State.settleIn_setStore (x : State) (st : Store) (b : Bench) : (x.setStore st).settleIn b = (x.settleIn b).setStore st := by
  have hrequeue : (x.setStore st).requeue b = (x.requeue b).setStore st := by
    by_cases hsame : b.queue.map Prod.fst = x.queueOf b.slot
    · rw [State.requeue_same hsame]
      exact State.requeue_same (s := x.setStore st) hsame
    · rw [State.requeue, State.requeue, if_neg hsame, if_neg (show ¬ _ = (x.setStore st).queueOf b.slot from hsame)]
      rfl
  rw [State.settleIn, State.settleIn, hrequeue]
  split
  · rfl
  · split <;> rfl

theorem State.foldl_settleIn_setStore : ∀ (bs : List Bench) (x : State) (st : Store),
    bs.foldl State.settleIn (x.setStore st) = (bs.foldl State.settleIn x).setStore st
  | [], _, _ => rfl
  | b :: bs, x, st => by
    rw [List.foldl_cons, List.foldl_cons, State.settleIn_setStore, State.foldl_settleIn_setStore bs]

theorem State.foldl_closeIn : ∀ (bs : List Bench) (x : State), bs.foldl State.closeIn x =
    (bs.foldl State.settleIn x).setStore ((bs.flatMap Bench.owed).foldl Store.putImage x.store)
  | [], _ => rfl
  | b :: bs, x => by
    rw [List.foldl_cons, List.foldl_cons, State.foldl_closeIn bs, List.flatMap_cons, List.foldl_append, State.closeIn,
      State.foldl_settleIn_setStore]
    rfl

theorem State.closeIn_token (x : State) (b : Bench) : (x.closeIn b).store.token = x.store.token ∧
    (x.closeIn b).store.zone = x.store.zone := by
  show (b.put x.store).token = _ ∧ (b.put x.store).zone = _
  rw [Bench.put, Bench.owed]
  split
  · exact ⟨rfl, rfl⟩
  · split <;> exact ⟨rfl, rfl⟩

/-- Tokens below a bound are below a greater one. -/
theorem State.tidy.raise {bound bound' : Option Nat} (h : x.tidy (· < 1024) out bound)
    (hbound : ∀ t', bound' = some t' → ∃ t0, bound = some t0 ∧ t0 ≤ t') : x.tidy (· < 1024) out bound' :=
  { h with
    tokens := fun t' ht' n hn hrec g hg => by
      obtain ⟨t0, ht0, hle⟩ := hbound t' ht'
      exact (h.tokens t0 ht0 n hn hrec g hg).trans_le hle }

/-- The agreement looks at the words of the slots and at the main domain. -/
theorem State.tidy.of_slots {bound : Option Nat} (h : x.tidy (· < 1024) out bound) (hmain : y.main = x.main)
    (hslots : ∀ n, (y.store.slot n).val = (x.store.slot n).val) : y.tidy (· < 1024) out bound := by
  have hinHand : ∀ n, y.inHand n ↔ x.inHand n := fun n => by
    rw [State.inHand, State.inHand, State.isFree, hmain]
    rfl
  refine ⟨fun n => ?_, fun t ht n => ?_, fun n => ?_, fun n key => ?_, fun n hn hin => ?_, fun q e => ?_, ?_, fun n => ?_,
    fun id w => ?_, ?_⟩
  · rw [hslots]
    exact h.rules n
  · rw [hslots]
    exact h.tokens t ht n
  · rw [hslots, State.isFree, hmain]
    exact h.free n
  · simp only [hslots, State.isFree, State.lookup, hmain]
    exact h.quar n key
  · simp only [hslots, State.lookup, hmain]
    exact h.held n hn ((hinHand n).1 hin)
  · simp only [hslots, State.lookup, hmain, hinHand]
    exact h.index q e
  · rw [hmain]
    exact h.range
  · simp only [State.queueOf, State.waiter, hmain]
    exact h.queues n
  · simp only [State.queueOf, State.waiter, hmain, hinHand]
    exact h.pool id w
  · rw [hmain]
    exact h.sched

/-- What the closes of several records in hand leave. -/
structure State.closed (x z : State) (l : List (Bench × List Nat)) : Prop where
  apart  : x.apart z (l.map fun p => p.1.slot) (l.map fun p => p.1.body.key)
  waiter : ∀ id, z.waiter id = x.waiter id
  stays  : ∀ p ∈ l, p.1.toRetire = false → z.inHand p.1.slot
  gone   : ∀ p ∈ l, p.1.toRetire = true → z.lookup p.1.body.key = none

theorem State.closeIn_stays {bound : Option Nat} (hx : x.between) (h : x.tidy (· < 1024) out bound) (hb : x.handling b fs)
    (hret : b.toRetire = false) : (x.closeIn b).inHand b.slot := by
  obtain ⟨-, -, hdirty, hclean⟩ := State.closeIn_isFree hx b b.slot
  refine ⟨hb.slot, ?_, by rw [(State.closeIn_rest hx b).1]; exact hb.quar h⟩
  cases hd : b.dirty with
  | true => exact hdirty hret hd
  | false =>
    rw [hclean hret hd]
    rcases hb.place with ⟨hnew, -⟩ | ⟨-, hin, -⟩
    · exact absurd ((hb.clean hd).1.symm.trans hnew) Bool.false_ne_true
    · exact hin.2.1

theorem State.tidy.foldl_closeIn {bound : Option Nat} : ∀ (l : List (Bench × List Nat)) {x : State} {out : List Nat}, x.between →
    x.tidy (· < 1024) out bound → (l.map fun p => p.1.slot).Nodup → (l.map fun p => p.1.body.key).Nodup →
    (∀ p ∈ l, x.handling p.1 p.2) → (∀ p ∈ l, ∀ t, bound = some t → ∀ g ∈ p.1.body.grants, g.token.toNat < t) →
    ((l.map Prod.fst).foldl State.closeIn x).between ∧
      ((l.map Prod.fst).foldl State.closeIn x).tidy (· < 1024) (out ++ l.flatMap Prod.snd) bound ∧
      x.closed ((l.map Prod.fst).foldl State.closeIn x) l ∧ ((l.map Prod.fst).foldl State.closeIn x).main.mon = x.main.mon
  | [], x, out, hx, h, _, _, _, _ => by
    refine ⟨hx, ?_, ⟨State.apart.refl x _ _, fun _ => rfl, nofun, nofun⟩, rfl⟩
    rw [List.flatMap_nil, List.append_nil]
    exact h
  | p :: l, x, out, hx, h, hslots, hkeys, hall, htokens => by
    obtain ⟨hp, hrest⟩ := List.forall_mem_cons.1 hall
    obtain ⟨hptokens, hlTokens⟩ := List.forall_mem_cons.1 htokens
    rw [List.map_cons, List.nodup_cons] at hslots hkeys
    have hbut := State.closeIn_sameBut hx p.1
    obtain ⟨hquar, hpool, -, hmon⟩ := State.closeIn_rest hx p.1
    have hone : x.apart (x.closeIn p.1) [p.1.slot] [p.1.body.key] :=
      hbut.apart List.mem_cons_self fun q hq => List.mem_singleton.2 (Option.some.inj hq).symm
    have hcounter : (x.closeIn p.1).counter = x.counter := by
      rw [State.counter, (State.closeIn_token x p.1).1]
      rfl
    obtain ⟨hb, ht, hc, hm⟩ := State.tidy.foldl_closeIn l (State.between_closeIn hx p.1)
      (h.closeIn hx hp hptokens fun t ht => ⟨t, ht, Nat.le_refl t⟩) hslots.2 hkeys.2 (fun q hq => (hrest q hq).of_apart hone
        (fun hmem => hslots.1 (List.mem_singleton.1 hmem ▸ List.mem_map_of_mem hq))
        (fun hmem => hkeys.1 (List.mem_singleton.1 hmem ▸ List.mem_map_of_mem hq)) fun hne => hcounter ▸ hne) hlTokens
    refine ⟨hb, ?_, ⟨?_, fun id => (hc.waiter id).trans (hbut.waiter id), ?_, ?_⟩, hm.trans hmon⟩
    · rw [List.flatMap_cons, ← List.append_assoc]
      exact ht
    · exact (hone.mono (fun n hn => by rw [List.mem_singleton.1 hn]; exact List.mem_cons_self)
        (fun q hq => by rw [List.mem_singleton.1 hq]; exact List.mem_cons_self)).trans
        (hc.apart.mono (fun n hn => List.mem_cons_of_mem _ hn) fun q hq => List.mem_cons_of_mem _ hq)
    · refine List.forall_mem_cons.2 ⟨fun hret => ?_, hc.stays⟩
      exact (hc.apart.inHand_iff hslots.1).2 (State.closeIn_stays hx h hp hret)
    · refine List.forall_mem_cons.2 ⟨fun hret => ?_, hc.gone⟩
      refine (hc.apart.index _ hkeys.1).trans ?_
      rw [State.closeIn_lookup hx, if_pos hret, if_pos rfl]

end

end Sys2Proof.Machine
end

section
/-! PROOFS. One commit of several records, and the records in hand of a touch (R7, R34, R53). -/

namespace Sys2Proof.Machine

section
variable {s x y : State} {b c : Bench} {out fs : List Nat} {os : List Out} {k k0 j : Nat} {T : Token}

/-- Images of slots leave the zone map and the token counter. -/
theorem foldl_owed_token : ∀ (bs : List Bench) (st : Store),
    ((bs.flatMap Bench.owed).foldl Store.putImage st).token = st.token ∧
      ((bs.flatMap Bench.owed).foldl Store.putImage st).zone = st.zone
  | [], _ => ⟨rfl, rfl⟩
  | b :: bs, st => by
    rw [List.flatMap_cons, List.foldl_append]
    have hone : (b.owed.foldl Store.putImage st).token = st.token ∧ (b.owed.foldl Store.putImage st).zone = st.zone := by
      rw [Bench.owed]
      split
      · exact ⟨rfl, rfl⟩
      · split <;> exact ⟨rfl, rfl⟩
    obtain ⟨htoken, hzone⟩ := foldl_owed_token bs (b.owed.foldl Store.putImage st)
    exact ⟨htoken.trans hone.1, hzone.trans hone.2⟩

/-- The commit of several records: their images, and the token counter where a token is issued (R34, R53). -/
theorem State.commitBenches_store (hs : s.between) {bs : List Bench} (howed : ∀ b ∈ bs, 0 < b.issued → b.dirty = true) :
    ∃ st, s.commitBenches bs = s.setStore st ∧ (∀ n, (st.slot n).val = (((bs.flatMap Bench.owed).foldl Store.putImage s.store).slot n).val) ∧
      st.zone.value = s.store.zone.value ∧
      st.token.value = (if bs.any (fun b => 0 < b.issued) then bs.getLast?.map Bench.token else none).or s.store.token.value := by
  obtain ⟨htoken, hzone⟩ := foldl_owed_token bs s.store
  rw [State.commitBenches]
  split
  next hempty =>
    have hnil := List.isEmpty_iff.1 hempty
    refine ⟨s.store, rfl, fun n => by rw [hnil]; rfl, rfl, ?_⟩
    rw [if_neg, Option.none_or]
    intro hany
    obtain ⟨b, hb, hissued⟩ := List.any_eq_true.1 hany
    have hdirty := howed b hb (of_decide_eq_true hissued)
    have hnone := List.flatMap_eq_nil_iff.1 hnil b hb
    rw [Bench.owed, if_pos hdirty] at hnone
    split at hnone <;> exact List.cons_ne_nil _ _ hnone
  next =>
    generalize (if bs.any (fun b => 0 < b.issued) then bs.getLast?.map Bench.token else none) = tok
    have hcore := State.commit_store hs.uncut hs.canonical { images := bs.flatMap Bench.owed, token := tok }
    obtain ⟨_, _, hmap, hcounter, _, _⟩ := id hcore
    refine ⟨_, State.commit_eq s hs.uncut _, fun n => ?_, ?_, ?_⟩
    · rw [hcore.slot n]
      cases tok <;> rfl
    · rw [hmap]
      refine (congrArg Copies.value ?_).trans (congrArg Copies.value hzone)
      cases tok <;> rfl
    · rw [hcounter]
      cases tok with
      | none => exact congrArg Copies.value htoken
      | some t => rfl

/-- The one commit of several records keeps a take on its way (R34, R53). -/
theorem State.orderly.closeBenches {l : List (Bench × List Nat)} (h : s.orderly out k0)
    (hslots : (l.map fun p => p.1.slot).Nodup) (hkeys : (l.map fun p => p.1.body.key).Nodup)
    (hall : ∀ p ∈ l, s.handling p.1 p.2)
    (hbelow : s.counter ≠ none → ∀ p ∈ l, ∀ g ∈ p.1.body.grants, g.token.toNat < T.toNat) (hnext : s.nextToken.toNat ≤ T.toNat)
    (hlast : (∃ p ∈ l, 0 < p.1.issued) → s.counter ≠ none ∧ (l.map Prod.fst).getLast?.map Bench.token = some T)
    (hnone : (∀ p ∈ l, p.1.issued = 0) → T = s.nextToken) (hroom : s.roomFor T (out ++ l.flatMap Prod.snd) k) :
    (s.closeBenches (l.map Prod.fst)).orderly (out ++ l.flatMap Prod.snd) k ∧ s.closed (s.closeBenches (l.map Prod.fst)) l ∧
      (s.closeBenches (l.map Prod.fst)).nextToken = T ∧ ((s.closeBenches (l.map Prod.fst)).counter ≠ none → s.counter ≠ none) := by
  have hne : T ≠ 0 := fun hzero => h.nextToken_ne_zero (BitVec.eq_of_toNat_eq (by rw [hzero] at hnext; exact Nat.le_zero.1 hnext))
  obtain ⟨st, hst, hval, hzone, htoken⟩ := State.commitBenches_store h.between (bs := l.map Prod.fst) fun b hb hissued => by
    obtain ⟨p, hp, rfl⟩ := List.mem_map.1 hb
    by_contra hd
    exact absurd ((hall p hp).clean (by simpa using hd)).2.2 (Nat.ne_of_gt hissued)
  have hvalue : (st.token.value = some T ∧ s.counter ≠ none) ∨ (st.token.value = s.store.token.value ∧ T = s.nextToken) := by
    by_cases hany : ∃ p ∈ l, 0 < p.1.issued
    · obtain ⟨hsome, htok⟩ := hlast hany
      obtain ⟨p, hp, hissued⟩ := hany
      refine .inl ⟨?_, hsome⟩
      rw [htoken, if_pos (List.any_eq_true.2 ⟨p.1, List.mem_map_of_mem hp, decide_eq_true hissued⟩), htok]
      rfl
    · have hzero : ∀ p ∈ l, p.1.issued = 0 := fun p hp => Nat.eq_zero_of_not_pos fun hpos => hany ⟨p, hp, hpos⟩
      refine .inr ⟨?_, hnone hzero⟩
      rw [htoken, if_neg, Option.none_or]
      intro hyes
      obtain ⟨b, hb, hissued⟩ := List.any_eq_true.1 hyes
      obtain ⟨p, hp, rfl⟩ := List.mem_map.1 hb
      exact hany ⟨p, hp, of_decide_eq_true hissued⟩
  have hcounter : ∀ v, st.token.value = some v → v = T ∧ s.counter ≠ none := fun v hv => by
    rcases hvalue with ⟨hT, hsome⟩ | ⟨hsame, hT⟩
    · exact ⟨Option.some.inj (hv.symm.trans hT), hsome⟩
    · have hold := hsame.symm.trans hv
      refine ⟨(hT.trans (State.nextToken_of_value hold)).symm, ?_⟩
      rw [State.counter, hold]
      exact Option.some_ne_none _
  have hbetween := steady_between.closeBenches s (l.map Prod.fst) h.between
  have hfinal : s.closeBenches (l.map Prod.fst) = ((l.map Prod.fst).foldl State.settleIn s).setStore st := by
    rw [State.closeBenches, hst, State.foldl_settleIn_setStore]
  rw [hfinal] at hbetween ⊢
  generalize hy : ((l.map Prod.fst).foldl State.settleIn s).setStore st = y at hbetween
  have hystore : y.store = st := by rw [← hy]; rfl
  have hraised : s.tidy (· < 1024) out y.counter := h.tidy.raise fun t ht => by
    rw [State.counter, hystore] at ht
    obtain ⟨v, hv, rfl⟩ := Option.map_eq_some_iff.1 ht
    obtain ⟨rfl, hsome⟩ := hcounter v hv
    obtain ⟨t0, ht0⟩ := Option.ne_none_iff_exists'.1 hsome
    obtain ⟨v0, hv0, rfl⟩ := Option.map_eq_some_iff.1 ht0
    exact ⟨_, ht0, by rw [State.nextToken_of_value hv0] at hnext; exact hnext⟩
  obtain ⟨-, ht, hc, hmon⟩ := State.tidy.foldl_closeIn l h.between hraised hslots hkeys hall fun p hp t ht g hg => by
    rw [State.counter, hystore] at ht
    obtain ⟨v, hv, rfl⟩ := Option.map_eq_some_iff.1 ht
    obtain ⟨rfl, hsome⟩ := hcounter v hv
    exact hbelow hsome p hp g hg
  have hz := State.foldl_closeIn (l.map Prod.fst) s
  generalize (l.map Prod.fst).foldl State.closeIn s = z at ht hc hmon hz
  have hmain : y.main = z.main := by rw [← hy, hz]; rfl
  have hsame : ∀ n, (y.store.slot n).val = (z.store.slot n).val := fun n => by
    rw [hystore, hval n, hz]
    rfl
  have hnextToken : y.nextToken = T := by
    rcases hvalue with ⟨hT, -⟩ | ⟨hold, hT⟩
    · exact State.nextToken_of_value (by rw [hystore]; exact hT)
    · rw [hT]
      show (y.store.token.value).getD 1 = (s.store.token.value).getD 1
      rw [hystore, hold]
  have hwaiter : ∀ id, y.waiter id = s.waiter id := fun id => by
    rw [State.waiter, hmain]
    exact hc.waiter id
  refine ⟨⟨hbetween, ?_, ⟨fun v hv => ?_, fun m i hm => ?_, ?_⟩, ht.of_slots hmain hsame, ?_⟩,
    ⟨?_, hwaiter, fun p hp hret => ?_, fun p hp hret => ?_⟩, hnextToken,
    fun hsome => ?_⟩
  · rw [State.inFault, hmain, hmon]
    exact h.normal
  · rw [hystore] at hv
    exact (hcounter v hv).1 ▸ hne
  · rw [hystore, hzone] at hm
    exact h.footed.zones m i hm
  · rw [hmain, hmon]
    exact h.footed.cursor
  · rw [State.roomFor, hnextToken, State.waiting]
    simp only [hwaiter]
    exact hroom
  · refine ⟨fun m hm => (hsame m).trans (hc.apart.slots m hm), fun m hm => ?_, fun m hm => ?_, fun m hm => ?_, fun q hq => ?_⟩
    · rw [State.isFree, hmain]
      exact hc.apart.free m hm
    · rw [hmain]
      exact hc.apart.quar m hm
    · rw [State.queueOf, hmain]
      exact hc.apart.queue m hm
    · rw [State.lookup, hmain]
      exact hc.apart.index q hq
  · rw [State.inHand, State.isFree, hmain]
    exact hc.stays p hp hret
  · rw [State.lookup, hmain]
    exact hc.gone p hp hret
  · obtain ⟨t, ht⟩ := Option.ne_none_iff_exists'.1 hsome
    rw [State.counter, hystore] at ht
    obtain ⟨v, hv, -⟩ := Option.map_eq_some_iff.1 ht
    exact (hcounter v hv).2

end

end Sys2Proof.Machine
end

section
/-! PROOFS. The record in hand of a take, with its tokens and its waiters (R8, R25, R52, R53). -/

namespace Sys2Proof.Machine

section
variable {s x y : State} {b c : Bench} {out fs ids : List Nat} {os : List Out} {k k0 j : Nat} {T : Token}

theorem State.handling.of_beside (hb : s.handling b fs) (h : s.beside x) : x.handling b fs :=
  hb.of_apart (h.apart [] []) List.not_mem_nil List.not_mem_nil fun hne => h.counter ▸ hne

theorem State.closed.of_beside {l : List (Bench × List Nat)} (hc : x.closed y l) (h : s.beside x) : s.closed y l :=
  ⟨(h.apart _ _).trans hc.apart, fun id => (hc.waiter id).trans (h.waiter id), hc.stays, hc.gone⟩

/-- The token counter is read where a token is issued, and the records are committed (R34, R53). -/
theorem closeBenches_leads {l : List (Bench × List Nat)} (h : s.orderly out k0)
    (hslots : (l.map fun p => p.1.slot).Nodup) (hkeys : (l.map fun p => p.1.body.key).Nodup)
    (hall : ∀ p ∈ l, s.handling p.1 p.2)
    (hbelow : s.counter ≠ none → ∀ p ∈ l, ∀ g ∈ p.1.body.grants, g.token.toNat < T.toNat) (hnext : s.nextToken.toNat ≤ T.toNat)
    (hlast : (∃ p ∈ l, 0 < p.1.issued) → (l.map Prod.fst).getLast?.map Bench.token = some T)
    (hnone : (∀ p ∈ l, p.1.issued = 0) → T = s.nextToken) (hroom : s.roomFor T (out ++ l.flatMap Prod.snd) k) :
    (closeBenches (l.map Prod.fst)).leads s fun _ y => y.orderly (out ++ l.flatMap Prod.snd) k ∧ s.closed y l ∧
      y.nextToken = T ∧ (y.counter ≠ none → s.counter ≠ none) := by
  have hany : (l.map Prod.fst).any (fun b => 0 < b.issued) = true ↔ ∃ p ∈ l, 0 < p.1.issued := by
    simp only [List.any_eq_true, List.mem_map, decide_eq_true_eq, exists_exists_and_eq_and]
  refine Take.leads_ite (fun hyes => Take.leads_bind (Take.leads_discard ?_)) fun hno => Take.leads_modify ?_
  · refine (readControl_leads .token h).mono fun v x ⟨hx, hb, hpeek⟩ => Take.leads_modify ?_
    have hnextToken := (hb.frees).nextToken
    have hsome : x.counter ≠ none := by
      have hvalue : s.store.token.value = some v := hpeek
      rw [hb.counter, State.counter, hvalue]
      exact Option.some_ne_none _
    have hroomx : x.roomFor T (out ++ l.flatMap Prod.snd) k := by
      rw [State.roomFor, State.waiting]
      simp only [hb.waiter]
      exact hroom
    obtain ⟨hy, hc, htoken, hcounter⟩ := hx.closeBenches hslots hkeys (fun p hp => (hall p hp).of_beside hb)
      (fun hne => hbelow fun hs => hne (hb.counter.trans hs))
      (by rw [hnextToken]; exact hnext) (fun hex => ⟨hsome, hlast hex⟩) (fun hz => by rw [hnextToken]; exact hnone hz) hroomx
    exact ⟨hy, hc.of_beside hb, htoken, fun hne => hb.counter ▸ hcounter hne⟩
  · exact h.closeBenches hslots hkeys hall hbelow hnext (fun hex => absurd (hany.2 hex) hno) hnone hroom

/-! ### The record in hand -/

/-- The take has record `b` in hand: it began with the token `T`, and has issued tokens from there on; the waiters `ids` have
left other queues. -/
structure State.carries (s : State) (ids : List Nat) (k : Nat) (T : Token) (b : Bench) (fs : List Nat) : Prop where
  handling : s.handling b fs
  later    : s.nextToken.toNat ≤ T.toNat
  token    : b.token.toNat = T.toNat + b.issued
  room     : s.roomFor b.token (ids ++ fs) k
  fresh    : ∀ id ∈ s.queueOf b.slot, id ∉ ids

theorem tokenNext_iterate {t : Token} : ∀ {m : Nat}, t.toNat + m < 2 ^ 48 → (tokenNext^[m] t).toNat = t.toNat + m
  | 0, _ => rfl
  | m + 1, h => by
    have hprev := tokenNext_iterate (t := t) (m := m) (by omega)
    rw [Function.iterate_succ_apply', tokenNext_eq (by omega)]
    bv_omega

/-- Work on the record in hand: each token is paid for by a waiter that leaves its queue, but for `j`. -/
theorem State.carries.work (h : s.orderly out k0) (hb : s.carries ids (k + j) T b fs) (hw : b.worked c os j) :
    s.carries ids k T c (fs ++ freedIds os) := by
  obtain ⟨i, hi, hissued, htoken, hgrants⟩ := hw.tokens
  have hhand := hb.handling
  have hqueue : (s.queueOf c.slot).Perm (c.queue.map Prod.fst ++ (fs ++ freedIds os)) := by
    have hnodup := (List.nodup_append.1 (hhand.queue.nodup_iff.1 (h.tidy.queues b.slot).1)).1
    rw [hw.slot, ← List.append_assoc]
    refine hhand.queue.trans (((hw.queue hnodup).append_right fs).trans ?_)
    rw [List.append_assoc, List.append_assoc]
    exact List.perm_append_comm.append_left _
  have hroom := hb.room
  rw [State.roomFor] at hroom
  have hplaced : s.waiting (ids ++ (fs ++ freedIds os)) + (fs ++ freedIds os).length = s.waiting ids ∧
      s.waiting (ids ++ fs) + fs.length = s.waiting ids := by
    have hperm : (s.queueOf c.slot).Nodup := (h.tidy.queues c.slot).1
    have hall : ∀ id ∈ fs ++ freedIds os, id < 128 ∧ (s.waiter id).isSome = true ∧ id ∉ ids := fun id hid => by
      have hqueued := hqueue.mem_iff.2 (List.mem_append_right _ hid)
      obtain ⟨-, w, hwaiter, -⟩ := (h.tidy.queues c.slot).2 id hqueued
      rw [hw.slot] at hqueued
      exact ⟨(h.tidy.pool id w hwaiter).1, by rw [hwaiter]; rfl, hb.fresh id hqueued⟩
    have hnodup := (List.nodup_append.1 (hqueue.nodup_iff.1 hperm)).2.1
    exact ⟨State.waiting_append hnodup hall, State.waiting_append (List.nodup_append.1 hnodup).1 fun id hid =>
      hall id (List.mem_append_left _ hid)⟩
  have hlength := List.length_append (as := fs) (bs := freedIds os)
  have hiter : ∀ m, m ≤ i → (tokenNext^[m] b.token).toNat = b.token.toNat + m := fun m hm =>
    tokenNext_iterate (by omega)
  have hctoken : c.token.toNat = b.token.toNat + i := by rw [htoken, hiter i (Nat.le_refl i)]
  refine ⟨⟨by rw [hw.slot]; exact hhand.slot, ?_, hw.holding hhand.holding, fun g hg => ?_, fun hsome g hg => ?_, hqueue,
    fun hd => ?_⟩, hb.later, ?_, ?_, by rw [hw.slot]; exact hb.fresh⟩
  · rw [hw.isNew, hw.slot, hw.key]
    exact hhand.place
  · rcases hgrants g hg with hold | ⟨m, hm, heq⟩
    · obtain ⟨g0, hg0, heq⟩ := List.mem_map.1 hold
      rw [← heq]
      exact hhand.nonzero g0 hg0
    · have hnat := hiter m (Nat.le_of_lt hm)
      rw [← heq] at hnat
      have hfirst := hb.later
      have hpos : s.nextToken.toNat ≠ 0 := fun hz => h.nextToken_ne_zero (BitVec.eq_of_toNat_eq hz)
      have htok := hb.token
      intro hzero
      rw [hzero] at hnat
      have hz : (0 : Token).toNat = 0 := rfl
      omega
  · rcases hgrants g hg with hold | ⟨m, hm, heq⟩
    · obtain ⟨g0, hg0, heq⟩ := List.mem_map.1 hold
      have hlt := hhand.tokens hsome g0 hg0
      rw [← heq]
      omega
    · rw [heq, hiter m (Nat.le_of_lt hm)]
      omega
  · obtain ⟨hdirty, hbody, hsame⟩ := hw.clean hd
    obtain ⟨hold, hrec, hzero⟩ := hhand.clean hdirty
    refine ⟨hw.isNew.trans hold, fun hret => ?_, hsame.trans hzero⟩
    rw [hbody, hw.slot]
    refine hrec (Bool.eq_false_iff.2 fun hyes => Bool.eq_false_iff.1 hret ?_)
    obtain ⟨hbody', hempty⟩ := Bool.and_eq_true_iff.1 hyes
    have hperm := hw.queue (List.nodup_append.1 (hhand.queue.nodup_iff.1 (h.tidy.queues b.slot).1)).1
    rw [List.isEmpty_iff.1 hempty, List.map_nil, List.nil_perm, List.append_eq_nil_iff, List.map_eq_nil_iff] at hperm
    rw [Bench.toRetire, hbody, hperm.1]
    exact Bool.and_eq_true_iff.2 ⟨hbody', rfl⟩
  · have htok := hb.token
    omega
  · rw [State.roomFor]
    omega

theorem State.tidy.waitersOf {bound : Option Nat} (h : s.tidy (· < 1024) out bound) (n : Nat) :
    (s.waitersOf n).map Prod.fst = s.queueOf n := by
  have hall : ∀ q : List Nat, (∀ id ∈ q, ∃ w, s.waiter id = some w) →
      (q.filterMap fun id => (s.waiter id).map fun w => (id, w)).map Prod.fst = q := fun q hq => by
    induction q with
    | nil => rfl
    | cons id q ih =>
      obtain ⟨⟨w, hw⟩, hrest⟩ := List.forall_mem_cons.1 hq
      rw [List.filterMap_cons_some (by rw [hw]; rfl), List.map_cons, ih hrest]
  exact hall _ fun id hid => by
    obtain ⟨-, w, hw, -⟩ := (h.queues n).2 id hid
    exact ⟨w, hw⟩

/-- The record of a slot as it is taken in hand. -/
theorem State.orderly.carries_bench (h : s.orderly out k0) {n : Nat} (hin : s.inHand n) {tok : Option Token}
    (hlater : s.nextToken.toNat ≤ (tok.getD s.nextToken).toNat) (hroom : s.roomFor (tok.getD s.nextToken) ids k)
    (hfresh : ∀ id ∈ s.queueOf n, id ∉ ids) : s.carries ids k (tok.getD s.nextToken) (s.bench n tok) [] := by
  obtain ⟨hrec, key, hd, hkey, -⟩ := h.tidy.held n hin.1 hin
  refine ⟨⟨hin.1, .inr ⟨rfl, hin, ?_⟩, h.tidy.rules n hin.1 hrec, (SlotImg.record_fits _).2, fun hsome g hg => ?_, ?_,
    fun _ => ⟨rfl, fun _ => rfl, rfl⟩⟩,
    hlater, rfl, by rw [List.append_nil]; exact hroom, hfresh⟩
  · show (s.store.slot n).val.ident.key = some ((s.store.slot n).val.ident.key.getD 0)
    rw [hkey]
    rfl
  · obtain ⟨t, ht⟩ := Option.ne_none_iff_exists'.1 hsome
    obtain ⟨v, hv, rfl⟩ := Option.map_eq_some_iff.1 ht
    have hlt := h.tidy.tokens _ ht n hin.1 hrec g hg
    show g.token.toNat < (tok.getD s.nextToken).toNat
    have heq := congrArg BitVec.toNat (State.nextToken_of_value hv)
    omega
  · show (s.queueOf n).Perm ((s.waitersOf n).map Prod.fst ++ [])
    rw [h.tidy.waitersOf, List.append_nil]

theorem State.orderly.queueOf_free {n : Nat} (h : s.orderly out k) (hfree : s.isFree n = true) : s.queueOf n = [] := by
  rw [List.eq_nil_iff_forall_not_mem]
  intro id hid
  obtain ⟨hnot, w, hw, rfl⟩ := (h.tidy.queues n).2 id hid
  obtain ⟨-, hin⟩ := (h.tidy.pool id w hw).2.resolve_left hnot
  exact Bool.noConfusion (hfree.symm.trans hin.2.1)

/-- A record prepared in a FREE slot (R11, R13). -/
theorem State.orderly.carries_newBench (h : s.orderly out k0) {n : Nat} (hn : n < 1024) (hfree : s.isFree n = true) {r : Rec}
    (habsent : s.lookup r.key = none) (hgrants : r.grants = []) (hholding : r.holding) {T : Token}
    (hlater : s.nextToken.toNat ≤ T.toNat) (hroom : s.roomFor T ids k) : s.carries ids k T (newBench n T r) [] := by
  refine ⟨⟨hn, .inl ⟨rfl, hfree, habsent⟩, hholding, ?_, ?_, ?_, nofun⟩, hlater, rfl, by rw [List.append_nil]; exact hroom,
    fun id hid => ?_⟩
  · show ∀ g ∈ r.grants, _
    rw [hgrants]
    exact nofun
  · show _ → ∀ g ∈ r.grants, _
    rw [hgrants]
    exact fun _ => nofun
  · show (s.queueOf n).Perm ([] ++ [])
    rw [h.queueOf_free hfree]
    exact List.Perm.refl _
  · have hnone : id ∈ s.queueOf n := hid
    rw [h.queueOf_free hfree] at hnone
    exact absurd hnone List.not_mem_nil

/-! ### The close of one record -/

/-- What the close of one record in hand and the handing over of its results leave. -/
structure State.closedOne (s y : State) (b : Bench) (fs : List Nat) : Prop where
  apart   : s.apart y [b.slot] [b.body.key]
  stays   : b.toRetire = false → y.inHand b.slot
  token   : y.nextToken = b.token
  counter : y.counter ≠ none → s.counter ≠ none
  waiter  : ∀ id, y.waiter id = if id ∈ fs then none else s.waiter id

theorem closeBenches_one (h : s.orderly out k0) (hb : s.carries out k s.nextToken b fs) :
    (closeBenches [b]).leads s fun _ y => y.orderly (out ++ fs) k ∧ s.apart y [b.slot] [b.body.key] ∧
      (b.toRetire = false → y.inHand b.slot) ∧ y.nextToken = b.token ∧ (y.counter ≠ none → s.counter ≠ none) ∧
      ∀ id, y.waiter id = s.waiter id := by
  have htoken := hb.token
  refine (closeBenches_leads (l := [(b, fs)]) (T := b.token) (k := k) h (List.nodup_singleton _) (List.nodup_singleton _)
    (List.forall_mem_singleton.2 hb.handling) (fun hsome => List.forall_mem_singleton.2 (hb.handling.tokens hsome)) (by omega)
    (fun _ => rfl) (fun hz => ?_)
    (by rw [List.flatMap_singleton]; exact hb.room)).mono fun _ y ⟨hy, hc, ht, hn⟩ => ?_
  · have hzero : b.issued = 0 := hz (b, fs) List.mem_cons_self
    exact BitVec.eq_of_toNat_eq (by omega)
  · rw [List.flatMap_singleton] at hy
    exact ⟨hy, hc.apart, hc.stays (b, fs) List.mem_cons_self, ht, hn, hc.waiter⟩

theorem closeBench_leads (h : s.orderly out k0) (hb : s.carries out k s.nextToken b (freedIds b.outs)) (hos : ∀ o ∈ b.outs, o.usual) :
    (closeBench b).leads s fun _ y => y.orderly out k ∧ s.closedOne y b (freedIds b.outs) := by
  refine Take.leads_bind ((closeBenches_one h hb).mono fun _ x ⟨hx, hapart, hstays, htoken, hcounter, hwaiter⟩ => ?_)
  refine (deliver_leads hx hos fun id hid => List.mem_append_right _ hid).mono fun _ y ⟨hy, hf⟩ => ⟨?_, ?_⟩
  · refine hy.cleared (fun id hid => List.mem_append_left _ hid) fun id hid => (List.mem_append.1 hid).imp (fun hin => hin) fun hin => ?_
    rw [hf.waiter, if_pos hin]
  · refine ⟨hapart.trans (hf.apart _ _), fun hret => hf.inHand_iff.2 (hstays hret), hf.nextToken.trans htoken,
      fun hne => hcounter (hf.counter ▸ hne), fun id => ?_⟩
    rw [hf.waiter, hwaiter]

end

end Sys2Proof.Machine
end

section
/-! PROOFS. The quarantine and the touch on the way of a take (R7, R8, R142, R143). -/

namespace Sys2Proof.Machine

section
variable {s x y : State} {b c : Bench} {out fs ids : List Nat} {os : List Out} {k k0 j n : Nat} {T : Token}

/-! ### A slot joins the quarantine set (R142, R143) -/

theorem State.listQuarantined_lookup (hx : x.between) (n : Nat) (key : Option Key) (known : Bool) (q : Key) :
    (x.listQuarantined n key known).lookup q =
      if key = some q then (if known = true then some { slot := n, quarantined := true, holders := [] } else none) else x.lookup q := by
  have hput : ∀ e : Option Key, ((x.setQuar (Tab.put x.main.quar n e)).markFree n false).between := fun e =>
    steady_between.markFree _ _ _ (steady_between.quar x _ hx fun hr => Tab.rising_put hr n e)
  cases key with
  | none => rw [if_neg (Option.some_ne_none q).symm]; cases known <;> rfl
  | some k =>
    have hif : (if some k = some q then (if known = true then some { slot := n, quarantined := true, holders := [] } else none)
        else x.lookup q) = if k = q then (if known = true then some { slot := n, quarantined := true, holders := [] } else none)
          else x.lookup q := if_congr Option.some_inj rfl rfl
    rw [hif]
    cases known with
    | true =>
      show (((x.setQuar (Tab.put x.main.quar n (some k))).markFree n false).setIndex _).lookup q = _
      exact State.lookup_putIndex _ k q _
    | false =>
      show (((x.setQuar (Tab.put x.main.quar n none)).markFree n false).unindex k).lookup q = _
      exact State.lookup_unindex (hput none) k q

theorem State.listQuarantined_rest (x : State) (n : Nat) (key : Option Key) (known : Bool) :
    (x.listQuarantined n key known).store = x.store ∧ (x.listQuarantined n key known).main.queues = x.main.queues ∧
    (x.listQuarantined n key known).main.pool = x.main.pool ∧ (x.listQuarantined n key known).main.sched = x.main.sched ∧
    (x.listQuarantined n key known).main.mon = x.main.mon ∧
    (x.listQuarantined n key known).main.quar = Tab.put x.main.quar n (if known then key else none) ∧
    (x.listQuarantined n key known).main.free = (x.markFree n false).main.free := by
  cases key with
  | none => cases known <;> exact ⟨rfl, rfl, rfl, rfl, rfl, rfl, rfl⟩
  | some k => cases known <;> exact ⟨rfl, rfl, rfl, rfl, rfl, rfl, rfl⟩

theorem State.listQuarantined_range (h : ∀ e ∈ x.main.index, e.1 < 2 ^ 32) (n : Nat) (key : Option Key) (known : Bool) :
    ∀ e ∈ (x.listQuarantined n key known).main.index, e.1 < 2 ^ 32 := by
  cases key with
  | none => cases known <;> exact h
  | some k =>
    cases known with
    | true => exact State.range_putIndex (s := x) h k _
    | false => exact fun e he => h e (Tab.mem_del he)

/-- What the quarantine of a slot leaves: its queue, its entry in the sets and its key in the index change. -/
structure State.withdraws (s y : State) (n : Nat) (key : Option Key) : Prop where
  but     : s.sameBut y n key
  token   : y.nextToken = s.nextToken
  counter : y.counter = s.counter

/-- The quarantine of a slot: the waiters of its queue are out of it (R142, R143). -/
theorem State.orderly.withdraw (h : s.orderly out k) (hn : n < 1024) {key : Option Key} (hnames : s.namesOnly n key) {w : IdWord}
    (hw : w.holdsRecord = false) (known : Bool) :
    (((s.setQueueOf n []).commitIdent n w).listQuarantined n key known).orderly (out ++ s.queueOf n) k ∧
      s.withdraws (((s.setQueueOf n []).commitIdent n w).listQuarantined n key known) n key := by
  have hy0 := steady_between.setQueueOf s n [] h.between
  obtain ⟨blk, himg, hident⟩ : ∃ blk : Block SlotImg, s.store.putImage (.slot n false { (s.store.slot n).val with ident := w }) =
    s.store.setSlot n blk ∧ blk.val.ident = w := ⟨_, rfl, rfl⟩
  obtain ⟨st, hst, hy1, hcore, hslots⟩ := State.commit_slot hy0 n blk himg
  have hcommit : (s.setQueueOf n []).commitIdent n w = (s.setQueueOf n []).setStore st := hst
  rw [hcommit]
  have hy := steady_between.listQuarantined _ n key known hy1
  have hlookup := State.listQuarantined_lookup hy1 n key known
  obtain ⟨hstore, hqueues, hpool, hsched, hmon, hquar, hfree⟩ := State.listQuarantined_rest ((s.setQueueOf n []).setStore st) n key known
  have hrange := State.listQuarantined_range (x := (s.setQueueOf n []).setStore st) h.tidy.range n key known
  generalize ((s.setQueueOf n []).setStore st).listQuarantined n key known = y at *
  have hslot : ∀ m, y.store.slot m = if n = m then blk else s.store.slot m := fun m => by
    rw [hstore]
    exact hslots m
  have hqueueOf : ∀ m, y.queueOf m = if n = m then [] else s.queueOf m := fun m => by
    rw [State.queueOf, hqueues]
    exact State.queueOf_setQueueOf h.between n m []
  have hquarOf : ∀ m, Tab.find? y.main.quar m = if n = m then some (if known then key else none) else Tab.find? s.main.quar m := fun m => by
    rw [hquar, Tab.find?_put]
    rfl
  have htoken : y.store.token = s.store.token := by rw [hstore, show ((s.setQueueOf n []).setStore st).store = st from rfl, hcore]; rfl
  have hzone : y.store.zone = s.store.zone := by rw [hstore, show ((s.setQueueOf n []).setStore st).store = st from rfl, hcore]; rfl
  have hbut : s.sameBut y n key := by
    refine ⟨fun m hm => by rw [hslot, if_neg (Ne.symm hm)], fun m hm => ?_, fun m hm => by rw [hquarOf, if_neg (Ne.symm hm)],
      fun m hm => by rw [hqueueOf, if_neg (Ne.symm hm)], fun q hq => (hlookup q).trans (if_neg hq), fun id => by rw [State.waiter, hpool]; rfl⟩
    rw [State.isFree, hfree]
    exact State.isFree_markFree_ne _ hm false
  have hcounter : y.counter = s.counter := by rw [State.counter, htoken]; rfl
  have hnext : y.nextToken = s.nextToken := by
    show (y.store.token.value).getD 1 = (s.store.token.value).getD 1
    rw [htoken]
  have hstatus : y.settledAs n key s.counter := by
    refine .inr (.inl ⟨?_, ?_, by rw [hqueueOf, if_pos rfl], ?_⟩)
    · rw [State.isFree, hfree]
      exact State.isFree_markFree_false _ n
    · rw [hslot, if_pos rfl, hident]
      exact hw
    · rw [hquarOf, if_pos rfl]
      cases key with
      | none => exact .inl ⟨by cases known <;> rfl, nofun⟩
      | some k =>
        cases known with
        | false => exact .inl ⟨rfl, fun k' hk' => by rw [hlookup, if_pos hk']; rfl⟩
        | true => exact .inr ⟨k, [], rfl, rfl, by rw [hlookup, if_pos rfl]; rfl⟩
  have htidy := h.tidy.change hn hbut hnames hstatus (fun t ht => ⟨t, ht, Nat.le_refl t⟩) hrange
    (by rw [hsched]; exact h.tidy.sched) (gone := s.queueOf n) (by rw [hqueueOf, if_pos rfl]; exact List.nodup_nil)
    (fun id hid => by rw [hqueueOf, if_pos rfl] at hid; exact absurd hid List.not_mem_nil) (fun id hid => .inr hid) fun id hid => hid
  have hseen : (fun m => m < 1024 ∨ m = n) = (· < 1024) := funext fun m => propext ⟨fun hm => hm.elim (fun hm => hm) fun heq => heq ▸ hn, .inl⟩
  rw [hseen] at htidy
  refine ⟨⟨hy, ?_, ⟨?_, ?_, ?_⟩, by rw [hcounter]; exact htidy, ?_⟩, hbut, hnext, hcounter⟩
  · rw [State.inFault, hmon]
    exact h.normal
  · rw [htoken]
    exact h.footed.counter
  · rw [hzone]
    exact h.footed.zones
  · rw [hmon]
    exact h.footed.cursor
  · have hwaiting : y.waiting (out ++ s.queueOf n) ≤ s.waiting out := State.waiting_congr fun id hsome hnot =>
      ⟨hbut.waiter id ▸ hsome, fun hin => hnot (List.mem_append_left _ hin)⟩
    have hroom := h.room
    rw [State.roomFor] at hroom ⊢
    rw [hnext]
    omega

theorem State.keyOfSlot_held (hs : s.between) (h : s.tidy (· < 1024) out s.counter) {q : Key} (hin : s.inHand n)
    (hkey : (s.store.slot n).val.ident.key = some q) : ∃ e, s.keyOfSlot n = some (q, e) := by
  obtain ⟨-, q', hd, hkey', hlook⟩ := h.held n hin.1 hin
  obtain rfl := Option.some.inj (hkey.symm.trans hkey')
  rw [State.keyOfSlot]
  cases hfind : List.find? (fun e : Nat × IndexEntry => e.2.slot == n) s.main.index with
  | none =>
    have hnone := List.find?_eq_none.1 hfind _ (Tab.mem_of_find? hlook)
    exact absurd (beq_self_eq_true n) hnone
  | some e =>
    have hmem := List.mem_of_find?_eq_some hfind
    have hslot : e.2.slot = n := by simpa using List.find?_some hfind
    have hq := (h.namesOnly_held hin hkey _ _ (State.lookup_of_mem hs hmem (h.range e hmem))).1 hslot
    exact ⟨e.2, by rw [Option.map_some, ← Option.some.inj hq]⟩

theorem quarantineOuts_usual {now : Tick} {n : Nat} {key : Key} {holders : List (Nat × Token)} {ws : List (Nat × Waiter)} :
    (∀ o ∈ quarantineOuts now n key holders ws, o.usual) ∧ freedIds (quarantineOuts now n key holders ws) = ws.map Prod.fst := by
  constructor
  · intro o ho
    rcases List.mem_append.1 ho with ho | ho
    · obtain ⟨g, -, ho⟩ := List.mem_flatMap.1 ho
      rcases List.mem_pair.1 ho with rfl | rfl <;> exact .inl trivial
    · obtain ⟨p, -, ho⟩ := List.mem_flatMap.1 ho
      rcases List.mem_cons.1 ho with rfl | ho
      · exact .inr ⟨_, _, rfl⟩
      · rcases List.mem_pair.1 ho with rfl | rfl <;> exact .inl trivial
  · rw [quarantineOuts, freedIds_append]
    have hholders : freedIds (holders.flatMap fun h =>
        [.remove (.grant n h.2), .notice h.1 (grantNotice now .revoked .quarantine key h.2)]) = [] := by
      induction holders with
      | nil => rfl
      | cons h hs ih =>
        rw [List.flatMap_cons, freedIds_append, ih]
        rfl
    rw [hholders, List.nil_append]
    induction ws with
    | nil => rfl
    | cons p ws ih =>
      rw [List.flatMap_cons, freedIds_append, ih]
      rfl

/-- The quarantine of the slot of a record (R142). -/
theorem quarantineWork_leads (h : s.orderly out k) {q : Key} (hin : s.inHand n) (hkey : (s.store.slot n).val.ident.key = some q) :
    (quarantineWork n).leads s fun outs y => y.orderly (out ++ freedIds outs) k ∧ (∀ o ∈ outs, o.usual) ∧
      s.withdraws y n (some q) := by
  obtain ⟨e, he⟩ := State.keyOfSlot_held h.between h.tidy hin hkey
  obtain ⟨hy, hw⟩ := h.withdraw hin.1 (h.tidy.namesOnly_held hin hkey) (quarantinedIdent_holdsRecord (s.store.slot n))
    (identReadable (s.store.slot n))
  refine Take.leads_get (Take.leads_bind (Take.leads_set (Take.leads_pure ?_)))
  rw [he]
  dsimp only
  obtain ⟨husual, hfreed⟩ := quarantineOuts_usual (now := s.now) (n := n) (key := (some q).getD 0) (holders := e.holders)
    (ws := s.waitersOf n)
  rw [hfreed, h.tidy.waitersOf]
  exact ⟨hy, husual, hw⟩

/-! ### The touch (R7, R8) -/

/-- A handoff that issues a token leaves a grant. -/
theorem handoffOver_issued {now : Tick} : ∀ (q : List (Nat × Waiter)) (b : Bench),
    (handoffOver now q b).issued = b.issued ∨ (handoffOver now q b).body.grants ≠ []
  | [], _ => .inl rfl
  | (id, w) :: q, b => by
    have hgranted : (b.grantWaiter now id w).body.grants ≠ [] := List.append_ne_nil_of_right_ne_nil _ (List.cons_ne_nil _ _)
    rw [handoffOver]
    split
    · exact handoffOver_issued q (b.emit (timeoutOuts now b.body.key id w))
    · split
      · split
        · obtain ⟨new, hnew, -⟩ := (handoffOver_grown (now := now) q (b.grantWaiter now id w)).grants
          rw [hnew]
          exact .inr (List.append_ne_nil_of_left_ne_nil hgranted new)
        · exact .inr hgranted
      · exact .inl rfl

/-- A lazy expiry that leaves a record to be retired has issued no token. -/
theorem Bench.lazyExpiry_issued {b : Bench} {now : Tick} (h : b.body.holding) (hret : (b.lazyExpiry now).toRetire = true) :
    (b.lazyExpiry now).issued = b.issued ∧ (b.lazyExpiry now).body.grants = [] := by
  have hgrants : (b.lazyExpiry now).body.grants = [] :=
    ((Bench.toRetire_iff (Bench.lazyExpiry_holding h now).summary).1 hret).2.1
  refine ⟨?_, hgrants⟩
  have hexpired : ((b.expireGrants now).timeoutWaiters now).issued = b.issued := by
    show (b.expireGrants now).issued = b.issued
    rw [Bench.expireGrants]
    split <;> rfl
  rw [Bench.lazyExpiry] at hgrants ⊢
  split at hgrants
  next hyes =>
    rw [if_pos hyes]
    exact ((handoffOver_issued _ _).resolve_right fun hne => hne hgrants).trans hexpired
  next hno =>
    rw [if_neg hno]
    exact hexpired

/-- The record of slot `n` and key `q` is in hand behind a touch, and is not to be retired. -/
structure State.opened (y : State) (ids : List Nat) (k n : Nat) (q : Key) (T : Token) (b : Bench) : Prop where
  carries : y.carries ids k T b (freedIds b.outs)
  slot    : b.slot = n
  key     : b.body.key = q
  old     : b.isNew = false
  usual   : ∀ o ∈ b.outs, o.usual
  stays   : b.toRetire = false

/-- What a touch leaves of the rest. -/
structure State.besides (s y : State) (n : Nat) (q : Key) : Prop where
  apart   : s.apart y [n] [q]
  token   : y.nextToken = s.nextToken
  counter : y.counter ≠ none → s.counter ≠ none

theorem State.withdraws.besides {q : Key} (h : s.withdraws y n (some q)) : s.besides y n q :=
  ⟨h.but.apart List.mem_cons_self fun _ hq => List.mem_singleton.2 (Option.some.inj hq).symm, h.token, fun hne => h.counter ▸ hne⟩

theorem State.beside.besides (h : s.beside x) (n : Nat) (q : Key) : s.besides x n q := ⟨h.apart _ _, (h.frees).nextToken, fun hne => h.counter ▸ hne⟩

theorem State.besides.trans {q : Key} (h : s.besides x n q) (h' : x.besides y n q) : s.besides y n q :=
  ⟨h.apart.trans h'.apart, h'.token.trans h.token, fun hne => h.counter (h'.counter hne)⟩

theorem State.frees.besides {ids : List Nat} (h : s.frees x ids) (n : Nat) (q : Key) : s.besides x n q :=
  ⟨h.apart _ _, h.nextToken, fun hne => h.counter ▸ hne⟩

/-- How a touch ends: with the record in hand and nothing to hand over, or with the record quarantined or retired. -/
structure State.touches (s y : State) (ids : List Nat) (k n : Nat) (q : Key) (T : Token) (r : Touched × List Out) : Prop where
  besides : s.besides y n q
  waiter  : ∀ id, y.waiter id = s.waiter id
  usual   : ∀ o ∈ r.2, o.usual
  held    : ∀ b, r.1 = .held b → r.2 = [] ∧ y.opened ids k n q T b
  gone    : r.1 = .gone → y.lookup q = none

/-- Lazy expiry and the first check of R15 on a record in hand (R8, R15). -/
theorem freshenHeld_leads (h : s.orderly out k0) (hb : s.carries ids k T b []) (hslot : b.slot = n) {q : Key}
    (hkey : b.body.key = q) (hold : b.isNew = false) (houts : b.outs = []) (hissued : b.issued = 0) :
    (freshenHeld b).leads s fun r y => y.orderly (out ++ freedIds r.2) k0 ∧ s.touches y ids k n q T r := by
  obtain ⟨os, hw⟩ := b.worked_lazyExpiry s.now
  have hafter := hb.work (j := 0) h hw
  rw [List.nil_append] at hafter
  have hos : (b.lazyExpiry s.now).outs = os := by rw [hw.outs, houts]; rfl
  have husual : ∀ o ∈ os, o.usual := hw.usual hb.handling.slot
  have hkeyc : (b.lazyExpiry s.now).body.key = q := hw.key.trans hkey
  have hslotc : (b.lazyExpiry s.now).slot = n := hw.slot.trans hslot
  refine Take.leads_get (Take.leads_ite (fun hret => ?_) fun hret => Take.leads_pure ?_)
  · obtain ⟨hzero, hgrants⟩ := Bench.lazyExpiry_issued hb.handling.holding hret
    have hnone : (b.lazyExpiry s.now).issued = 0 := hzero.trans hissued
    have hroom : s.roomFor s.nextToken (out ++ freedIds os) k0 := by
      have hle : s.waiting (out ++ freedIds os) ≤ s.waiting out := State.waiting_congr fun id hsome hnot =>
        ⟨hsome, fun hin => hnot (List.mem_append_left _ hin)⟩
      have hr := h.room
      rw [State.roomFor] at hr ⊢
      omega
    generalize b.lazyExpiry s.now = c at *
    refine Take.leads_bind ((closeBenches_leads (l := [(c, freedIds os)]) (T := s.nextToken) (k := k0) h (List.nodup_singleton _)
      (List.nodup_singleton _) (List.forall_mem_singleton.2 hafter.handling)
      (fun _ p hp g hg => by rw [List.mem_singleton.1 hp, hgrants] at hg; exact absurd hg List.not_mem_nil) (Nat.le_refl _)
      (fun ⟨p, hp, hpos⟩ => absurd hpos (by rw [List.mem_singleton.1 hp, hnone]; exact Nat.lt_irrefl 0)) (fun _ => rfl)
      (by rw [List.flatMap_singleton]; exact hroom)).mono fun _ y ⟨hy, hc, ht, hn⟩ => Take.leads_pure ?_)
    rw [List.flatMap_singleton] at hy
    have hapart : s.apart y [c.slot] [c.body.key] := hc.apart
    rw [hslotc, hkeyc] at hapart
    refine ⟨by rw [hos]; exact hy, ⟨⟨hapart, ht, hn⟩, hc.waiter, by rw [hos]; exact husual, nofun, fun _ => ?_⟩⟩
    rw [← hkeyc]
    exact hc.gone (c, freedIds os) List.mem_cons_self hret
  · have hnil : freedIds (Touched.held (b.lazyExpiry s.now), ([] : List Out)).2 = [] := rfl
    refine ⟨by rw [hnil, List.append_nil]; exact h, ⟨(State.beside.refl s).besides n q, fun _ => rfl, nofun, fun c hc => ⟨rfl, ?_⟩, nofun⟩⟩
    obtain rfl := Touched.held.inj hc
    exact ⟨by rw [hos]; exact hafter, hslotc, hkeyc, hw.isNew.trans hold, by rw [hos]; exact husual, by simpa using hret⟩

end

end Sys2Proof.Machine
end

section
/-! PROOFS. The touch with its results handed over, FREE slots, and quarantined slots on the way of a take (R8, R9, R149). -/

namespace Sys2Proof.Machine

section
variable {s x y : State} {b c : Bench} {out fs ids : List Nat} {os : List Out} {k k0 j n : Nat} {T : Token} {q : Key}

theorem State.frees.roomFor (h : s.frees x []) (hroom : s.roomFor T out k) : x.roomFor T out k := by
  have hwaiter : ∀ id, x.waiter id = s.waiter id := fun id => (h.waiter id).trans (if_neg List.not_mem_nil)
  rw [State.roomFor, State.waiting]
  simp only [hwaiter]
  exact hroom

theorem State.carries.of_frees (hb : s.carries out k T b fs) (h : s.frees x []) : x.carries out k T b fs :=
  ⟨hb.handling.of_apart (h.apart [] []) List.not_mem_nil List.not_mem_nil fun hne => h.counter ▸ hne,
    by rw [h.nextToken]; exact hb.later, hb.token, h.roomFor hb.room, by rw [h.queueOf]; exact hb.fresh⟩

theorem State.opened.of_frees (hb : s.opened out k n q T b) (h : s.frees x []) : x.opened out k n q T b :=
  ⟨hb.carries.of_frees h, hb.slot, hb.key, hb.old, hb.usual, hb.stays⟩

/-! ### The touch (R7, R8, R9) -/

/-- All ten words of the slot are read, and the record is in hand, or the slot is quarantined (R134, R142). -/
theorem openHeld_leads (h : s.orderly out k0) (hin : s.inHand n) (hkey : (s.store.slot n).val.ident.key = some q) (tok : Option Token) :
    (openHeld n tok).leads s fun r y => (∀ b, r = .ok b → y.orderly out k0 ∧ s.beside y ∧ b = y.bench n tok) ∧
      ∀ outs, r = .error outs → y.orderly (out ++ freedIds outs) k0 ∧ (∀ o ∈ outs, o.usual) ∧ s.besides y n q ∧
        ∀ id, y.waiter id = s.waiter id := by
  refine Take.leads_bind ((readWords_leads n _ h).mono fun ok x ⟨hx, hb⟩ => Take.leads_ite (fun _ => ?_) fun _ => ?_)
  · exact Take.leads_get (Take.leads_pure ⟨fun c hc => ⟨hx, hb, (Except.ok.inj hc).symm⟩, nofun⟩)
  · have hkeyx : (x.store.slot n).val.ident.key = some q := by
      rw [hb.store.slots n]
      exact hkey
    refine Take.leads_bind ((quarantineWork_leads hx (hb.inHand_iff.2 hin) hkeyx).mono fun outs y ⟨hy, husual, hw⟩ =>
      Take.leads_pure ⟨nofun, fun outs' ho => ?_⟩)
    obtain rfl := Except.error.inj ho
    exact ⟨hy, husual, (hb.besides n q).trans hw.besides, fun id => (hw.but.waiter id).trans (hb.waiter id)⟩

theorem State.orderly.opened_bench (h : s.orderly out k0) (hin : s.inHand n) (hkey : (s.store.slot n).val.ident.key = some q)
    {tok : Option Token} (hT : tok.getD s.nextToken = T) (hlater : s.nextToken.toNat ≤ T.toNat) (hroom : s.roomFor T ids k)
    (hfresh : ∀ id ∈ s.queueOf n, id ∉ ids) : s.carries ids k T (s.bench n tok) [] ∧ (s.bench n tok).body.key = q := by
  subst hT
  refine ⟨h.carries_bench hin hlater hroom hfresh, ?_⟩
  show (s.store.slot n).val.ident.key.getD 0 = q
  rw [hkey]
  rfl

/-- The touch of a record, its results still to be handed over. -/
theorem touchHeld_leads (h : s.orderly out k0) (hin : s.inHand n) (hkey : (s.store.slot n).val.ident.key = some q)
    {tok : Option Token} (hT : tok.getD s.nextToken = T) (hlater : s.nextToken.toNat ≤ T.toNat) (hroom : s.roomFor T ids k)
    (hfresh : ∀ id ∈ s.queueOf n, id ∉ ids) : (touchHeld n tok).leads s fun r y => y.orderly (out ++ freedIds r.2) k0 ∧ s.touches y ids k n q T r := by
  refine Take.leads_bind ((openHeld_leads h hin hkey tok).mono fun r x ⟨hok, herror⟩ => ?_)
  cases r with
  | error outs =>
    obtain ⟨hx, husual, hbut, hwaiter⟩ := herror outs rfl
    exact Take.leads_pure ⟨hx, hbut, hwaiter, husual, nofun, nofun⟩
  | ok b =>
    obtain ⟨hx, hb, rfl⟩ := hok b rfl
    have hkeyx : (x.store.slot n).val.ident.key = some q := by
      rw [hb.store.slots n]
      exact hkey
    have hnext := (hb.frees).nextToken
    obtain ⟨hcarries, hbkey⟩ := hx.opened_bench (hb.inHand_iff.2 hin) hkeyx (tok := tok) (by rw [hnext]; exact hT)
      (by rw [hnext]; exact hlater) ((hb.frees).roomFor hroom) (by rw [hb.queueOf]; exact hfresh)
    refine (freshenHeld_leads hx hcarries rfl hbkey rfl rfl rfl).mono fun r y ⟨hy, ht⟩ => ⟨hy, ?_⟩
    exact ⟨(hb.besides n q).trans ht.besides, fun id => (ht.waiter id).trans (hb.waiter id), ht.usual, ht.held, ht.gone⟩

/-- What a touch leaves once its results are handed over. -/
structure State.touchedTo (s y : State) (out : List Nat) (k n : Nat) (q : Key) (r : Touched) : Prop where
  orderly : y.orderly out k
  besides : s.besides y n q
  held    : ∀ b, r = .held b → y.opened out k n q y.nextToken b
  gone    : r = .gone → y.lookup q = none

/-- Results of commits made are handed over: their waiters are gone. -/
theorem deliver_cleared (h : s.orderly (out ++ freedIds os) k) (hos : ∀ o ∈ os, o.usual) :
    (deliver os).leads s fun _ y => y.orderly out k ∧ s.frees y (freedIds os) := by
  refine (deliver_leads h hos fun id hid => List.mem_append_right _ hid).mono fun _ y ⟨hy, hf⟩ => ⟨?_, hf⟩
  refine hy.cleared (fun id hid => List.mem_append_left _ hid) fun id hid => (List.mem_append.1 hid).imp (fun hin => hin) fun hin => ?_
  rw [hf.waiter, if_pos hin]

theorem State.touches.delivered {r : Touched × List Out} (ht : s.touches x out k n q s.nextToken r) (hy : y.orderly out k)
    (hf : x.frees y (freedIds r.2)) : s.touchedTo y out k n q r.1 := by
  have hbut := ht.besides.trans (hf.besides n q)
  refine ⟨hy, hbut, fun b hb => ?_, fun hgone => (hf.lookup q).trans (ht.gone hgone)⟩
  obtain ⟨hnil, hopened⟩ := ht.held b hb
  rw [hnil] at hf
  rw [hbut.token]
  exact hopened.of_frees hf

/-- No waiter of a queue is about to be freed. -/
theorem State.orderly.unfreed (h : s.orderly out k) (n : Nat) : ∀ id ∈ s.queueOf n, id ∉ out := fun id hid =>
  ((h.tidy.queues n).2 id hid).1

theorem touch_leads (h : s.orderly out k) (hin : s.inHand n) (hkey : (s.store.slot n).val.ident.key = some q) :
    (touch n none).leads s fun r y => s.touchedTo y out k n q r :=
  Take.leads_bind ((touchHeld_leads h hin hkey (tok := none) rfl (Nat.le_refl _) h.room (h.unfreed n)).mono fun _ _ ⟨hx, ht⟩ =>
    Take.leads_bind ((deliver_cleared hx ht.usual).mono fun _ _ ⟨hy, hf⟩ => Take.leads_pure (ht.delivered hy hf)))

/-- The record of an event, in hand before lazy expiry (R40). -/
theorem openSlot_leads (h : s.orderly out k) (hin : s.inHand n) (hkey : (s.store.slot n).val.ident.key = some q) :
    (openSlot n none).leads s fun r y => y.orderly out k ∧ s.besides y n q ∧ ∀ b, r = some b → s.beside y ∧ b = y.bench n none := by
  refine Take.leads_bind ((openHeld_leads h hin hkey none).mono fun r x ⟨hok, herror⟩ => ?_)
  cases r with
  | error outs =>
    obtain ⟨hx, husual, hbut, -⟩ := herror outs rfl
    exact Take.leads_bind ((deliver_cleared hx husual).mono fun _ y ⟨hy, hf⟩ =>
      Take.leads_pure ⟨hy, hbut.trans (hf.besides n q), nofun⟩)
  | ok b =>
    obtain ⟨hx, hb, hbench⟩ := hok b rfl
    exact Take.leads_pure ⟨hx, hb.besides n q, fun c hc => Option.some.inj hc ▸ ⟨hb, hbench⟩⟩

theorem freshen_leads (h : s.orderly out k) (hin : s.inHand n) (hkey : (s.store.slot n).val.ident.key = some q) :
    (freshen (s.bench n none)).leads s fun r y => s.touchedTo y out k n q r := by
  obtain ⟨hcarries, hbkey⟩ := h.opened_bench hin hkey (tok := none) rfl (Nat.le_refl _) h.room (h.unfreed n)
  exact Take.leads_bind ((freshenHeld_leads h hcarries rfl hbkey rfl rfl rfl).mono fun _ _ ⟨hx, ht⟩ =>
    Take.leads_bind ((deliver_cleared hx ht.usual).mono fun _ _ ⟨hy, hf⟩ => Take.leads_pure (ht.delivered hy hf)))

/-! ### FREE slots and quarantined slots (R11, R143, R149) -/

theorem State.setQueueOf_same (hs : s.between) (h : s.queueOf n = []) : s.setQueueOf n [] = s := by
  show s.setQueues (Tab.set [] s.main.queues n []) = s
  have hset : Tab.set [] s.main.queues n [] = s.main.queues :=
    calc Tab.set [] s.main.queues n [] = Tab.set [] s.main.queues n (Tab.get [] s.main.queues n) :=
          congrArg (Tab.set [] s.main.queues n) h.symm
      _ = s.main.queues := Tab.set_get (State.between_queues hs) n
  rw [hset]
  rfl

/-- Word 0 of a FREE slot is read, and the slot stays FREE or is quarantined (R11, R143). -/
theorem checkFreeSlot_leads (h : s.orderly out k) (hn : n < 1024) (hfree : s.isFree n = true) :
    (checkFreeSlot n).leads s fun ok y => y.orderly out k ∧ (ok = true → s.beside y) ∧ s.apart y [n] [] ∧
      y.nextToken = s.nextToken ∧ y.counter = s.counter ∧ ∀ id, y.waiter id = s.waiter id := by
  refine Take.leads_bind ((readWords_leads n 1 h).mono fun ok x ⟨hx, hb⟩ => Take.leads_ite (fun _ => ?_) fun _ => ?_)
  · exact Take.leads_pure ⟨hx, fun _ => hb, hb.apart _ _, (hb.frees).nextToken, hb.counter, hb.waiter⟩
  · have hfreex : x.isFree n = true := (hb.isFree n).trans hfree
    have hempty := hx.queueOf_free hfreex
    obtain ⟨hy, hw⟩ := hx.withdraw hn (hx.tidy.namesOnly_free (key := none) hfreex nofun) (w := IdWord.lost) rfl false
    rw [State.setQueueOf_same hx.between hempty, hempty, List.append_nil] at hy
    rw [State.setQueueOf_same hx.between hempty] at hw
    exact Take.leads_bind (Take.leads_modify (Take.leads_pure ⟨hy, fun hok => Bool.noConfusion hok,
      (hb.apart _ _).trans (hw.but.apart List.mem_cons_self nofun), hw.token.trans (hb.frees).nextToken,
      hw.counter.trans hb.counter, fun id => (hw.but.waiter id).trans (hb.waiter id)⟩))

end

end Sys2Proof.Machine
end

section
/-! PROOFS. The settle of a session and the session step on the way of a take (R69, R73, R74). -/

namespace Sys2Proof.Machine

section
variable {s x y : State} {b c : Bench} {out fs : List Nat} {os : List Out} {k j n : Nat} {q : Key}

/-! ### The close of a record that a touch has opened -/

/-- What the close of a record opened by a touch leaves. -/
structure State.closedAt (s y : State) (out : List Nat) (k n : Nat) (q : Key) : Prop where
  orderly : y.orderly out k
  apart   : s.apart y [n] [q]

theorem State.opened.close (h : s.orderly out k) (ho : s.opened out (k + j) n q s.nextToken b) (hw : b.worked c os j) :
    (closeBench c).leads s fun _ y => s.closedAt y out k n q := by
  have hids : freedIds c.outs = freedIds b.outs ++ freedIds os := by rw [hw.outs, freedIds_append]
  have hcarries := ho.carries.work h hw
  rw [← hids] at hcarries
  have husual : ∀ o ∈ c.outs, o.usual := by
    rw [hw.outs]
    exact List.forall_mem_append.2 ⟨ho.usual, hw.usual ho.carries.handling.slot⟩
  refine (closeBench_leads h hcarries husual).mono fun _ y ⟨hy, hc⟩ => ?_
  have hapart := hc.apart
  rw [hw.slot, ho.slot, hw.key, ho.key] at hapart
  exact ⟨hy, hapart⟩

/-- The record in hand as the touch has left it. -/
theorem State.opened.closeSame (h : s.orderly out k) (ho : s.opened out k n q s.nextToken b) :
    (closeBench b).leads s fun _ y => s.closedAt y out k n q :=
  State.opened.close (j := 0) h ho (Bench.worked.refl b)

theorem State.orderly.keyOf (h : s.orderly out k) (hin : s.inHand n) : ∃ q, (s.store.slot n).val.ident.key = some q := by
  obtain ⟨-, q, hd, hkey, -⟩ := h.tidy.held n hin.1 hin
  exact ⟨q, hkey⟩

theorem State.apart.inHand_of {ks : List Key} (h : s.apart x [n] ks) {m : Nat} (hm : m ≠ n) (hin : s.inHand m) : x.inHand m :=
  (h.inHand_iff (fun hmem => hm (List.mem_singleton.1 hmem))).2 hin

/-! ### The records that the index names -/

theorem State.orderly.indexed_inHand (h : s.orderly out k) {e : Nat × IndexEntry} (he : e ∈ s.main.index)
    (hq : e.2.quarantined = false) : s.inHand e.2.slot :=
  ((h.tidy.index _ e.2 (State.lookup_of_mem h.between he (h.tidy.range e he))).2 hq).2.1

theorem Tab.nodup_of_risingFrom {α : Type} : ∀ {t : Tab α} {lo : Nat}, Tab.risingFrom lo t = true → t.Nodup
  | [], _, _ => List.nodup_nil
  | (n, v) :: t, lo, h => by
    simp only [Tab.risingFrom, Bool.and_eq_true, decide_eq_true_eq] at h
    refine List.nodup_cons.2 ⟨fun hmem => ?_, Tab.nodup_of_risingFrom h.2⟩
    have hfind := Tab.find?_eq_of_mem_of_rising h.2 _ hmem
    rw [Tab.find?_eq_none_of_risingFrom h.2 (Nat.lt_succ_self _)] at hfind
    cases hfind

/-- The records that the index names are in distinct slots (R5). -/
theorem State.orderly.indexed_slots (h : s.orderly out k) {p : Nat × IndexEntry → Bool}
    (hp : ∀ e, p e = true → e.2.quarantined = false) : ((s.main.index.filter p).map fun e => e.2.slot).Nodup ∧
      ∀ m ∈ (s.main.index.filter p).map fun e => e.2.slot, s.inHand m := by
  have hentry : ∀ e ∈ s.main.index.filter p, s.inHand e.2.slot ∧ s.lookup (BitVec.ofNat 32 e.1) = some e.2 ∧ e.1 < 2 ^ 32 :=
    fun e he => by
      obtain ⟨hmem, hpe⟩ := List.mem_filter.1 he
      have hlt := h.tidy.range e hmem
      exact ⟨h.indexed_inHand hmem (hp e hpe), State.lookup_of_mem h.between hmem hlt, hlt⟩
  constructor
  · refine List.Nodup.map_on (fun e he e' he' hslot => ?_) ((Tab.nodup_of_risingFrom (State.index_rising h.between)).filter p)
    obtain ⟨hin, hlook, hlt⟩ := hentry e he
    obtain ⟨-, hlook', hlt'⟩ := hentry e' he'
    obtain ⟨q, hkey⟩ := h.keyOf hin
    have hnames := h.tidy.namesOnly_held hin hkey
    have hq := (hnames _ _ hlook).1 rfl
    have hq' := (hnames _ _ hlook').1 hslot.symm
    have hone : e.1 = e'.1 := by
      have hkeys := congrArg BitVec.toNat (Option.some.inj (hq.symm.trans hq'))
      rwa [BitVec.ofNat_toNat_of_lt hlt, BitVec.ofNat_toNat_of_lt hlt'] at hkeys
    have htwo : e.2 = e'.2 := by
      rw [hone] at hlook
      exact Option.some.inj (hlook.symm.trans hlook')
    exact Prod.ext hone htwo
  · intro m hm
    obtain ⟨e, he, rfl⟩ := List.mem_map.1 hm
    exact (hentry e he).1

/-! ### The settle of a session (R74 to R76) -/

theorem settleRecords_leads (form : SettleForm) (c : Nat) : ∀ {ns : List Nat} {s : State}, s.orderly out k → ns.Nodup →
    (∀ n ∈ ns, s.inHand n) → (settleRecords form c ns).leads s fun _ y => y.orderly out k
  | [], s, h, _, _ => h
  | n :: ns, s, h, hnodup, hall => by
    obtain ⟨hin, hrest⟩ := List.forall_mem_cons.1 hall
    obtain ⟨hn, hns⟩ := List.nodup_cons.1 hnodup
    obtain ⟨q, hkey⟩ := h.keyOf hin
    have hother : ∀ {x : State}, s.apart x [n] [q] → ∀ m ∈ ns, x.inHand m := fun hx m hm =>
      hx.inHand_of (fun heq => hn (heq ▸ hm)) (hrest m hm)
    have hone : ∀ {x : State}, x.orderly out k → s.apart x [n] [q] → x.orderly out k ∧ ∀ m ∈ ns, x.inHand m :=
      fun hx hapart => ⟨hx, hother hapart⟩
    refine Take.leads_bind (Take.leads.mono (Q := fun _ x => x.orderly out k ∧ ∀ m ∈ ns, x.inHand m) (Take.leads_bind
      ((touch_leads h hin hkey).mono fun r x ht => ?_)) fun i x ⟨hx, hin⟩ =>
        Take.leads_bind ((settleRecords_leads form c hx hns hin).mono fun _ _ hy => Take.leads_pure hy))
    cases r with
    | quarantined => exact Take.leads_pure (hone ht.orderly ht.besides.apart)
    | gone => exact Take.leads_pure (hone ht.orderly ht.besides.apart)
    | held b =>
      obtain ⟨os, hw⟩ := b.worked_settleWork form x.now c
      exact Take.leads_get (Take.leads_bind ((State.opened.close (j := 0) ht.orderly (ht.held b rfl) hw).mono fun _ y hy =>
        Take.leads_pure (hone hy.orderly (ht.besides.apart.trans hy.apart))))

theorem State.halted.of_main (h : s.halted) (hx : x.between) (hstore : x.store = s.store) (hmon : x.main.mon = s.main.mon) :
    x.halted := by
  refine ⟨?_, hx, ⟨?_, ?_, ?_⟩, ?_⟩
  · rw [State.inFault, hmon]
    exact h.fault
  · rw [hstore]
    exact h.footed.counter
  · rw [hstore]
    exact h.footed.zones
  · rw [hmon]
    exact h.footed.cursor
  · rw [hstore]
    exact h.room

theorem State.halted.discardWaiters (h : s.halted) (c : Nat) : (s.discardWaiters c).halted := by
  have hqueues : ∀ (l : List Nat) (g : State → Nat → List Nat) (x : State),
      (l.foldl (fun x n => x.setQueueOf n (g x n)) x).store = x.store ∧
        (l.foldl (fun x n => x.setQueueOf n (g x n)) x).main.mon = x.main.mon := fun l g => by
    induction l with
    | nil => exact fun x => ⟨rfl, rfl⟩
    | cons n l ih => exact fun x => ih (x.setQueueOf n (g x n))
  have hsched : ∀ (l : List Nat) (x : State), (l.foldl (fun x id => x.schedRemove (.waiter id)) x).store = x.store ∧
      (l.foldl (fun x id => x.schedRemove (.waiter id)) x).main.mon = x.main.mon := fun l => by
    induction l with
    | nil => exact fun x => ⟨rfl, rfl⟩
    | cons n l ih => exact fun x => ih (x.schedRemove (.waiter n))
  refine h.of_main (steady_between.discardWaiters s c h.between) ?_ ?_
  · exact ((hsched _ _).1).trans ((hqueues _ _ _).1)
  · exact ((hsched _ _).2).trans ((hqueues _ _ _).2)

theorem State.orderly.commitSession (h : s.orderly out k) {cm : Commit} (himages : cm.images = []) (htoken : cm.token = none) :
    (s.commit cm).orderly out k := by
  obtain ⟨hcommit, hbetween⟩ := State.beside_commit h.between himages htoken
  exact h.of_beside hcommit hbetween rfl

/-- A settle, with its last part given (R74). -/
theorem settle_leads {α : Type} (form : SettleForm) (c : Nat) (e : SessEntry) {finish : Take α} (h : s.orderly out k)
    (hfinish : ∀ x : State, x.orderly out k → finish.leads x fun _ y => y.orderly out k) :
    (settle form c e finish).leads s fun _ y => y.orderly out k := by
  refine Take.leads_bind (Take.leads_modify ?_)
  have hx : (s.commit { session := some (c, { e with state := .settling, action := form.action }) }).orderly out k :=
    h.commitSession rfl rfl
  generalize s.commit { session := some (c, { e with state := .settling, action := form.action }) } = x at hx
  refine Take.leads_rethrow (Take.leads_get (Take.leads_bind ?_)) fun x hx => hx.discardWaiters c
  obtain ⟨hnodup, hall⟩ := hx.indexed_slots (p := fun e => !e.2.quarantined && (e.2.holders.any (fun h => h.1 == c) ||
    x.main.pool.any fun p => p.2.client == c && p.2.slot == e.2.slot)) fun e he => by simpa using (Bool.and_eq_true_iff.1 he).1
  exact (settleRecords_leads form c hx hnodup hall).mono fun _ y hy =>
    Take.leads_bind ((hfinish y hy).mono fun _ z hz => Take.leads_pure hz)

theorem State.orderly.schedRemove (h : s.orderly out k) (r : Ref) : (s.schedRemove r).orderly out k :=
  h.of_beside (State.beside_schedRemove s r) (steady_between.remove s r h.between) rfl

theorem State.orderly.setVol (h : s.orderly out k) (c : Nat) (v : SessVol) : (s.setVol c v).orderly out k :=
  h.of_beside (State.beside_setVol s c v) (steady_between.setVol s c v h.between) rfl

theorem State.orderly.driveLines (h : s.orderly out k) : s.driveLines.orderly out k := by
  refine h.of_beside (State.beside_driveLines s) (steady_between.driveLines s h.between) ?_
  rcases State.driveLines_cases s with heq | ⟨l, heq⟩ <;> rw [heq]
  rfl

theorem State.orderly.setNoticesOf (h : s.orderly out k) (c : Nat) : (s.setNoticesOf c NoticeQueue.empty).orderly out k :=
  h.of_beside (State.beside_setNoticesOf s c _) (steady_between.setNoticesOf s c _ h.between fun _ => by simp) rfl

theorem State.orderly.freeSession (h : s.orderly out k) (c : Nat) : (s.freeSession c).orderly out k :=
  ((((h.commitSession rfl rfl).schedRemove _).setVol c _).setNoticesOf c).driveLines

theorem State.orderly.lapseSession (h : s.orderly out k) (c : Nat) (e : SessEntry) : (s.lapseSession c e).orderly out k :=
  ((((h.commitSession rfl rfl).setVol c _).schedRemove _).setVol c _)

theorem settleRelease_leads (c : Nat) (e : SessEntry) (h : s.orderly out k) :
    (settleRelease c e).leads s fun _ y => y.orderly out k :=
  Take.leads_discard (settle_leads .release c e h fun _ hx => Take.leads_modify (hx.freeSession c))

theorem lapse_leads (c : Nat) (e : SessEntry) (h : s.orderly out k) : (lapse c e).leads s fun _ y => y.orderly out k := by
  unfold lapse
  split
  · exact Take.leads_bind ((settleRelease_leads c e h).mono fun _ _ hy => Take.leads_pure hy)
  · exact Take.leads_bind (Take.leads_discard ((settle_leads .orphan c e h fun _ hx => Take.leads_modify (hx.lapseSession c e)).mono
      fun _ _ hy => Take.leads_pure hy))

/-! ### The session step (R69, R184) -/

theorem liveEntry_leads (c : Nat) (h : s.orderly out k) : (liveEntry c).leads s fun _ y => y.orderly out k := by
  refine Take.leads_get (Take.leads_bind ((readSession_leads c h).mono fun o x ⟨hx, _⟩ => ?_))
  cases o with
  | none => exact Take.leads_pure hx
  | some e =>
    exact Take.leads_ite (fun _ => Take.leads_pure hx) fun _ => Take.leads_ite (fun _ => Take.leads_ite (fun _ => Take.leads_pure hx) fun _ =>
      Take.leads_bind ((lapse_leads c e hx).mono fun _ _ hy => Take.leads_pure hy)) fun _ => Take.leads_pure hx

theorem State.orderly.refresh (h : s.orderly out k) (c : Nat) (e : SessEntry) : (s.refresh c e).orderly out k :=
  h.of_beside ((State.beside_setVol s c _).trans (State.beside_schedMove _ _ (fun _ _ h => Ref.noConfusion h) _))
    (steady_between.refresh s c e h.between) rfl

theorem checkSession_leads (f : Frame) (h : s.orderly out k) : (checkSession f).leads s fun _ y => y.orderly out k := by
  refine Take.leads_ite (fun _ => Take.leads_pure h) fun _ => Take.leads_bind ((liveEntry_leads _ h).mono fun o x hx => ?_)
  cases o with
  | none => exact Take.leads_pure hx
  | some e =>
    exact Take.leads_ite (fun _ => Take.leads_pure hx) fun _ => Take.leads_ite (fun _ => Take.leads_pure hx) fun _ =>
      Take.leads_ite (fun _ => Take.leads_pure hx) fun _ => Take.leads_bind (Take.leads_modify (Take.leads_pure (hx.refresh _ e)))

theorem sessionStep_leads (need : Need) (f : Frame) (h : s.orderly out k) :
    (sessionStep need f).leads s fun _ y => y.orderly out k := by
  unfold sessionStep
  split
  · exact Take.leads_pure h
  · exact checkSession_leads f h
  · exact Take.leads_ite (fun _ => Take.leads_pure h) fun _ => checkSession_leads f h
  · exact Take.leads_get (Take.leads_ite (fun _ => checkSession_leads f h) fun _ => Take.leads_ite (fun _ => Take.leads_pure h)
      fun _ => Take.leads_pure h)

end

end Sys2Proof.Machine
end

section
/-! PROOFS. CREATE, RETIRE, LOOKUP, ENUMERATE and the location of a record on the way of a take (R10 to R19, R28). -/

namespace Sys2Proof.Machine

section
variable {s x y : State} {b c : Bench} {out fs : List Nat} {os : List Out} {k k0 j n : Nat} {q : Key} {T : Token}

/-! ### A record that the index names, and a new one -/

/-- The record that the index names under a key is in hand, and carries the key (R5). -/
theorem State.orderly.lookup_held (h : s.orderly out k) {e : IndexEntry} (he : s.lookup q = some e) (hq : e.quarantined ≠ true) :
    s.inHand e.slot ∧ (s.store.slot e.slot).val.ident.key = some q :=
  ((h.tidy.index q e he).2 (Bool.eq_false_iff.2 hq)).2

theorem State.lowestFree_spec {avoid : List Nat} (h : s.lowestFree avoid = some n) :
    n < 1024 ∧ s.isFree n = true ∧ n ∉ avoid := by
  have hmem := List.mem_of_find?_eq_some h
  have hprop := List.find?_some h
  simp only [Bool.and_eq_true, Bool.not_eq_true', List.contains_eq_mem, decide_eq_false_iff_not] at hprop
  exact ⟨List.mem_range.1 hmem, hprop.1, hprop.2⟩

theorem newRecord_holding (key : Key) (zone : BitVec 2) (persist : Persist) {share : Nat} (d m : Term) (h : 1 ≤ share) :
    (newRecord key zone persist share d m).holding :=
  ⟨nofun, fun hne => absurd rfl hne, List.nodup_nil, rfl, h⟩

theorem createArgsOk_share {share : Nat} {d m : Term} (h : createArgsOk share d m = true) : 1 ≤ share := by
  simp only [createArgsOk, Bool.and_eq_true, decide_eq_true_eq] at h
  obtain ⟨⟨⟨⟨hshare, _⟩, _⟩, _⟩, _⟩ := h
  exact hshare

/-- The close of a new record without grants (R11). -/
theorem closeBench_new (h : s.orderly out k) (hn : n < 1024) (hfree : s.isFree n = true) {r : Rec} (habsent : s.lookup r.key = none)
    (hgrants : r.grants = []) (hholding : r.holding) : (closeBench (newBench n 0 r)).leads s fun _ y => y.orderly out k := by
  have hb := (h.carries_newBench (T := s.nextToken) (ids := out) (k := k) hn hfree habsent hgrants hholding (Nat.le_refl _) h.room).handling
  have hnone : ∀ g ∈ r.grants, g.token.toNat < (0 : Token).toNat := by
    rw [hgrants]
    exact nofun
  have hhand : s.handling (newBench n 0 r) [] := ⟨hb.slot, hb.place, hb.holding, hb.nonzero, fun _ => hnone, hb.queue, nofun⟩
  refine Take.leads_bind ((closeBenches_leads (l := [(newBench n 0 r, [])]) (T := s.nextToken) (k := k) h (List.nodup_singleton _)
    (List.nodup_singleton _) (List.forall_mem_singleton.2 hhand) (fun _ => List.forall_mem_singleton.2 fun g hg => ?_) (Nat.le_refl _)
    (fun ⟨p, hp, hpos⟩ => absurd hpos (by rw [List.mem_singleton.1 hp]; exact Nat.lt_irrefl 0)) (fun _ => rfl)
    (by rw [List.flatMap_singleton, List.append_nil]; exact h.room)).mono fun _ y ⟨hy, _⟩ => ?_)
  · exact absurd (hnone g hg) (Nat.not_lt_zero _)
  · rw [List.flatMap_singleton, List.append_nil] at hy
    exact (deliver_leads (os := []) hy (fun o ho => absurd ho List.not_mem_nil) fun id hid => absurd hid List.not_mem_nil).mono
      fun _ _ ⟨hz, _⟩ => hz

/-! ### CREATE (R10, R11) -/

theorem keyUnused_leads (h : s.orderly out k) (q : Key) :
    (keyUnused q).leads s fun o y => y.orderly out k ∧ (o = none → y.lookup q = none) := by
  refine Take.leads_get ?_
  split
  next hnone => exact Take.leads_pure ⟨h, fun _ => hnone⟩
  next e he =>
    refine Take.leads_ite (fun _ => Take.leads_pure ⟨h, nofun⟩) fun hq => ?_
    obtain ⟨hin, hkey⟩ := h.lookup_held he hq
    refine Take.leads_bind ((touch_leads h hin hkey).mono fun r x ht => ?_)
    cases r with
    | quarantined => exact Take.leads_pure ⟨ht.orderly, nofun⟩
    | gone => exact Take.leads_pure ⟨ht.orderly, fun _ => ht.gone rfl⟩
    | held b => exact Take.leads_bind (((ht.held b rfl).closeSame ht.orderly).mono fun _ y hy => Take.leads_pure ⟨hy.orderly, nofun⟩)

theorem createIn_leads (h : s.orderly out k) (hn : n < 1024) (hfree : s.isFree n = true) {r : Rec} (habsent : s.lookup r.key = none)
    (hgrants : r.grants = []) (hholding : r.holding) : (createIn n r).leads s fun _ y => y.orderly out k := by
  refine Take.leads_bind ((checkFreeSlot_leads h hn hfree).mono fun ok x ⟨hx, hb, _⟩ => Take.leads_ite (fun hok => ?_) fun _ => Take.leads_pure hx)
  have hbeside := hb hok
  exact Take.leads_bind ((closeBench_new hx hn ((hbeside.isFree n).trans hfree) ((hbeside.lookup _).trans habsent) hgrants hholding).mono
    fun _ y hy => Take.leads_pure hy)

theorem createWork_leads (f : Frame) (h : s.orderly out k) : (createWork f).leads s fun _ y => y.orderly out k := by
  refine Take.leads_bind ((readControl_leads .zone h).mono fun map x ⟨hx, _⟩ => Take.leads_get
    (Take.leads_ite (fun _ => Take.leads_pure hx) fun _ => Take.leads_ite (fun _ => Take.leads_pure hx) fun _ =>
      Take.leads_bind ((keyUnused_leads hx _).mono fun o y ⟨hy, hnone⟩ => ?_)))
  cases o with
  | some st => exact Take.leads_pure hy
  | none =>
    generalize hlowest : State.lowestFree = lowest
    refine Take.leads_get ?_
    generalize hn : lowest y [] = o
    rw [← hlowest] at hn
    cases o with
    | none => exact Take.leads_pure hy
    | some n =>
      obtain ⟨hlt, hfree, -⟩ := State.lowestFree_spec hn
      refine Take.leads_ite (fun _ => Take.leads_pure hy) fun hargs => ?_
      exact createIn_leads hy hlt hfree (hnone rfl) rfl (newRecord_holding _ _ _ _ _ (createArgsOk_share (by simpa using hargs)))

/-! ### RETIRE (R12) -/

/-- A VACANT record with an empty queue is retired, whatever its persistence (R12). -/
theorem State.opened.closeDoomed (h : s.orderly out k) (ho : s.opened out k n q s.nextToken b) (hvacant : b.body.state = .vacant)
    (hempty : b.queue = []) : (closeBench b.doomed).leads s fun _ y => y.orderly out k := by
  have hhand := ho.carries.handling
  have hret : b.doomed.toRetire = true := by
    show (Persist.transient == .transient && b.body.state == .vacant && b.queue.isEmpty) = true
    rw [hvacant, hempty]
    rfl
  have hdoomed : s.handling b.doomed (freedIds b.outs) :=
    ⟨hhand.slot, hhand.place, ⟨hhand.holding.alone, hhand.holding.room, hhand.holding.clients, hhand.holding.summary, hhand.holding.limit⟩,
      hhand.nonzero, hhand.tokens, hhand.queue, fun hd => ⟨ho.old, fun hno => absurd (hret.symm.trans hno) Bool.noConfusion,
        (hhand.clean hd).2.2⟩⟩
  exact (closeBench_leads h ⟨hdoomed, ho.carries.later, ho.carries.token, ho.carries.room, ho.carries.fresh⟩ ho.usual).mono fun _ _ ⟨hy, _⟩ => hy

theorem retireRecord_leads (h : s.orderly out k) (q : Key) : (retireRecord q).leads s fun _ y => y.orderly out k := by
  refine Take.leads_get ?_
  split
  · exact Take.leads_pure h
  next e he =>
    refine Take.leads_ite (fun _ => Take.leads_pure h) fun hq => ?_
    obtain ⟨hin, hkey⟩ := h.lookup_held he hq
    refine Take.leads_bind ((touch_leads h hin hkey).mono fun r x ht => ?_)
    cases r with
    | quarantined => exact Take.leads_pure ht.orderly
    | gone => exact Take.leads_pure ht.orderly
    | held b =>
      refine Take.leads_ite (fun ⟨hvacant, hempty⟩ => ?_) fun _ => ?_
      · exact Take.leads_bind (((ht.held b rfl).closeDoomed ht.orderly hvacant hempty).mono fun _ _ hy => Take.leads_pure hy)
      · exact Take.leads_bind (((ht.held b rfl).closeSame ht.orderly).mono fun _ y hy => Take.leads_pure hy.orderly)

theorem retireWork_leads (f : Frame) (h : s.orderly out k) : (retireWork f).leads s fun _ y => y.orderly out k :=
  Take.leads_bind ((readControl_leads .zone h).mono fun _ _ ⟨hx, _⟩ => Take.leads_get
    (Take.leads_ite (fun _ => Take.leads_pure hx) fun _ => Take.leads_ite (fun _ => Take.leads_pure hx) fun _ => retireRecord_leads hx _))

/-! ### LOOKUP and ENUMERATE (R16, R17) -/

theorem lookupWork_leads (f : Frame) (h : s.orderly out k) : (lookupWork f).leads s fun _ y => y.orderly out k := by
  refine Take.leads_get (Take.leads_ite (fun _ => Take.leads_pure h) fun _ => ?_)
  split
  · exact Take.leads_pure h
  next e he =>
    refine Take.leads_ite (fun _ => Take.leads_pure h) fun hq => ?_
    obtain ⟨hin, hkey⟩ := h.lookup_held he hq
    refine Take.leads_get (Take.leads_ite (fun hfault => absurd hfault h.normal) fun _ => ?_)
    refine Take.leads_bind ((touch_leads h hin hkey).mono fun r x ht => ?_)
    cases r with
    | quarantined => exact Take.leads_pure ht.orderly
    | gone => exact Take.leads_pure ht.orderly
    | held b => exact Take.leads_bind (((ht.held b rfl).closeSame ht.orderly).mono fun _ y hy => Take.leads_pure hy.orderly)

/-- A record that the walk reaches is touched, and the others stay in use (R17). -/
theorem listRecord_leads (h : s.orderly out k) (q : Key) {e : IndexEntry} (hin : e.quarantined = false → s.inHand e.slot) :
    (listRecord q e).leads s fun _ y => y.orderly out k ∧
      ∀ m, (e.quarantined = false → m ≠ e.slot) → s.inHand m → y.inHand m := by
  refine Take.leads_get (Take.leads_ite (fun _ => Take.leads_pure ⟨h, fun _ _ hm => hm⟩) fun hq =>
    Take.leads_ite (fun hfault => absurd hfault h.normal) fun _ => ?_)
  have hheld := hin (Bool.eq_false_iff.2 hq)
  obtain ⟨q', hkey⟩ := h.keyOf hheld
  refine Take.leads_bind ((touch_leads h hheld hkey).mono fun r x ht => ?_)
  have hother : ∀ m, (e.quarantined = false → m ≠ e.slot) → s.inHand m → x.inHand m := fun m hm hs =>
    ht.besides.apart.inHand_of (hm (Bool.eq_false_iff.2 hq)) hs
  cases r with
  | quarantined => exact Take.leads_get (Take.leads_pure ⟨ht.orderly, hother⟩)
  | gone => exact Take.leads_pure ⟨ht.orderly, hother⟩
  | held b =>
    exact Take.leads_bind (((ht.held b rfl).closeSame ht.orderly).mono fun _ y hy => Take.leads_pure ⟨hy.orderly, fun m hm hs =>
      hy.apart.inHand_of (hm (Bool.eq_false_iff.2 hq)) (hother m hm hs)⟩)

theorem enumWalk_leads : ∀ (es : List (Nat × IndexEntry)) (left : Nat) {s : State}, s.orderly out k →
    ((es.filter fun e => !e.2.quarantined).map fun e => e.2.slot).Nodup →
    (∀ e ∈ es, e.2.quarantined = false → s.inHand e.2.slot) → (enumWalk es left).leads s fun _ y => y.orderly out k
  | [], _, _, h, _, _ => h
  | (i, e) :: es, left, s, h, hnodup, hall => by
    obtain ⟨hin, hrest⟩ := List.forall_mem_cons.1 hall
    have hnext : ((es.filter fun e => !e.2.quarantined).map fun e => e.2.slot).Nodup ∧
        ∀ p ∈ es, p.2.quarantined = false → (e.quarantined = false → p.2.slot ≠ e.slot) := by
      rw [List.filter_cons] at hnodup
      split at hnodup
      next =>
        rw [List.map_cons, List.nodup_cons] at hnodup
        exact ⟨hnodup.2, fun p hp hpq _ heq => hnodup.1 (heq ▸ List.mem_map_of_mem (List.mem_filter.2 ⟨hp, by rw [hpq]; rfl⟩))⟩
      next hq => exact ⟨hnodup, fun p _ _ heq => absurd (by rw [heq]; rfl) hq⟩
    refine Take.leads_bind ((listRecord_leads h (BitVec.ofNat 32 i) hin).mono fun o x ⟨hx, hother⟩ => ?_)
    have hwalk : ∀ m, (enumWalk es m).leads x fun _ y => y.orderly out k := fun m => enumWalk_leads es m hx hnext.1
      fun p hp hpq => hother _ (hnext.2 p hp hpq) (hrest p hp hpq)
    split
    · exact hwalk left
    · exact Take.leads_pure hx
    next bytes n => exact Take.leads_bind ((hwalk n).mono fun _ _ hy => Take.leads_pure hy)

theorem enumerateWork_leads (f : Frame) (h : s.orderly out k) : (enumerateWork f).leads s fun _ y => y.orderly out k := by
  refine Take.leads_get (Take.leads_ite (fun _ => Take.leads_pure h) fun _ => Take.leads_ite (fun _ => Take.leads_pure h) fun _ =>
    Take.leads_bind ?_)
  have hwalk := enumWalk_leads (s.main.index.filter fun e => (keyAt f.args 0).toNat ≤ e.1) (byteAt f.args 4).toNat h (by
    rw [List.filter_filter]
    exact (h.indexed_slots (p := fun e => !e.2.quarantined && decide ((keyAt f.args 0).toNat ≤ e.1))
      fun e he => by simpa using (Bool.and_eq_true_iff.1 he).1).1) fun e he hq => h.indexed_inHand (List.mem_of_mem_filter he) hq
  exact hwalk.mono fun _ _ hy => Take.leads_pure hy

/-! ### The location of a record for an acquisition (R13, R28) -/

/-- The record of an acquisition in hand: one that a touch has opened, or one prepared in a FREE slot. -/
structure State.located (y : State) (ids : List Nat) (k : Nat) (q : Key) (T : Token) (b : Bench) : Prop where
  carries : y.carries ids k T b (freedIds b.outs)
  key     : b.body.key = q
  usual   : ∀ o ∈ b.outs, o.usual
  old     : b.isNew = false → b.toRetire = false
  new     : b.isNew = true → b.body.grants = [] ∧ b.queue = [] ∧ b.outs = [] ∧ b.issued = 0

theorem State.opened.located (h : s.opened out k n q T b) : s.located out k q T b :=
  ⟨h.carries, h.key, h.usual, fun _ => h.stays, fun hnew => absurd (h.old.symm.trans hnew) Bool.false_ne_true⟩

theorem preparedRecord_holding (h : s.footed) {map : ZoneMap} (hmap : zoneWord.peek s = some map) (q : Key) :
    (preparedRecord map q).holding := newRecord_holding _ _ _ _ _ (h.zones map _ hmap)

theorem State.carries.of_apart {ns : List Nat} {ks : List Key} (hb : s.carries ids k T b fs) (h : s.apart x ns ks) (hn : b.slot ∉ ns)
    (hk : b.body.key ∉ ks) (hlater : x.nextToken.toNat ≤ T.toNat) (hcounter : x.counter ≠ none → s.counter ≠ none)
    (hwaiter : ∀ id, (x.waiter id).isSome = true → (s.waiter id).isSome = true) : x.carries ids k T b fs where
  handling := hb.handling.of_apart h hn hk hcounter
  later := hlater
  token := hb.token
  room := by
    have hwaiting : x.waiting (ids ++ fs) ≤ s.waiting (ids ++ fs) := State.waiting_congr fun id hsome hnot => ⟨hwaiter id hsome, hnot⟩
    have hroom := hb.room
    rw [State.roomFor] at hroom ⊢
    omega
  fresh := by
    rw [h.queue _ hn]
    exact hb.fresh

/-- What the preparation of a record leaves of the rest: at most one FREE slot, not already prepared, is withdrawn. -/
structure State.prepares (s y : State) (prepared : List Nat) : Prop where
  token   : y.nextToken = s.nextToken
  counter : y.counter ≠ none → s.counter ≠ none
  waiter  : ∀ id, y.waiter id = s.waiter id
  apart   : ∃ ns : List Nat, s.apart y ns [] ∧ ∀ n ∈ ns, s.isFree n = true ∧ n ∉ prepared

theorem State.beside.prepares (h : s.beside y) (prepared : List Nat) : s.prepares y prepared :=
  ⟨(h.frees).nextToken, fun hne => h.counter ▸ hne, h.waiter, [], h.apart _ _, nofun⟩

/-- Auto-create: a record prepared by the policy of its zone in a FREE slot, word 0 of which is sound (R13). -/
theorem prepareRecord_leads (h : s.orderly out k0) (hq : s.lookup q = none) {tok : Option Token} (hT : tok.getD s.nextToken = T)
    (hlater : s.nextToken.toNat ≤ T.toNat) (prepared : List Nat) (hroom : s.roomFor T ids k) :
    (prepareRecord q tok prepared).leads s fun r y => y.orderly out k0 ∧ s.prepares y prepared ∧
      ∀ b, r = .ok b → y.located ids k q T b ∧ s.isFree b.slot = true ∧ b.slot ∉ prepared ∧ b.isNew = true := by
  refine Take.leads_bind ((readControl_leads .zone h).mono fun map x ⟨hx, hb, hpeek⟩ => ?_)
  generalize hlowest : State.lowestFree = lowest
  refine Take.leads_get (Take.leads_ite (fun _ => Take.leads_pure ⟨hx, hb.prepares _, nofun⟩) fun _ => ?_)
  generalize hn : lowest x prepared = o
  rw [← hlowest] at hn
  cases o with
  | none => exact Take.leads_pure ⟨hx, hb.prepares _, nofun⟩
  | some n =>
    obtain ⟨hlt, hfree, hnot⟩ := State.lowestFree_spec hn
    have hfrees : s.isFree n = true := (hb.isFree n).symm.trans hfree
    refine Take.leads_bind ((checkFreeSlot_leads hx hlt hfree).mono fun ok y ⟨hy, hbeside, hapart, htoken, hcounter, hwaiter⟩ =>
      Take.leads_ite (fun hok => ?_) fun _ => ?_)
    · have hboth := hb.trans (hbeside hok)
      have hnext := (hboth.frees).nextToken
      have hholding := preparedRecord_holding h.footed hpeek q
      have hcarries := hy.carries_newBench (T := T) (ids := ids) (k := k) hlt ((hboth.isFree n).trans hfrees)
        (r := preparedRecord map q) ((hboth.lookup q).trans hq) rfl hholding (by rw [hnext]; exact hlater)
        ((hboth.frees).roomFor hroom)
      refine Take.leads_pure ⟨hy, hboth.prepares _, fun b hb' => ?_⟩
      obtain rfl := Except.ok.inj hb'
      have htok : tok.getD x.nextToken = T := by
        rw [(hb.frees).nextToken]
        exact hT
      rw [htok]
      exact ⟨⟨hcarries, rfl, nofun, nofun, fun _ => ⟨rfl, rfl, rfl, rfl⟩⟩, hfrees, hnot, rfl⟩
    · refine Take.leads_pure ⟨hy, ⟨htoken.trans (hb.frees).nextToken, fun hne => hb.counter ▸ hcounter ▸ hne,
        fun id => (hwaiter id).trans (hb.waiter id), [n], (hb.apart _ _).trans hapart, ?_⟩, nofun⟩
      exact List.forall_mem_singleton.2 ⟨hfrees, hnot⟩

end

end Sys2Proof.Machine
end

section
/-! PROOFS. ACQUIRE on the way of a take (R28 to R31, R48). -/

namespace Sys2Proof.Machine

section
variable {s x y : State} {b c : Bench} {out : List Nat} {k n : Nat} {q : Key}

/-! ### The record located (R28) -/

theorem State.touchedTo.located (ht : s.touchedTo x out k n q (.held b)) : x.located out k q x.nextToken b := (ht.held b rfl).located

theorem locate_leads (h : s.orderly out k) (q : Key) :
    (locate q none []).leads s fun r y => y.orderly out k ∧ ∀ b, r = .ok b → y.located out k q y.nextToken b := by
  have hprepare : ∀ {x : State}, x.orderly out k → x.lookup q = none → (prepareRecord q none []).leads x fun r y =>
      y.orderly out k ∧ ∀ b, r = .ok b → y.located out k q y.nextToken b := fun hx hnone =>
    (prepareRecord_leads (T := State.nextToken _) hx hnone rfl (Nat.le_refl _) [] hx.room).mono fun _ y ⟨hy, hp, hok⟩ =>
      ⟨hy, fun b hb => hp.token ▸ (hok b hb).1⟩
  refine Take.leads_get ?_
  split
  next hnone => exact hprepare h hnone
  next e he =>
    refine Take.leads_ite (fun _ => Take.leads_pure ⟨h, nofun⟩) fun hq => ?_
    obtain ⟨hin, hkey⟩ := h.lookup_held he hq
    refine Take.leads_bind ((touch_leads h hin hkey).mono fun r x ht => ?_)
    cases r with
    | quarantined => exact Take.leads_pure ⟨ht.orderly, nofun⟩
    | gone => exact hprepare ht.orderly (ht.gone rfl)
    | held b => exact Take.leads_pure ⟨ht.orderly, fun c hc => Except.ok.inj hc ▸ ht.located⟩

/-- Work on the record located, and its close. -/
theorem State.located.close {j : Nat} {os : List Out} (h : s.orderly out k) (hb : s.located out (k + j) q s.nextToken b)
    (hw : b.worked c os j) : (closeBench c).leads s fun _ y => y.orderly out k ∧ s.closedOne y c (freedIds c.outs) := by
  have hids : freedIds c.outs = freedIds b.outs ++ freedIds os := by rw [hw.outs, freedIds_append]
  have hcarries := hb.carries.work h hw
  rw [← hids] at hcarries
  refine closeBench_leads h hcarries ?_
  rw [hw.outs]
  exact List.forall_mem_append.2 ⟨hb.usual, hw.usual hb.carries.handling.slot⟩

/-- A record that was not prepared is closed where the request is refused, and stays in its slot (R14). -/
theorem closeRefused_leads (h : s.orderly out k) (hb : s.located out k q s.nextToken b) :
    (closeRefused b).leads s fun _ y => y.orderly out k ∧ (b.isNew = false → y.inHand b.slot) :=
  Take.leads_ite (fun hnew => Take.leads_pure ⟨h, fun hold => Bool.noConfusion (hnew.symm.trans hold)⟩) fun hold =>
    (State.located.close (j := 0) h hb (Bench.worked.refl b)).mono fun _ _ ⟨hy, hc⟩ =>
      ⟨hy, fun _ => hc.stays (hb.old (Bool.eq_false_iff.2 hold))⟩

/-- A prepared record grants every request at once. -/
theorem State.located.grantable_of_new {ids : List Nat} {T : Token} (hb : s.located ids k q T b) (hnew : b.isNew = true) (client : Nat)
    (m : Mode) : b.grantable client m = true := by
  obtain ⟨hgrants, hqueue, -, -⟩ := hb.new hnew
  have hvacant : b.body.state = .vacant := by
    rw [hb.carries.handling.holding.summary, hgrants]
    rfl
  refine Bool.and_eq_true_iff.2 ⟨(Rec.admits_iff _ _ _).2 ?_, by rw [hqueue]; rfl⟩
  cases m with
  | exclusive => exact .inl ⟨rfl, hvacant⟩
  | shared =>
    refine .inr ⟨rfl, .inl hvacant, ?_⟩
    rw [hgrants]
    exact nofun

/-! ### A waiter joins the queue (R48) -/

theorem State.freeEntry_spec {id : Nat} (h : s.freeEntry = some id) : id < 128 ∧ s.waiter id = none := by
  rw [State.freeEntry] at h
  have hnone : (s.waiter id).isNone = true := by simpa using List.find?_some h
  exact ⟨List.mem_range.1 (List.mem_of_find?_eq_some h), Option.isNone_iff_eq_none.1 hnone⟩

theorem State.orderly.ne_of_queued (h : s.orderly out k) {id i m : Nat} (hfree : s.waiter id = none) (hi : i ∈ s.queueOf m) : id ≠ i := by
  rintro rfl
  obtain ⟨-, w, hw, -⟩ := (h.tidy.queues m).2 id hi
  cases hfree.symm.trans hw

/-- A FREE pool entry joins the queue of a record. -/
theorem State.orderly.join (h : s.orderly [] (k + 1)) {id : Nat} {w : Waiter} (hid : id < 128) (hfree : s.waiter id = none)
    (hin : s.inHand w.slot) :
    ((s.setPool (Tab.put s.main.pool id w)).setQueueOf w.slot (s.queueOf w.slot ++ [id])).orderly [] k := by
  have hbetween : (s.setPool (Tab.put s.main.pool id w)).between := steady_between.pool s _ h.between fun hr => Tab.rising_put hr id w
  have hwaiter : ∀ i, ((s.setPool (Tab.put s.main.pool id w)).setQueueOf w.slot (s.queueOf w.slot ++ [id])).waiter i =
      if id = i then some w else s.waiter i := fun i => Tab.find?_put s.main.pool id i w
  have hqueue : ∀ m, ((s.setPool (Tab.put s.main.pool id w)).setQueueOf w.slot (s.queueOf w.slot ++ [id])).queueOf m =
      if w.slot = m then s.queueOf w.slot ++ [id] else s.queueOf m := fun m => State.queueOf_setQueueOf hbetween _ m _
  refine ⟨steady_between.setQueueOf _ _ _ hbetween, h.normal, ⟨h.footed.counter, h.footed.zones, h.footed.cursor⟩,
    { h.tidy with queues := fun m => ?_, pool := fun i v hv => ?_ }, ?_⟩
  · have hold : ∀ m, ∀ i ∈ s.queueOf m, i ∉ ([] : List Nat) ∧
        ∃ v, (if id = i then some w else s.waiter i) = some v ∧ v.slot = m := fun m i hi => by
      obtain ⟨hnot, v, hv, hslot⟩ := (h.tidy.queues m).2 i hi
      rw [if_neg (h.ne_of_queued hfree hi)]
      exact ⟨hnot, v, hv, hslot⟩
    simp only [hqueue, hwaiter]
    split
    next heq =>
      subst heq
      refine ⟨List.nodup_append.2 ⟨(h.tidy.queues _).1, List.nodup_singleton id, fun i hi j hj heq => ?_⟩,
        List.forall_mem_append.2 ⟨hold _, List.forall_mem_singleton.2 ⟨List.not_mem_nil, w, if_pos rfl, rfl⟩⟩⟩
      exact h.ne_of_queued hfree hi (heq.trans (List.mem_singleton.1 hj)).symm
    next => exact ⟨(h.tidy.queues m).1, hold m⟩
  · rw [hwaiter] at hv
    rw [hqueue]
    split at hv
    next heq =>
      obtain rfl := Option.some.inj hv
      exact ⟨heq ▸ hid, .inr ⟨by rw [if_pos rfl, heq]; exact List.mem_append_right _ List.mem_cons_self, hin⟩⟩
    next =>
      obtain ⟨hlt, hplace⟩ := h.tidy.pool i v hv
      refine ⟨hlt, .inr ?_⟩
      obtain ⟨hqueued, hheld⟩ := hplace.resolve_left List.not_mem_nil
      refine ⟨?_, hheld⟩
      split
      next heq =>
        rw [heq]
        exact List.mem_append_left _ hqueued
      next => exact hqueued
  · have hwaiting : State.waiting ((s.setPool (Tab.put s.main.pool id w)).setQueueOf w.slot (s.queueOf w.slot ++ [id])) [] ≤
        s.waiting [] + 1 := by
      refine (Finset.card_le_card fun i hi => ?_).trans (Finset.card_insert_le id _)
      obtain ⟨hlt, hsome, hnot⟩ := Finset.mem_filter.1 hi
      rw [hwaiter] at hsome
      rw [Finset.mem_insert]
      split at hsome
      next heq => exact .inl heq.symm
      next => exact .inr (Finset.mem_filter.2 ⟨hlt, hsome, hnot⟩)
    have hroom := h.room
    rw [State.roomFor] at hroom ⊢
    have hnext : State.nextToken ((s.setPool (Tab.put s.main.pool id w)).setQueueOf w.slot (s.queueOf w.slot ++ [id])) =
        s.nextToken := rfl
    rw [hnext]
    omega

theorem State.orderly.enqueue (h : s.orderly [] (k + 1)) {id : Nat} {w : Waiter} (hid : id < 128) (hfree : s.waiter id = none)
    (hin : s.inHand w.slot) : (s.enqueue id w).orderly [] k := by
  have hjoined := (h.join hid hfree hin).setVol w.client { s.vol w.client with waitCount := (s.vol w.client).waitCount + 1 }
  rw [State.enqueue_eq]
  exact hjoined.of_beside (State.beside_schedInsert _ _ (fun _ _ h => Ref.noConfusion h) _) (steady_between.insert _ _ _ _ hjoined.between) rfl

theorem queueRequest_leads (h : s.orderly [] (k + 1)) {id : Nat} {w : Waiter} (hid : id < 128) (hfree : s.waiter id = none)
    (hin : s.inHand w.slot) : (queueRequest id w).leads s fun _ y => y.orderly [] k := by
  refine Take.leads_get (Take.leads_ite (fun _ => ?_) fun _ => ?_)
  · refine Take.leads_bind ((readControl_leads (.session w.client) h).mono fun e x ⟨hx, hb, _⟩ => ?_)
    refine Take.leads_bind (Take.leads_modify (Take.leads_pure ?_))
    exact (hx.enqueue hid ((hb.waiter id).trans hfree) (hb.inHand_iff.2 hin)).commitSession rfl rfl
  · exact Take.leads_bind (Take.leads_modify (Take.leads_pure (h.enqueue hid hfree hin)))

theorem waitRequest_leads (h : s.orderly [] (k + 1)) (hin : s.inHand b.slot) (client : Nat) (m : Mode) (term wait : Term) :
    (waitRequest b client m term wait).leads s fun _ y => y.orderly [] k := by
  have hweak : ∀ {x : State}, x.orderly [] (k + 1) → x.orderly [] k := fun hx => hx.weaken (Nat.le_succ k)
  refine Take.leads_bind ((readControl_leads .zone h).mono fun map x ⟨hx, hb, _⟩ => ?_)
  generalize hfree : State.freeEntry = free
  refine Take.leads_get (Take.leads_ite (fun _ => Take.leads_pure (hweak hx)) fun _ => ?_)
  generalize hn : free x = o
  rw [← hfree] at hn
  cases o with
  | none => exact Take.leads_pure (hweak hx)
  | some id =>
    obtain ⟨hid, hnone⟩ := State.freeEntry_spec hn
    exact Take.leads_ite (fun _ => Take.leads_pure (hweak hx)) fun _ => queueRequest_leads hx hid hnone (hb.inHand_iff.2 hin)

/-! ### ACQUIRE (R27 to R31) -/

theorem acquireOn_leads (h : s.orderly [] (k + 1)) (hb : s.located [] (k + 1) q s.nextToken b) (client : Nat) (m : Mode) (term wait : Term) :
    (acquireOn b client m term wait).leads s fun _ y => y.orderly [] k := by
  have hrefused : ∀ r : Reply, (do closeRefused b; pure r : Take Reply).leads s fun _ y => y.orderly [] k := fun r =>
    Take.leads_bind ((closeRefused_leads h hb).mono fun _ _ ⟨hy, _⟩ => Take.leads_pure (hy.weaken (Nat.le_succ k)))
  refine Take.leads_get (Take.leads_ite (fun _ => hrefused _) fun _ => Take.leads_ite (fun _ => hrefused _) fun _ =>
    Take.leads_ite (fun hgrant => ?_) fun hno => Take.leads_ite (fun _ => hrefused _) fun _ => ?_)
  · obtain ⟨hadm, -⟩ := (Bench.grantable_iff _ _ _).1 hgrant
    exact Take.leads_bind ((State.located.close (h.weaken (Nat.le_succ k)) hb (b.worked_issue hadm)).mono fun _ _ ⟨hy, _⟩ => Take.leads_pure hy)
  · have hold : b.isNew = false := Bool.eq_false_iff.2 fun hnew => hno (hb.grantable_of_new hnew client m)
    exact Take.leads_bind ((closeRefused_leads h hb).mono fun _ x ⟨hx, hin⟩ => waitRequest_leads hx (hin hold) _ _ _ _)

theorem acquireWork_leads (f : Frame) (h : s.orderly [] (k + 1)) : (acquireWork f).leads s fun _ y => y.orderly [] k := by
  refine Take.leads_ite (fun _ => Take.leads_pure (h.weaken (Nat.le_succ k))) fun _ => ?_
  split
  · exact Take.leads_pure (h.weaken (Nat.le_succ k))
  · refine Take.leads_bind ((locate_leads h _).mono fun r x ⟨hx, hok⟩ => ?_)
    cases r with
    | error st => exact Take.leads_pure (hx.weaken (Nat.le_succ k))
    | ok b => exact acquireOn_leads hx (hok b rfl) _ _ _ _

end

end Sys2Proof.Machine
end

section
/-! PROOFS. The commands on a grant, CANCEL WAIT and the events of the directory on the way of a take (R35 to R40, R55, R57, R126). -/

namespace Sys2Proof.Machine

section
variable {s x y : State} {b c : Bench} {out : List Nat} {k j n : Nat} {q : Key}

/-! ### The grant located (R35, R126) -/

/-- The record of some key that a touch has opened. -/
def State.openedSome (s : State) (out : List Nat) (k : Nat) (b : Bench) : Prop := ∃ n q, s.opened out k n q s.nextToken b

theorem State.openedSome.close {os : List Out} (h : s.orderly out k) (hb : s.openedSome out k b) (hw : b.worked c os 0) :
    (closeBench c).leads s fun _ y => y.orderly out k := by
  obtain ⟨n, q, ho⟩ := hb
  exact (State.opened.close (j := 0) h ho hw).mono fun _ _ hy => hy.orderly

/-- A refusal on the record in hand. -/
theorem State.openedSome.refused {α : Type} {a : α} (h : s.orderly out k) (hb : s.openedSome out k b) :
    (do closeBench b; pure a : Take α).leads s fun _ y => y.orderly out k :=
  Take.leads_bind ((hb.close h (Bench.worked.refl b)).mono fun _ _ hy => Take.leads_pure hy)

/-- Work on the record in hand, and its close. -/
theorem State.openedSome.answered {α : Type} {a : α} (h : s.orderly out k) (hb : s.openedSome out k b) (hw : ∃ os, b.worked c os 0) :
    (do closeBench c; pure a : Take α).leads s fun _ y => y.orderly out k := by
  obtain ⟨os, hw⟩ := hw
  exact Take.leads_bind ((hb.close h hw).mono fun _ _ hy => Take.leads_pure hy)

theorem locateGrant_leads (h : s.orderly out k) (q : Key) (token : Token) :
    (locateGrant q token).leads s fun r y => y.orderly out k ∧ ∀ b, r = .ok b → y.openedSome out k b := by
  refine Take.leads_get (Take.leads_ite (fun _ => Take.leads_pure ⟨h, nofun⟩) fun _ =>
    Take.leads_ite (fun _ => Take.leads_pure ⟨h, nofun⟩) fun _ => ?_)
  split
  · exact Take.leads_pure ⟨h, nofun⟩
  next e he =>
    refine Take.leads_ite (fun _ => Take.leads_pure ⟨h, nofun⟩) fun hq => ?_
    obtain ⟨hin, hkey⟩ := h.lookup_held he hq
    refine Take.leads_bind ((touch_leads h hin hkey).mono fun r x ht => ?_)
    cases r with
    | quarantined => exact Take.leads_pure ⟨ht.orderly, nofun⟩
    | gone => exact Take.leads_pure ⟨ht.orderly, nofun⟩
    | held b => exact Take.leads_pure ⟨ht.orderly, fun c hc => Except.ok.inj hc ▸ ⟨_, _, ht.held b rfl⟩⟩

theorem onGrant_leads (f : Frame) {work : Bench → Grant → Take Reply} (h : s.orderly out k)
    (hwork : ∀ (x : State) b g, x.orderly out k → x.openedSome out k b → (work b g).leads x fun _ y => y.orderly out k) :
    (onGrant f work).leads s fun _ y => y.orderly out k := by
  refine Take.leads_bind ((locateGrant_leads h _ _).mono fun r x ⟨hx, hok⟩ => ?_)
  cases r with
  | error st => exact Take.leads_pure hx
  | ok b =>
    have hb := hok b rfl
    cases hg : b.body.liveGrant f.client.toNat (tokenAt f.args 4) with
    | none =>
      dsimp only
      rw [hg]
      exact hb.refused hx
    | some g =>
      dsimp only
      rw [hg]
      exact hwork x b g hx hb

/-! ### RENEW, RELEASE, DOWNGRADE and FORCE RELEASE (R36 to R38, R127) -/

theorem renewGrant_leads (term : Term) (g : Grant) (h : s.orderly out k) (hb : s.openedSome out k b) :
    (renewGrant term b g).leads s fun _ y => y.orderly out k := by
  refine Take.leads_get (Take.leads_ite (fun _ => hb.refused h) fun _ => ?_)
  have hchange := b.worked_changeGrant g.token
    (f := fun x => { x with term := b.body.resolve term, expiry := tickPlus s.now (b.body.resolve term).toNat })
    (fun _ => ⟨rfl, .inl rfl⟩) fun _ => rfl
  exact hb.answered h ⟨_, hchange.trans (Bench.worked_emit _
    (fun hn => List.forall_mem_singleton.2 fun _ _ href => (Ref.grant.inj href).1 ▸ hn) rfl)⟩

theorem releaseGrant_leads (g : Grant) (h : s.orderly out k) (hb : s.openedSome out k b) :
    (releaseGrant b g).leads s fun _ y => y.orderly out k := by
  obtain ⟨os, hremove⟩ := b.worked_removeGrant g
  obtain ⟨os', hhandoff⟩ := (b.removeGrant g).worked_handoff s.now
  exact Take.leads_get (hb.answered h ⟨_, hremove.trans hhandoff⟩)

theorem downgradeGrant_leads (g : Grant) (h : s.orderly out k) (hb : s.openedSome out k b) :
    (downgradeGrant b g).leads s fun _ y => y.orderly out k := by
  have hchange := b.worked_changeGrant g.token (f := fun x => { x with mode := .shared }) (fun _ => ⟨rfl, .inr rfl⟩) fun _ => rfl
  obtain ⟨os, hhandoff⟩ := (b.changeGrant g.token fun x => { x with mode := .shared }).worked_handoff s.now
  exact Take.leads_get (Take.leads_ite (fun _ => hb.refused h) fun _ => hb.answered h ⟨_, hchange.trans hhandoff⟩)

theorem forceReleaseWork_leads (f : Frame) (h : s.orderly out k) : (forceReleaseWork f).leads s fun _ y => y.orderly out k := by
  refine Take.leads_bind ((locateGrant_leads h _ _).mono fun r x ⟨hx, hok⟩ => ?_)
  cases r with
  | error st => exact Take.leads_pure hx
  | ok b =>
    have hb := hok b rfl
    cases hg : b.body.grantWith (tokenAt f.args 4) with
    | none =>
      dsimp only
      rw [hg]
      exact hb.refused hx
    | some g =>
      dsimp only
      rw [hg]
      exact Take.leads_get (hb.answered hx (b.worked_forceRelease x.now g))

/-! ### CANCEL WAIT (R57, R58) -/

theorem cancelOn_leads (id client : Nat) (h : s.orderly out k) (hin : s.inHand n) : (cancelOn id client n).leads s fun _ y => y.orderly out k := by
  obtain ⟨q, hkey⟩ := h.keyOf hin
  refine Take.leads_bind ((touch_leads h hin hkey).mono fun r x ht => ?_)
  cases r with
  | quarantined => exact Take.leads_pure ht.orderly
  | gone => exact Take.leads_pure ht.orderly
  | held b =>
    have hb : x.openedSome out k b := ⟨_, _, ht.held b rfl⟩
    dsimp only
    cases hw : b.queue.find? (fun p => p.1 == id && p.2.client == client) with
    | none => exact hb.refused ht.orderly
    | some p =>
      have hid : p.1 = id := by
        have hp := List.find?_some hw
        rw [Bool.and_eq_true, beq_iff_eq] at hp
        exact hp.1
      have hmem : id ∈ b.queue.map Prod.fst := hid ▸ List.mem_map_of_mem (List.mem_of_find?_eq_some hw)
      exact Take.leads_get (hb.answered ht.orderly (Bench.worked_cancelWait hmem x.now client))

theorem cancelWaitWork_leads (f : Frame) (h : s.orderly out k) : (cancelWaitWork f).leads s fun _ y => y.orderly out k := by
  refine Take.leads_get (Take.leads_ite (fun _ => Take.leads_pure h) fun _ => Take.leads_ite (fun _ => Take.leads_pure h) fun _ => ?_)
  split
  · exact Take.leads_pure h
  next e he =>
    exact Take.leads_ite (fun _ => Take.leads_pure h) fun hq => cancelOn_leads _ _ h (h.lookup_held he hq).1

/-! ### The touch that asks nothing more, and the events (R40, R55, R150) -/

theorem State.touchedTo.closeHeld (ht : s.touchedTo x out k n q (.held b)) : (closeBench b).leads x fun _ y => y.orderly out k :=
  State.openedSome.close ht.orderly ⟨_, _, ht.held b rfl⟩ (Bench.worked.refl b)

theorem touchOnly_leads (h : s.orderly out k) (hin : s.inHand n) : (touchOnly n).leads s fun _ y => y.orderly out k := by
  obtain ⟨q, hkey⟩ := h.keyOf hin
  refine Take.leads_bind ((touch_leads h hin hkey).mono fun r x ht => ?_)
  cases r with
  | quarantined => exact Take.leads_pure ht.orderly
  | gone => exact Take.leads_pure ht.orderly
  | held b => exact ht.closeHeld

theorem timeoutRecord_leads (id : Nat) (deadline : Tick) (h : s.orderly [] k) :
    (timeoutRecord id deadline).leads s fun _ y => y.orderly [] k := by
  refine Take.leads_get ?_
  split
  · exact Take.leads_pure h
  next w hw =>
    refine Take.leads_ite (fun _ => ?_) fun _ => Take.leads_pure h
    obtain ⟨-, hin⟩ := (h.tidy.pool id w hw).2.resolve_left List.not_mem_nil
    exact touchOnly_leads h hin

theorem expireRecord_leads (hn : n < 1024) (token : Token) (deadline : Tick) (h : s.orderly out k) :
    (expireRecord n token deadline).leads s fun _ y => y.orderly out k := by
  refine Take.leads_get (Take.leads_ite (fun _ => Take.leads_pure h) fun hno => ?_)
  obtain ⟨hfree, hquar⟩ := not_or.1 hno
  have hin : s.inHand n := ⟨hn, Bool.eq_false_iff.2 hfree, Option.not_isSome_iff_eq_none.1 hquar⟩
  obtain ⟨q, hkey⟩ := h.keyOf hin
  refine Take.leads_bind ((openSlot_leads h hin hkey).mono fun r x ⟨hx, _, hsome⟩ => ?_)
  cases r with
  | none => exact Take.leads_pure hx
  | some b =>
    obtain ⟨hbeside, rfl⟩ := hsome b rfl
    dsimp only
    cases hg : (x.bench n none).body.grantWith token with
    | none => exact Take.leads_pure hx
    | some g =>
      refine Take.leads_ite (fun _ => ?_) fun _ => Take.leads_pure hx
      have hkeyx : (x.store.slot n).val.ident.key = some q := by
        rw [hbeside.store.slots n]
        exact hkey
      refine Take.leads_bind ((freshen_leads hx (hbeside.inHand_iff.2 hin) hkeyx).mono fun r y ht => ?_)
      cases r with
      | quarantined => exact Take.leads_pure ht.orderly
      | gone => exact Take.leads_pure ht.orderly
      | held b => exact ht.closeHeld

end

end Sys2Proof.Machine
end

section
/-! PROOFS. The commands of chapters 4, 5, 6 and 11 and the session events on the way of a take (R68 to R91, R109 to R111). -/

namespace Sys2Proof.Machine

section
variable {s x y : State} {b c : Bench} {out : List Nat} {k n : Nat} {q : Key}

/-! ### Changes beside the directory -/

theorem State.orderly.placeDeadline (h : s.orderly out k) (kind : Kind) (c : Nat) (d : Tick) : (s.placeDeadline kind c d).orderly out k :=
  h.of_beside (State.beside_placeDeadline s kind c d) (steady_between.placeDeadline s kind c d h.between) rfl

theorem State.orderly.setAudit (h : s.orderly out k) (a : Audit) : (s.setAudit a).orderly out k :=
  h.of_beside ⟨Store.alike.refl _, rfl, rfl, rfl, rfl, rfl, id, id⟩ (steady_between.audit s a h.between) rfl

theorem State.orderly.setMon (h : s.orderly out k) {m : Monitor} (hcursor : m.cursor = s.main.mon.cursor)
    (hfault : m.fault = s.main.mon.fault) : (s.setMon m).orderly out k :=
  h.of_beside (State.beside_setMon s hcursor) ⟨h.between.canonical, h.between.tables, h.between.uncut⟩ hfault

theorem State.orderly.setNotices (h : s.orderly out k) (c : Nat) (q : NoticeQueue) : (s.setNoticesOf c q).orderly out k :=
  h.of_beside (State.beside_setNoticesOf s c q) (State.between_of_main h.between rfl rfl fun hm => by
    rw [Main.canonical_iff] at hm ⊢
    obtain ⟨hindex, hquar, hpool, hqueues, hsessV, hnotices⟩ := hm
    exact ⟨hindex, hquar, hpool, hqueues, hsessV, Tab.wf_set hnotices c q⟩) rfl

/-! ### TIME, INFO, FETCH NOTICES and ATTENTION (R91, R185, R109 to R111) -/

theorem fetchWork_leads (f : Frame) (h : s.orderly out k) : (fetchWork f).leads s fun _ y => y.orderly out k :=
  Take.leads_get (Take.leads_ite (fun _ => Take.leads_pure h) fun _ =>
    Take.leads_bind (Take.leads_set (Take.leads_pure (h.setNotices f.client.toNat _).driveLines)))

theorem attentionWork_leads (f : Frame) (h : s.orderly out k) : (attentionWork f).leads s fun _ y => y.orderly out k := by
  unfold attentionWork
  split
  · exact Take.leads_pure h
  · refine Take.leads_bind ((readControl_leads (.session _) h).mono fun e x ⟨hx, _⟩ => Take.leads_ite (fun _ => ?_) fun _ => ?_)
    · exact Take.leads_bind (Take.leads_modify (Take.leads_pure hx.driveLines))
    · exact Take.leads_bind (Take.leads_modify (Take.leads_pure (hx.commitSession rfl rfl).driveLines))

/-! ### OPEN and CLOSE (R68, R78) -/

theorem firstFreeSession_leads : ∀ (cs : List Nat) {s : State}, s.orderly out k →
    (firstFreeSession cs).leads s fun _ y => y.orderly out k
  | [], _, h => h
  | c :: cs, _, h => Take.leads_bind ((readControl_leads (.session c) h).mono fun _ _ ⟨hx, _⟩ =>
      Take.leads_ite (fun _ => Take.leads_pure hx) fun _ => firstFreeSession_leads cs hx)

theorem State.orderly.beginSession (h : s.orderly out k) (c : Nat) (hb : Term) : (s.beginSession c hb).orderly out k :=
  ((h.setVol c _).setNoticesOf c).placeDeadline .heartbeat c _

theorem openWith_leads (p : PortId) (hb : Term) (policy : Policy) (attention : Bool) (h : s.orderly out k) :
    (openWith p hb policy attention).leads s fun _ y => y.orderly out k := by
  refine Take.leads_bind ((firstFreeSession_leads _ h).mono fun o x hx => ?_)
  cases o with
  | none => exact Take.leads_pure hx
  | some c =>
    exact Take.leads_bind ((readControl_leads .nonce hx).mono fun nonce y ⟨hy, _⟩ => Take.leads_bind (Take.leads_modify
      (Take.leads_get (Take.leads_pure ((hy.commitSession rfl rfl).beginSession c hb).driveLines))))

theorem openWork_leads (f : Frame) (h : s.orderly out k) : (openWork f).leads s fun _ y => y.orderly out k := by
  refine Take.leads_ite (fun _ => Take.leads_pure h) fun _ => Take.leads_ite (fun _ => Take.leads_pure h) fun _ => ?_
  split
  · exact openWith_leads _ _ _ _ h
  · exact Take.leads_pure h

theorem closeWork_leads (f : Frame) (h : s.orderly out k) : (closeWork f).leads s fun _ y => y.orderly out k :=
  Take.leads_bind ((readControl_leads (.session _) h).mono fun _ _ ⟨hx, _⟩ => Take.leads_bind ((settleRelease_leads _ _ hx).mono
    fun _ _ hy => Take.leads_pure hy))

theorem dismissWork_leads (f : Frame) (h : s.orderly out k) : (dismissWork f).leads s fun _ y => y.orderly out k :=
  Take.leads_ite (fun _ => Take.leads_pure h) fun _ => Take.leads_bind ((readControl_leads (.session _) h).mono fun _ _ ⟨hx, _⟩ =>
    Take.leads_ite (fun _ => Take.leads_pure hx) fun _ => Take.leads_bind ((settleRelease_leads _ _ hx).mono fun _ _ hy => Take.leads_pure hy))

/-! ### REATTACH (R80 to R83) -/

theorem reopen_leads (c : Nat) (e : SessEntry) (p : PortId) (h : s.orderly out k) : (reopen c e p).leads s fun _ y => y.orderly out k :=
  Take.leads_bind ((readControl_leads .nonce h).mono fun _ _ ⟨hx, _⟩ => Take.leads_bind (Take.leads_modify (Take.leads_pure
    (((hx.commitSession rfl rfl).setVol c _).placeDeadline .heartbeat c _).driveLines)))

theorem reattachRevive_leads (form : SettleForm) (c : Nat) (e : SessEntry) (p : PortId) (h : s.orderly out k) :
    (reattachRevive form c e p).leads s fun _ y => y.orderly out k :=
  Take.leads_get (Take.leads_bind ((settle_leads form c e h fun _ hx => reopen_leads c _ p hx).mono fun _ _ hy => Take.leads_pure hy))

theorem reattachSuspect_leads (c : Nat) (e : SessEntry) (p : PortId) (h : s.orderly out k) :
    (reattachSuspect c e p).leads s fun _ y => y.orderly out k :=
  Take.leads_get (Take.leads_bind ((reopen_leads c e p h).mono fun _ _ hy => Take.leads_pure hy))

theorem reattachWork_leads (f : Frame) (h : s.orderly out k) : (reattachWork f).leads s fun _ y => y.orderly out k := by
  refine Take.leads_ite (fun _ => Take.leads_pure h) fun _ => Take.leads_bind ((readControl_leads (.session _) h).mono fun e x ⟨hx, _⟩ => ?_)
  refine Take.leads_get (Take.leads_ite (fun _ => Take.leads_pure hx) fun _ => Take.leads_ite (fun _ => reattachRevive_leads _ _ _ _ hx) fun _ => ?_)
  have hlapse : (if x.lapseDue f.client.toNat e then lapse f.client.toNat e else pure e : Take SessEntry).leads x fun _ y => y.orderly out k :=
    Take.leads_ite (fun _ => lapse_leads _ e hx) fun _ => Take.leads_pure hx
  refine Take.leads_bind (hlapse.mono fun e1 y hy => Take.leads_ite (fun _ => Take.leads_pure hy) fun _ => Take.leads_ite (fun _ => ?_) fun _ =>
    Take.leads_ite (fun _ => ?_) fun _ => Take.leads_pure hy)
  · exact Take.leads_ite (fun _ => Take.leads_pure hy) fun _ => reattachSuspect_leads _ _ _ hy
  · exact Take.leads_ite (fun _ => Take.leads_pure hy) fun _ => reattachRevive_leads _ _ _ _ hy

/-! ### SESSION STATUS (R79) -/

theorem countGrants_leads (c : Nat) : ∀ {ns : List Nat} {s : State}, s.orderly out k → ns.Nodup → (∀ n ∈ ns, s.inHand n) →
    (countGrants c ns).leads s fun _ y => y.orderly out k
  | [], _, h, _, _ => h
  | n :: ns, s, h, hnodup, hall => by
    obtain ⟨hin, hrest⟩ := List.forall_mem_cons.1 hall
    obtain ⟨hn, hns⟩ := List.nodup_cons.1 hnodup
    obtain ⟨q, hkey⟩ := h.keyOf hin
    have hone : ∀ {x : State}, x.orderly out k → s.apart x [n] [q] → x.orderly out k ∧ ∀ m ∈ ns, x.inHand m := fun hx hapart =>
      ⟨hx, fun m hm => hapart.inHand_of (fun heq => hn (heq ▸ hm)) (hrest m hm)⟩
    refine Take.leads_bind (Take.leads.mono (Q := fun _ x => x.orderly out k ∧ ∀ m ∈ ns, x.inHand m) (Take.leads_bind
      ((touch_leads h hin hkey).mono fun r x ht => ?_)) fun i x ⟨hx, hin⟩ =>
        Take.leads_bind ((countGrants_leads c hx hns hin).mono fun _ _ hy => Take.leads_pure hy))
    cases r with
    | quarantined => exact Take.leads_pure (hone ht.orderly ht.besides.apart)
    | gone => exact Take.leads_pure (hone ht.orderly ht.besides.apart)
    | held b =>
      exact Take.leads_bind (((ht.held b rfl).closeSame ht.orderly).mono fun _ y hy =>
        Take.leads_pure (hone hy.orderly (ht.besides.apart.trans hy.apart)))

theorem sessionStatusWork_leads (f : Frame) (h : s.orderly out k) : (sessionStatusWork f).leads s fun _ y => y.orderly out k := by
  refine Take.leads_ite (fun _ => Take.leads_pure h) fun _ => Take.leads_bind ((readControl_leads (.session _) h).mono fun e x ⟨hx, _⟩ => ?_)
  have hcount : ∀ {y : State}, y.orderly out k → (countGrants (byteAt f.args 0).toNat (y.grantSlots (byteAt f.args 0).toNat)).leads y
      fun _ z => z.orderly out k := fun hy => by
    obtain ⟨hnodup, hall⟩ := hy.indexed_slots (p := fun e => !e.2.quarantined && e.2.holders.any (fun h => h.1 == (byteAt f.args 0).toNat))
      fun e he => by simpa using (Bool.and_eq_true_iff.1 he).1
    exact countGrants_leads _ hy hnodup hall
  have hrest : ∀ {y : State}, y.orderly out k → (do
      let s ← get
      let n ← countGrants (byteAt f.args 0).toNat (s.grantSlots (byteAt f.args 0).toNat)
      let s ← get
      pure (.ok (statusPayload (s.session (byteAt f.args 0).toNat) n (s.vol (byteAt f.args 0).toNat).waitCount
        (s.noticesOf (byteAt f.args 0).toNat))) : Take Reply).leads y fun _ z => z.orderly out k := fun hy =>
    Take.leads_get (Take.leads_bind ((hcount hy).mono fun _ _ hz => Take.leads_get (Take.leads_pure hz)))
  refine Take.leads_get (Take.leads_ite (fun _ => ?_) fun _ => hrest hx)
  exact Take.leads_bind (Take.leads_discard ((lapse_leads _ e hx).mono fun _ _ hy => hrest hy))

/-! ### Session events and lapse requests (R72, R73, R87) -/

theorem State.orderly.requestLapse (h : s.orderly out k) (kind : SessKind) (c : Nat) (on : Bool) : (s.requestLapse kind c on).orderly out k := by
  cases kind <;> exact h.setVol c _

theorem sessionEvent_leads (kind : SessKind) (st : SessState) (c : Nat) (deadline : Tick) (h : s.orderly out k) :
    (sessionEvent kind st c deadline).leads s fun _ y => y.orderly out k := by
  refine Take.leads_bind ((readSession_leads c h).mono fun o x ⟨hx, _⟩ => ?_)
  cases o with
  | none => exact Take.leads_pure hx
  | some e => exact Take.leads_get (Take.leads_ite (fun _ => Take.leads_modify (hx.requestLapse kind c true)) fun _ => Take.leads_pure hx)

theorem lapseWork_leads (kind : SessKind) (c : Nat) (h : s.orderly out k) : (lapseWork kind c).leads s fun _ y => y.orderly out k :=
  Take.leads_bind ((readControl_leads (.session c) h).mono fun _ _ ⟨hx, _⟩ => Take.leads_get (Take.leads_ite
    (fun _ => Take.leads_discard ((lapse_leads c _ hx).mono fun _ _ hy => hy)) fun _ => Take.leads_pure hx))

end

end Sys2Proof.Machine
end

section
/-! PROOFS. The zone map, the Store Monitor, RECLAIM, the scrub and the audit on the way of a take (R121 to R125, R146 to R161). -/

namespace Sys2Proof.Machine

section
variable {s x y : State} {b c : Bench} {out : List Nat} {k n : Nat} {q : Key}

/-! ### The zone map (R121 to R125) -/

theorem zoneAttrAt_share {args : List Byte} {i : Nat} {z : ZoneAttr} (h : zoneAttrAt args i = some z) : 1 ≤ z.share := by
  unfold zoneAttrAt at h
  split at h
  · dsimp only at h
    split at h
    next hok => exact (congrArg ZoneAttr.share (Option.some.inj h)) ▸ hok.1.1
    next => cases h
  · cases h

/-- Every zone of the image shares a record among one holder at least (R121). -/
theorem zoneMapOf_share {args : List Byte} {frozen : Bool} {m : ZoneMap} (h : zoneMapOf args frozen = some m) (z : BitVec 2) :
    1 ≤ (m.attr z).share := by
  unfold zoneMapOf at h
  split at h
  next b1 b2 b3 z0 z1 z2 z3 _ _ _ h0 h1 h2 h3 =>
    split at h
    · obtain rfl := Option.some.inj h
      rw [ZoneMap.attr]
      split
      · exact zoneAttrAt_share h0
      · split
        · exact zoneAttrAt_share h1
        · split
          · exact zoneAttrAt_share h2
          · exact zoneAttrAt_share h3
    · cases h
  · cases h

/-- A commit of the zone map keeps the take on its way (R123, R124). -/
theorem State.orderly.commitZone (h : s.orderly out k) {m : ZoneMap} (hm : ∀ z, 1 ≤ (m.attr z).share) :
    (s.commit { images := [.zone m] }).orderly out k := by
  have hx := State.between_commit h.between { images := [.zone m] }
  have hcore := State.commit_store h.between.uncut h.between.canonical { images := [.zone m] }
  rw [State.commit_eq s h.between.uncut] at hx ⊢
  generalize (s.commit { images := [.zone m] }).store = st at hx hcore ⊢
  have hslots : ∀ n, st.slot n = s.store.slot n := fun n => hcore.slot n
  obtain ⟨-, -, hzones, htoken, -, -⟩ := hcore
  have hzone : st.zone.value = some m := congrArg Copies.value hzones
  change st.token = s.store.token at htoken
  have hcounter : (s.setStore st).counter = s.counter := by
    show st.token.value.map _ = s.store.token.value.map _
    rw [htoken]
  refine ⟨hx, h.normal, ⟨fun v hv => h.footed.counter v (htoken ▸ hv), fun m' z hz => ?_, h.footed.cursor⟩, ?_, ?_⟩
  · obtain rfl := Option.some.inj (hzone.symm.trans hz)
    exact hm z
  · rw [hcounter]
    exact h.tidy.of_slots rfl fun n => congrArg Block.val (hslots n)
  · have hnext : (s.setStore st).nextToken = s.nextToken := by
      show st.token.value.getD 1 = s.store.token.value.getD 1
      rw [htoken]
    rw [State.roomFor, hnext]
    exact h.room

theorem zoneSetWork_leads (f : Frame) (h : s.orderly out k) : (zoneSetWork f).leads s fun _ y => y.orderly out k := by
  rw [zoneSetWork]
  split
  · exact Take.leads_pure h
  next new hnew =>
    exact Take.leads_bind ((readControl_leads .zone h).mono fun old x ⟨hx, _⟩ => Take.leads_get (Take.leads_ite (fun _ => Take.leads_pure hx)
      fun _ => Take.leads_ite (fun _ => Take.leads_pure hx) fun _ => Take.leads_bind (Take.leads_modify (Take.leads_pure
        (hx.commitZone (zoneMapOf_share hnew))))))

theorem zoneFreezeWork_leads (h : s.orderly out k) : zoneFreezeWork.leads s fun _ y => y.orderly out k :=
  Take.leads_bind ((readControl_leads .zone h).mono fun map _ ⟨hx, _, hpeek⟩ => Take.leads_ite (fun _ => Take.leads_pure hx) fun _ =>
    Take.leads_bind (Take.leads_modify (Take.leads_pure (hx.commitZone fun z => h.footed.zones map z hpeek))))

/-! ### The Store Monitor (R146, R147, R151) -/

theorem storeStatusWork_leads (h : s.orderly out k) : storeStatusWork.leads s fun _ y => y.orderly out k :=
  Take.leads_get (Take.leads_ite (fun hfault => absurd hfault h.normal) fun _ => Take.leads_bind ((readControl_leads .flags h).mono
    fun _ _ ⟨hx, _⟩ => Take.leads_get (Take.leads_pure hx)))

theorem storeClearWork_leads (h : s.orderly out k) : storeClearWork.leads s fun _ y => y.orderly out k :=
  Take.leads_bind ((readControl_leads .flags h).mono fun _ x ⟨hx, _⟩ => Take.leads_bind (Take.leads_modify (Take.leads_ite
    (fun _ => Take.leads_bind (Take.leads_modify (Take.leads_pure ((hx.setMon (m := x.main.mon.cleared) rfl rfl).commitSession rfl rfl))))
    fun _ => Take.leads_pure (hx.setMon (m := x.main.mon.cleared) rfl rfl))))

theorem scrubControlWork_leads (f : Frame) (h : s.orderly out k) : (scrubControlWork f).leads s fun _ y => y.orderly out k :=
  Take.leads_get (Take.leads_bind (Take.leads_set (Take.leads_pure ((h.setMon
    (m := { s.main.mon with interval := byteAt f.args 0, count := 0, stepPending := false }) rfl rfl).setAudit _))))

/-! ### RECLAIM (R149) -/

/-- A quarantined slot has no waiters, and no other slot's key is its key. -/
theorem State.orderly.quarantined_slot (h : s.orderly out k) {key : Option Key} (hq : Tab.find? s.main.quar n = some key) :
    s.namesOnly n key ∧ s.queueOf n = [] := by
  constructor
  · intro q e he
    obtain ⟨hquar, hheld⟩ := h.tidy.index q e he
    constructor
    · rintro rfl
      cases hqe : e.quarantined with
      | true => exact Option.some.inj (hq.symm.trans (hquar hqe))
      | false =>
        obtain ⟨_, ⟨_, _, hnone⟩, _⟩ := hheld hqe
        exact absurd (hq.symm.trans hnone) (Option.some_ne_none _)
    · rintro rfl
      obtain ⟨_, _, _, hnamed⟩ := h.tidy.quar n _ hq
      obtain ⟨hd, hlook⟩ := hnamed q rfl
      rw [hlook] at he
      exact congrArg IndexEntry.slot (Option.some.inj he).symm
  · rw [List.eq_nil_iff_forall_not_mem]
    intro id hid
    obtain ⟨hnot, w, hw, rfl⟩ := (h.tidy.queues n).2 id hid
    obtain ⟨-, hin⟩ := (h.tidy.pool id w hw).2.resolve_left hnot
    exact absurd (hq.symm.trans hin.2.2) (Option.some_ne_none _)

/-- The sets and the index behind a RECLAIM. -/
theorem State.reclaim_rest (s : State) (n : Nat) (key : Option Key) {st : Store}
    (hst : s.commit { images := [freedImage s.store n] } = s.setStore st) (hy : (s.setStore st).between) :
    (s.reclaim n key).store = st ∧ (s.reclaim n key).main.queues = s.main.queues ∧ (s.reclaim n key).main.pool = s.main.pool ∧
      (s.reclaim n key).main.sched = s.main.sched ∧ (s.reclaim n key).main.mon = s.main.mon ∧
      (s.reclaim n key).main.quar = Tab.del s.main.quar n ∧ (s.reclaim n key).main.free = (s.markFree n true).main.free ∧
      (∀ e ∈ (s.reclaim n key).main.index, e ∈ s.main.index) ∧
      ∀ q, (s.reclaim n key).lookup q = if key = some q then none else s.lookup q := by
  have hfreed : (((s.setStore st).setQuar (Tab.del s.main.quar n)).markFree n true).between :=
    steady_between.markFree _ _ _ (steady_between.quar _ _ hy fun hr => Tab.rising_del hr n)
  cases key with
  | none =>
    rw [State.reclaim, hst]
    exact ⟨rfl, rfl, rfl, rfl, rfl, rfl, rfl, fun e he => he, fun q => (if_neg (Option.some_ne_none q).symm).symm⟩
  | some k =>
    rw [State.reclaim, hst]
    refine ⟨rfl, rfl, rfl, rfl, rfl, rfl, rfl, fun e he => Tab.mem_del he, fun q => ?_⟩
    have hif : (if some k = some q then none else s.lookup q) = if k = q then none else s.lookup q :=
      if_congr Option.some_inj rfl rfl
    rw [hif]
    exact State.lookup_unindex hfreed k q

theorem State.orderly.reclaim (h : s.orderly out k) {key : Option Key} (hq : Tab.find? s.main.quar n = some key) :
    (s.reclaim n key).orderly out k := by
  obtain ⟨hnames, hempty⟩ := h.quarantined_slot hq
  obtain ⟨hn, -, -, -⟩ := h.tidy.quar n key hq
  obtain ⟨blk, himg, hident⟩ : ∃ blk : Block SlotImg, s.store.putImage (freedImage s.store n) = s.store.setSlot n blk ∧
    blk.val.ident = IdWord.free := ⟨_, rfl, rfl⟩
  obtain ⟨st, hst, hy1, hcore, hslots⟩ := State.commit_slot h.between n blk himg
  obtain ⟨hstore, hqueues, hpool, hsched, hmon, hquar, hfree, hindex, hlookup⟩ := s.reclaim_rest n key hst hy1
  have hy := steady_between.reclaim s n key h.between
  generalize s.reclaim n key = y at *
  have hslot : ∀ m, y.store.slot m = if n = m then blk else s.store.slot m := fun m => by
    rw [hstore]
    exact hslots m
  have hqueueOf : ∀ m, y.queueOf m = s.queueOf m := fun m => by
    rw [State.queueOf, hqueues]
    rfl
  have hquarOf : ∀ m, Tab.find? y.main.quar m = if n = m then none else Tab.find? s.main.quar m := fun m => by
    rw [hquar]
    exact Tab.find?_del ((Main.canonical_iff _).1 h.between.tables).2.1 n m
  have htoken : y.store.token = s.store.token := by rw [hstore, hcore]
  have hzone : y.store.zone = s.store.zone := by rw [hstore, hcore]
  have hcounter : y.counter = s.counter := by rw [State.counter, htoken]; rfl
  have hnext : y.nextToken = s.nextToken := by
    show (y.store.token.value).getD 1 = (s.store.token.value).getD 1
    rw [htoken]
  have hwaiter : ∀ id, y.waiter id = s.waiter id := fun id => by rw [State.waiter, hpool]; rfl
  have hbut : s.sameBut y n key := by
    refine ⟨fun m hm => by rw [hslot, if_neg (Ne.symm hm)], fun m hm => ?_, fun m hm => by rw [hquarOf, if_neg (Ne.symm hm)],
      fun m _ => hqueueOf m, fun q hne => (hlookup q).trans (if_neg hne), hwaiter⟩
    rw [State.isFree, hfree]
    exact State.isFree_markFree_ne s hm true
  have hstatus : y.settledAs n key s.counter := by
    refine .inl ⟨?_, ?_, by rw [hquarOf, if_pos rfl], fun q hk => by rw [hlookup, if_pos hk], (hqueueOf n).trans hempty⟩
    · rw [State.isFree, hfree]
      exact State.isFree_markFree_self s hn
    · rw [hslot, if_pos rfl, hident]
  have htidy := h.tidy.change hn hbut hnames hstatus (fun t ht => ⟨t, ht, Nat.le_refl t⟩) (fun e he => h.tidy.range e (hindex e he))
    (by rw [hsched]; exact h.tidy.sched) (gone := []) (by rw [hqueueOf, hempty]; exact List.nodup_nil)
    (fun id hid => by rw [hqueueOf, hempty] at hid; exact absurd hid List.not_mem_nil)
    (fun id hid => by rw [hempty] at hid; exact absurd hid List.not_mem_nil) fun id hid => absurd hid List.not_mem_nil
  have hseen : (fun m => m < 1024 ∨ m = n) = (· < 1024) := funext fun m => propext ⟨fun hm => hm.elim (fun hm => hm) fun heq => heq ▸ hn, .inl⟩
  rw [hseen, List.append_nil] at htidy
  refine ⟨hy, ?_, ⟨?_, ?_, ?_⟩, by rw [hcounter]; exact htidy, ?_⟩
  · rw [State.inFault, hmon]
    exact h.normal
  · rw [htoken]
    exact h.footed.counter
  · rw [hzone]
    exact h.footed.zones
  · rw [hmon]
    exact h.footed.cursor
  · rw [State.roomFor, hnext, State.waiting]
    simp only [hwaiter]
    exact h.room

theorem reclaimWork_leads (f : Frame) (h : s.orderly out k) : (reclaimWork f).leads s fun _ y => y.orderly out k := by
  refine Take.leads_get (Take.leads_ite (fun _ => Take.leads_pure h) fun _ => ?_)
  split
  · exact Take.leads_pure h
  next hq => exact Take.leads_bind (Take.leads_set (Take.leads_pure (h.reclaim hq)))

/-! ### The scrub step (R150) -/

theorem scrubSlot_leads (h : s.orderly out k) (hn : n < 1024) : (scrubSlot n).leads s fun _ y => y.orderly out k :=
  Take.leads_get (Take.leads_ite
    (fun hfree => Take.leads_discard ((checkFreeSlot_leads h hn hfree).mono fun _ _ ⟨hy, _⟩ => hy)) fun hfree =>
    Take.leads_ite (fun _ => Take.leads_pure h) fun hquar => touchOnly_leads h
      ⟨hn, Bool.eq_false_iff.2 hfree, Option.not_isSome_iff_eq_none.1 hquar⟩)

theorem State.orderly.advance (h : s.orderly out k) {m : Monitor} (hcursor : m.cursor < 1024) (hfault : m.fault = s.main.mon.fault) :
    (s.setMon m).orderly out k :=
  h.of_beside ⟨Store.alike.refl _, rfl, rfl, rfl, rfl, rfl, id, fun _ => hcursor⟩ ⟨h.between.canonical, h.between.tables, h.between.uncut⟩ hfault

theorem scrubWork_leads (h : s.orderly out k) : scrubWork.leads s fun _ y => y.orderly out k :=
  Take.leads_get (Take.leads_bind ((scrubSlot_leads h h.footed.cursor).mono fun _ x hx => Take.leads_modify
    (hx.advance (m := { x.main.mon with cursor := (x.main.mon.cursor + 1) % Config.slots }) (Nat.mod_lt _ (by decide)) rfl)))

/-! ### The audit (R154 to R161) -/

theorem auditStartWork_leads (f : Frame) (h : s.orderly out k) : (auditStartWork f).leads s fun _ y => y.orderly out k :=
  Take.leads_get (Take.leads_ite (fun _ => Take.leads_pure h) fun _ => Take.leads_ite (fun _ => Take.leads_pure h) fun _ =>
    Take.leads_bind (Take.leads_set (Take.leads_pure (h.setAudit _))))

theorem auditSuspendWork_leads (h : s.orderly out k) : auditSuspendWork.leads s fun _ y => y.orderly out k :=
  Take.leads_get (Take.leads_ite (fun _ => Take.leads_bind (Take.leads_set (Take.leads_pure (h.setAudit _)))) fun _ => Take.leads_pure h)

theorem auditResumeWork_leads (h : s.orderly out k) : auditResumeWork.leads s fun _ y => y.orderly out k :=
  Take.leads_get (Take.leads_ite (fun _ => Take.leads_bind (Take.leads_set (Take.leads_pure (h.setAudit _)))) fun _ => Take.leads_pure h)

theorem auditImageOf_leads (h : s.orderly out k) (q : Key) {e : IndexEntry} (hin : e.quarantined = false → s.inHand e.slot) :
    (auditImageOf q e).leads s fun _ y => y.orderly out k := by
  refine Take.leads_ite (fun _ => Take.leads_pure h) fun hq => ?_
  have hheld := hin (Bool.eq_false_iff.2 hq)
  obtain ⟨q', hkey⟩ := h.keyOf hheld
  refine Take.leads_bind ((touch_leads h hheld hkey).mono fun r x ht => ?_)
  cases r with
  | quarantined => exact Take.leads_get (Take.leads_pure ht.orderly)
  | gone => exact Take.leads_pure ht.orderly
  | held b => exact Take.leads_bind (ht.closeHeld.mono fun _ _ hy => Take.leads_pure hy)

theorem auditStepWork_leads (h : s.orderly out k) : auditStepWork.leads s fun _ y => y.orderly out k := by
  refine Take.leads_get ?_
  split
  · exact Take.leads_set (h.setAudit _)
  next i e hnext =>
    have hmem : (i, e) ∈ s.main.index := List.mem_of_find?_eq_some hnext
    exact Take.leads_bind ((auditImageOf_leads h _ fun hq => h.indexed_inHand hmem hq).mono fun _ _ hx =>
      Take.leads_modify ((hx.setAudit _).setAudit _))

end

end Sys2Proof.Machine
end

section
/-! PROOFS. The records in hand of ACQUIRE SET and their close where the set is refused (R9, R33, R136). -/

namespace Sys2Proof.Machine

/-- The record in hand of a change. -/
def Change.bench? : Change → Option Bench
  | .committed _ => none
  | .inHand b => some b

/-- The records in hand, in the order of the changes. -/
def benchesOf (cs : List Change) : List Bench := cs.filterMap Change.bench?

/-- The token counter as the records in hand leave it. -/
def tokenBehind (T : Token) (cs : List Change) : Token := ((benchesOf cs).getLast?.map Bench.token).getD T

/-- The changes so far of a set: each record in hand has taken its tokens from where the one before it stood; `ids` are the
waiters that left their queues before. -/
def State.chain (s : State) (k : Nat) : List Nat → Token → List Change → Prop
  | _, _, [] => True
  | ids, T, .committed outs :: cs => (∀ o ∈ outs, o.usual) ∧ s.chain k (ids ++ freedIds outs) T cs
  | ids, T, .inHand b :: cs => s.located ids k b.body.key T b ∧ s.chain k (ids ++ freedIds b.outs) b.token cs

section
variable {s x y : State} {b : Bench} {out ids : List Nat} {k k0 n : Nat} {q : Key} {T : Token} {cs : List Change} {outs : List Out}

theorem benchesOf_cons_inHand : benchesOf (.inHand b :: cs) = b :: benchesOf cs := rfl

theorem benchesOf_cons_committed : benchesOf (.committed outs :: cs) = benchesOf cs := rfl

theorem benchesOf_append (cs cs' : List Change) : benchesOf (cs ++ cs') = benchesOf cs ++ benchesOf cs' := List.filterMap_append

theorem committedOuts_append (cs cs' : List Change) : committedOuts (cs ++ cs') = committedOuts cs ++ committedOuts cs' := List.flatMap_append

theorem tokenBehind_cons_inHand : tokenBehind T (.inHand b :: cs) = tokenBehind b.token cs := by
  rw [tokenBehind, tokenBehind, benchesOf_cons_inHand, List.getLast?_cons]
  cases (benchesOf cs).getLast? <;> rfl

theorem tokenBehind_cons_committed : tokenBehind T (.committed outs :: cs) = tokenBehind T cs := rfl

/-! ### The chain of records in hand -/

theorem State.carries.grows {fs : List Nat} (h : s.carries ids k T b fs) : T.toNat ≤ b.token.toNat := by
  have htoken := h.token
  omega

theorem State.chain_append : ∀ {cs : List Change} {ids : List Nat} {T : Token} {c : Change},
    s.chain k ids T (cs ++ [c]) ↔ s.chain k ids T cs ∧ s.chain k (ids ++ freedIds (cs.flatMap Change.outs)) (tokenBehind T cs) [c]
  | [], ids, T, c => by
    rw [List.nil_append, show freedIds (([] : List Change).flatMap Change.outs) = [] from rfl, List.append_nil]
    exact ⟨fun h => ⟨trivial, h⟩, And.right⟩
  | .committed outs :: cs, ids, T, c => by
    rw [List.cons_append, State.chain, State.chain, State.chain_append, List.flatMap_cons, freedIds_append, tokenBehind_cons_committed,
      List.append_assoc, and_assoc]
    rfl
  | .inHand b :: cs, ids, T, c => by
    rw [List.cons_append, State.chain, State.chain, State.chain_append, List.flatMap_cons, freedIds_append, tokenBehind_cons_inHand,
      List.append_assoc, and_assoc]
    rfl

theorem State.chain.grows : ∀ {cs : List Change} {ids : List Nat} {T : Token}, s.chain k ids T cs → T.toNat ≤ (tokenBehind T cs).toNat
  | [], _, _, _ => Nat.le_refl _
  | .committed _ :: _, _, _, ⟨_, h⟩ => h.grows
  | .inHand _ :: _, _, _, ⟨hb, h⟩ => by
    rw [tokenBehind_cons_inHand]
    exact hb.carries.grows.trans h.grows

/-- The chain stays where each record in hand stays in hand. -/
theorem State.chain.transport : ∀ {cs : List Change} {ids : List Nat} {T : Token}, s.chain k ids T cs →
    (∀ b ∈ benchesOf cs, ∀ ids (T' : Token), T.toNat ≤ T'.toNat → s.located ids k b.body.key T' b → x.located ids k b.body.key T' b) →
    x.chain k ids T cs
  | [], _, _, _, _ => trivial
  | .committed _ :: _, _, _, ⟨husual, h⟩, hx => ⟨husual, h.transport hx⟩
  | .inHand _ :: _, ids, T, ⟨hb, h⟩, hx => by
    rw [benchesOf_cons_inHand] at hx
    obtain ⟨hone, hrest⟩ := List.forall_mem_cons.1 hx
    exact ⟨hone ids T (Nat.le_refl _) hb, h.transport fun c hc ids' T' hle => hrest c hc ids' T' (hb.carries.grows.trans hle)⟩

theorem State.chain.usual : ∀ {cs : List Change} {ids : List Nat} {T : Token}, s.chain k ids T cs → ∀ o ∈ cs.flatMap Change.outs, o.usual
  | [], _, _, _ => nofun
  | .committed _ :: _, _, _, ⟨husual, h⟩ => List.forall_mem_append.2 ⟨husual, h.usual⟩
  | .inHand _ :: _, _, _, ⟨hb, h⟩ => List.forall_mem_append.2 ⟨hb.usual, h.usual⟩

theorem State.chain.mem : ∀ {cs : List Change} {ids : List Nat} {T : Token}, s.chain k ids T cs → ∀ b ∈ benchesOf cs,
    s.handling b (freedIds b.outs) ∧ b.token.toNat ≤ (tokenBehind T cs).toNat
  | [], _, _, _ => nofun
  | .committed _ :: _, _, _, ⟨_, h⟩ => h.mem
  | .inHand _ :: _, _, _, ⟨hb, h⟩ => by
    rw [benchesOf_cons_inHand, tokenBehind_cons_inHand]
    exact List.forall_mem_cons.2 ⟨⟨hb.carries.handling, h.grows⟩, h.mem⟩

/-- The waiters that left their queues are those of the changes already committed and of the records in hand. -/
theorem mem_freedIds_outs : ∀ {cs : List Change} {id : Nat}, id ∈ freedIds (cs.flatMap Change.outs) ↔
    id ∈ freedIds (committedOuts cs) ∨ ∃ b ∈ benchesOf cs, id ∈ freedIds b.outs
  | [], id => ⟨fun h => absurd h List.not_mem_nil, fun h => h.elim (fun h => h) fun ⟨_, hb, _⟩ => absurd hb List.not_mem_nil⟩
  | .committed outs :: cs, id => by
    rw [List.flatMap_cons, freedIds_append, List.mem_append, mem_freedIds_outs, benchesOf_cons_committed,
      show committedOuts (.committed outs :: cs) = outs ++ committedOuts cs from rfl, freedIds_append, List.mem_append, or_assoc]
    rfl
  | .inHand b :: cs, id => by
    rw [List.flatMap_cons, freedIds_append, List.mem_append, mem_freedIds_outs, benchesOf_cons_inHand,
      show committedOuts (.inHand b :: cs) = committedOuts cs from rfl, List.exists_mem_cons_iff]
    exact or_left_comm

theorem State.located.of_apart {ns : List Nat} {ks : List Key} (hb : s.located ids k q T b) (h : s.apart x ns ks) (hn : b.slot ∉ ns)
    (hk : b.body.key ∉ ks) (hlater : x.nextToken.toNat ≤ T.toNat) (hcounter : x.counter ≠ none → s.counter ≠ none)
    (hwaiter : ∀ id, (x.waiter id).isSome = true → (s.waiter id).isSome = true) : x.located ids k q T b :=
  { hb with carries := hb.carries.of_apart h hn hk hlater hcounter hwaiter }

/-- A record in hand whose earlier waiters are gone is as one that stands alone. -/
theorem State.located.alone (h : s.orderly out k0) (hb : s.located ids k q T b) (hgone : ∀ id ∈ ids, s.waiter id = none) :
    s.located out k q T b := by
  refine { hb with carries := { hb.carries with room := ?_, fresh := h.unfreed b.slot } }
  have hwaiting : s.waiting (out ++ freedIds b.outs) ≤ s.waiting (ids ++ freedIds b.outs) := State.waiting_congr fun id hsome hnot =>
    ⟨hsome, fun hin => (List.mem_append.1 hin).elim
      (fun hin => by rw [hgone id hin] at hsome; cases hsome) fun hin => hnot (List.mem_append_right _ hin)⟩
  have hroom := hb.carries.room
  rw [State.roomFor] at hroom ⊢
  omega

/-! ### The close of a refused set (R33) -/

theorem State.halted.handOutsBefore (h : s.halted) (os : List Out) : (s.handOutsBefore os).halted :=
  h.of_main (steady_between.handOutsBefore s os h.between) (State.handOutsBefore_store s os) (State.handOutsBefore_mon s os)

theorem orHandOver_leads {α : Type} {work : Take α} {Q : α → State → Prop} (cs : List Change) (h : work.leads s Q) :
    (orHandOver cs work).leads s Q := Take.leads_rethrow h fun _ hx => hx.handOutsBefore _

theorem closeAll_leads : ∀ (cs : List Change) {s : State} {ids : List Nat}, s.orderly (freedIds (committedOuts cs)) k →
    s.chain k ids s.nextToken cs → (∀ id ∈ ids, s.waiter id = none) → ((benchesOf cs).map Bench.slot).Nodup →
    ((benchesOf cs).map fun b => b.body.key).Nodup → (closeAll cs).leads s fun _ y => y.orderly [] k
  | [], _, _, h, _, _, _, _ => h
  | .committed outs :: cs, s, ids, h, ⟨husual, hc⟩, hgone, hslots, hkeys => by
    have hids : freedIds (committedOuts (.committed outs :: cs)) = freedIds outs ++ freedIds (committedOuts cs) :=
      freedIds_append outs (committedOuts cs)
    rw [hids] at h
    refine Take.leads_bind ((orHandOver_leads cs (deliver_leads h husual fun id hid => List.mem_append_left _ hid)).mono fun _ y ⟨hy, hf⟩ => ?_)
    have hnone : ∀ id, (y.waiter id).isSome = true → (s.waiter id).isSome = true := fun id hsome => by
      rw [hf.waiter] at hsome
      split at hsome
      · cases hsome
      · exact hsome
    have hrest : y.orderly (freedIds (committedOuts cs)) k := hy.cleared (fun id hid => List.mem_append_right _ hid) fun id hid =>
      (List.mem_append.1 hid).elim (fun hin => .inr ((hf.waiter id).trans (if_pos hin))) .inl
    refine closeAll_leads cs hrest (ids := ids ++ freedIds outs) ?_ (fun id hid => ?_) hslots hkeys
    · rw [hf.nextToken]
      exact hc.transport fun b _ _ _ hle hb => hb.of_apart (hf.apart [] []) List.not_mem_nil List.not_mem_nil
        (by rw [hf.nextToken]; exact hle) (fun hne => hf.counter ▸ hne) hnone
    · rw [hf.waiter]
      split
      · rfl
      next hnot => exact hgone id ((List.mem_append.1 hid).resolve_right hnot)
  | .inHand b :: cs, s, ids, h, ⟨hb, hc⟩, hgone, hslots, hkeys => by
    rw [benchesOf_cons_inHand, List.map_cons, List.nodup_cons] at hslots hkeys
    refine Take.leads_bind (orHandOver_leads cs (Take.leads_ite (fun hnew => Take.leads_pure ?_) fun _ => ?_))
    · obtain ⟨-, -, houts, hissued⟩ := hb.new hnew
      have htoken : b.token = s.nextToken := BitVec.eq_of_toNat_eq (by rw [hb.carries.token, hissued]; rfl)
      rw [houts, show freedIds [] = [] from rfl, List.append_nil, htoken] at hc
      exact closeAll_leads cs h hc hgone hslots.2 hkeys.2
    · refine (closeBench_leads h (hb.alone h hgone).carries hb.usual).mono fun _ y ⟨hy, hclosed⟩ => ?_
      have hnone : ∀ id, (y.waiter id).isSome = true → (s.waiter id).isSome = true := fun id hsome => by
        rw [hclosed.waiter] at hsome
        split at hsome
        · cases hsome
        · exact hsome
      refine closeAll_leads cs hy (ids := ids ++ freedIds b.outs) ?_ (fun id hid => ?_) hslots.2 hkeys.2
      · rw [hclosed.token]
        exact hc.transport fun b' hmem _ _ hle hb' => hb'.of_apart hclosed.apart
          (fun heq => hslots.1 (List.mem_singleton.1 heq ▸ List.mem_map_of_mem hmem))
          (fun heq => hkeys.1 (List.mem_singleton.1 heq ▸ List.mem_map_of_mem hmem)) (by rw [hclosed.token]; exact hle) hclosed.counter hnone
      · rw [hclosed.waiter]
        split
        · rfl
        next hnot => exact hgone id ((List.mem_append.1 hid).resolve_right hnot)

end

end Sys2Proof.Machine
end

section
/-! PROOFS. The keys of ACQUIRE SET in listed order on the way of a take (R33). -/

namespace Sys2Proof.Machine

/-- The keys of a set so far: the changes are a chain, over distinct slots and keys. -/
structure State.examining (s : State) (k : Nat) (past : List Change) : Prop where
  orderly : s.orderly (freedIds (committedOuts past)) k
  chain   : s.chain k [] s.nextToken past
  room    : s.roomFor (tokenBehind s.nextToken past) (freedIds (past.flatMap Change.outs)) k
  slots   : ((benchesOf past).map Bench.slot).Nodup
  keys    : ((benchesOf past).map fun b => b.body.key).Nodup

/-- The record of the next key is in hand, or its check has failed. -/
structure State.examined (y : State) (k : Nat) (q : Key) (bs : List Bench) (r : Except Status Bench × List Change) : Prop where
  examining : y.examining k r.2
  benches   : benchesOf r.2 = bs
  located   : ∀ b, r.1 = .ok b → y.located (freedIds (r.2.flatMap Change.outs)) k q (tokenBehind y.nextToken r.2) b ∧ ∀ c ∈ bs, c.slot ≠ b.slot

section
variable {s x y : State} {b c : Bench} {out ids fs : List Nat} {k n m : Nat} {q : Key} {T : Token} {past : List Change} {outs : List Out}

theorem State.roomFor.of_waiter (h : s.roomFor T ids k) (hwaiter : ∀ id, y.waiter id = s.waiter id) : y.roomFor T ids k := by
  rw [State.roomFor, State.waiting]
  simp only [hwaiter]
  exact h

theorem State.chain.of_apart {ns : List Nat} {ks : List Key} (h : s.chain k [] s.nextToken past) (hapart : s.apart y ns ks)
    (htoken : y.nextToken = s.nextToken) (hcounter : y.counter ≠ none → s.counter ≠ none) (hwaiter : ∀ id, y.waiter id = s.waiter id)
    (hother : ∀ b ∈ benchesOf past, b.slot ∉ ns ∧ b.body.key ∉ ks) : y.chain k [] y.nextToken past := by
  rw [htoken]
  exact h.transport fun b hb _ _ hle hl => hl.of_apart hapart (hother b hb).1 (hother b hb).2 (by rw [htoken]; exact hle) hcounter
    fun id hsome => hwaiter id ▸ hsome

/-- What leaves the records in hand as they are. -/
theorem State.examining.of_apart {ns : List Nat} {ks : List Key} (h : s.examining k past) (hapart : s.apart y ns ks)
    (htoken : y.nextToken = s.nextToken) (hcounter : y.counter ≠ none → s.counter ≠ none) (hwaiter : ∀ id, y.waiter id = s.waiter id)
    (hother : ∀ b ∈ benchesOf past, b.slot ∉ ns ∧ b.body.key ∉ ks) (hy : y.orderly (freedIds (committedOuts past)) k) : y.examining k past :=
  ⟨hy, h.chain.of_apart hapart htoken hcounter hwaiter hother, by rw [htoken]; exact h.room.of_waiter hwaiter, h.slots, h.keys⟩

/-- A touch commits, and its results are still to be handed over. -/
theorem State.examining.commits (h : s.examining k past) (hb : s.besides y n q) (hwaiter : ∀ id, y.waiter id = s.waiter id)
    (hother : ∀ b ∈ benchesOf past, b.slot ∉ [n] ∧ b.body.key ∉ [q]) (husual : ∀ o ∈ outs, o.usual)
    (hy : y.orderly (freedIds (committedOuts past) ++ freedIds outs) k) : y.examining k (past ++ [.committed outs]) := by
  have hbenches : benchesOf (past ++ [.committed outs]) = benchesOf past := by
    rw [benchesOf_append]
    exact List.append_nil _
  have hcommitted : committedOuts (past ++ [.committed outs]) = committedOuts past ++ outs := by
    rw [committedOuts_append]
    exact congrArg _ (List.append_nil outs)
  refine ⟨?_, State.chain_append.2 ⟨h.chain.of_apart hb.apart hb.token hb.counter hwaiter hother, husual, trivial⟩, ?_, ?_, ?_⟩
  · rw [hcommitted, freedIds_append]
    exact hy
  · have hroom := h.room.of_waiter (y := y) hwaiter
    have hle : y.waiting (freedIds ((past ++ [Change.committed outs]).flatMap Change.outs)) ≤ y.waiting (freedIds (past.flatMap Change.outs)) :=
      State.waiting_congr fun id hsome hnot => ⟨hsome, fun hin => hnot (by
        rw [List.flatMap_append, freedIds_append]
        exact List.mem_append_left _ hin)⟩
    rw [tokenBehind, hbenches, hb.token]
    rw [State.roomFor, tokenBehind] at hroom
    rw [State.roomFor]
    omega
  · rw [hbenches]
    exact h.slots
  · rw [hbenches]
    exact h.keys

/-- The record located joins those in hand. -/
theorem State.examining.takes (h : s.examining k past) (hb : s.located (freedIds (past.flatMap Change.outs)) k q (tokenBehind s.nextToken past) b)
    (hslot : ∀ c ∈ benchesOf past, c.slot ≠ b.slot) (hkey : ∀ c ∈ benchesOf past, c.body.key ≠ q) : s.examining k (past ++ [.inHand b]) := by
  have hbenches : benchesOf (past ++ [.inHand b]) = benchesOf past ++ [b] := benchesOf_append past _
  have hcommitted : committedOuts (past ++ [.inHand b]) = committedOuts past := by
    rw [committedOuts_append]
    exact List.append_nil _
  have hnodup : ∀ {α : Type} {f : Bench → α}, ((benchesOf past).map f).Nodup → (∀ c ∈ benchesOf past, f c ≠ f b) →
      ((benchesOf (past ++ [.inHand b])).map f).Nodup := fun hold hne => by
    rw [hbenches, List.map_append, List.nodup_append]
    refine ⟨hold, List.nodup_singleton _, fun i hi j hj heq => ?_⟩
    obtain ⟨c, hc, rfl⟩ := List.mem_map.1 hi
    exact hne c hc (heq.trans (List.mem_singleton.1 hj))
  have hbkey := hb.key
  refine ⟨by rw [hcommitted]; exact h.orderly, State.chain_append.2 ⟨h.chain, ?_⟩, ?_, hnodup h.slots hslot, hnodup h.keys fun c hc => ?_⟩
  · rw [List.nil_append]
    exact ⟨by rw [hbkey]; exact hb, trivial⟩
  · have htoken : tokenBehind s.nextToken (past ++ [.inHand b]) = b.token := by
      rw [tokenBehind, hbenches, List.getLast?_append]
      rfl
    rw [htoken, List.flatMap_append, freedIds_append]
    have houts : freedIds ([Change.inHand b].flatMap Change.outs) = freedIds b.outs := congrArg freedIds (List.append_nil _)
    rw [houts]
    exact hb.carries.room
  · rw [hbkey]
    exact hkey c hc

/-! ### The record of one key (R33, check 1) -/

/-- A FREE slot that is not prepared is not that of a record in hand. -/
theorem State.handling.slot_ne (hb : s.handling b fs) {prepared : List Nat} (hnew : b.isNew = true → b.slot ∈ prepared)
    (hm : s.isFree m = true ∧ m ∉ prepared) : b.slot ≠ m := by
  rintro rfl
  rcases hb.place with ⟨hyes, -, -⟩ | ⟨-, hin, -⟩
  · exact hm.2 (hnew hyes)
  · exact Bool.noConfusion (hm.1.symm.trans hin.2.1)

/-- A record in hand under another key is in another slot. -/
theorem State.handling.slot_ne_held (hb : s.handling b fs) (hin : s.inHand n) (hkey : (s.store.slot n).val.ident.key = some q)
    (hne : b.body.key ≠ q) : b.slot ≠ n := by
  rintro rfl
  rcases hb.place with ⟨-, hfree, -⟩ | ⟨-, -, hkey'⟩
  · exact Bool.noConfusion (hfree.symm.trans hin.2.1)
  · exact hne (Option.some.inj (hkey'.symm.trans hkey))

theorem prepareHeld_leads (h : s.examining k past) (hnone : s.lookup q = none) {tok : Option Token}
    (htok : tok.getD s.nextToken = tokenBehind s.nextToken past) {prepared : List Nat}
    (hprepared : ∀ b ∈ benchesOf past, b.isNew = true → b.slot ∈ prepared) :
    (orHandOver past (prepareRecord q tok prepared)).leads s fun r y => y.examined k q (benchesOf past) (r, past) := by
  refine orHandOver_leads past ((prepareRecord_leads h.orderly hnone htok h.chain.grows prepared h.room).mono fun r y ⟨hy, hp, hok⟩ => ?_)
  obtain ⟨ns, hapart, hns⟩ := hp.apart
  have hother : ∀ m, s.isFree m = true ∧ m ∉ prepared → ∀ b ∈ benchesOf past, b.slot ≠ m := fun m hm b hb =>
    (h.chain.mem b hb).1.slot_ne (hprepared b hb) hm
  refine ⟨h.of_apart hapart hp.token hp.counter hp.waiter (fun b hb => ⟨fun hmem => hother _ (hns _ hmem) b hb rfl, List.not_mem_nil⟩) hy, rfl,
    fun b hb => ?_⟩
  obtain ⟨hl, hfree, hnot, -⟩ := hok b hb
  exact ⟨by rw [hp.token]; exact hl, hother _ ⟨hfree, hnot⟩⟩

theorem locateHeld_leads (h : s.examining k past) (hq : ∀ b ∈ benchesOf past, b.body.key ≠ q) {tok : Option Token}
    (htok : ∀ T, tok.getD T = tokenBehind T past) {prepared : List Nat} (hprepared : ∀ b ∈ benchesOf past, b.isNew = true → b.slot ∈ prepared) :
    (locateHeld q tok prepared past).leads s fun r y => y.examined k q (benchesOf past) r := by
  refine Take.leads_get ?_
  split
  next hnone =>
    exact Take.leads_bind ((prepareHeld_leads h hnone (htok _) hprepared).mono fun _ _ hy => Take.leads_pure hy)
  next e he =>
    refine Take.leads_ite (fun _ => Take.leads_pure ⟨h, rfl, nofun⟩) fun hquar => ?_
    obtain ⟨hin, hkey⟩ := h.orderly.lookup_held he hquar
    have hslot : ∀ b ∈ benchesOf past, b.slot ≠ e.slot := fun b hb => (h.chain.mem b hb).1.slot_ne_held hin hkey (hq b hb)
    have hother : ∀ b ∈ benchesOf past, b.slot ∉ [e.slot] ∧ b.body.key ∉ [q] := fun b hb =>
      ⟨fun hmem => hslot b hb (List.mem_singleton.1 hmem), fun hmem => hq b hb (List.mem_singleton.1 hmem)⟩
    have hfresh : ∀ id ∈ s.queueOf e.slot, id ∉ freedIds (past.flatMap Change.outs) := fun id hid hfreed => by
      obtain ⟨hnot, w, hw, hwslot⟩ := (h.orderly.tidy.queues e.slot).2 id hid
      rcases mem_freedIds_outs.1 hfreed with hout | ⟨b, hb, hout⟩
      · exact hnot hout
      · obtain ⟨-, w', hw', hwslot'⟩ := (h.orderly.tidy.queues b.slot).2 id ((h.chain.mem b hb).1.queue.mem_iff.2 (List.mem_append_right _ hout))
        obtain rfl := Option.some.inj (hw.symm.trans hw')
        exact hslot b hb (hwslot'.symm.trans hwslot)
    refine Take.leads_bind ((touchHeld_leads h.orderly hin hkey (htok _) h.chain.grows h.room hfresh).mono fun r x ⟨hx, ht⟩ => ?_)
    have hcommits : x.examining k (past ++ [.committed r.2]) := h.commits ht.besides ht.waiter hother ht.usual hx
    have hbenches : benchesOf (past ++ [.committed r.2]) = benchesOf past := by
      rw [benchesOf_append]
      exact List.append_nil _
    obtain ⟨r, outs⟩ := r
    cases r with
    | quarantined => exact Take.leads_pure ⟨hcommits, hbenches, nofun⟩
    | gone =>
      have hbehind : tok.getD x.nextToken = tokenBehind x.nextToken (past ++ [.committed outs]) := by
        rw [tokenBehind, hbenches]
        exact htok _
      refine Take.leads_bind ((prepareHeld_leads hcommits (ht.gone rfl) hbehind fun b hb => hprepared b (hbenches ▸ hb)).mono
        fun r y hy => Take.leads_pure ?_)
      rw [hbenches] at hy
      exact hy
    | held b =>
      obtain ⟨rfl, ho⟩ := ht.held b rfl
      rw [show freedIds (Touched.held b, ([] : List Out)).2 = [] from rfl, List.append_nil] at hx
      refine Take.leads_pure ⟨h.of_apart ht.besides.apart ht.besides.token ht.besides.counter ht.waiter hother hx, rfl, fun c hc => ?_⟩
      obtain rfl := Except.ok.inj hc
      exact ⟨by rw [ht.besides.token]; exact ho.located, fun c hc => by rw [ho.slot]; exact hslot c hc⟩

/-! ### The keys in listed order (R32, R33) -/

theorem setItemOn_ok {client : Nat} {md : Mode} {term : Term} {it : SetItem} (h : setItemOn b client md term = .ok it) :
    it.bench = b ∧ b.body.admissible client it.mode := by
  unfold setItemOn at h
  split at h
  · cases h
  · split at h
    · cases h
    · split at h
      next hgrant =>
        obtain rfl := Except.ok.inj h
        exact ⟨rfl, ((Bench.grantable_iff _ _ _).1 hgrant).1⟩
      next => cases h

theorem tokenAfter_getD {done : List SetItem} (h : done.map SetItem.bench = benchesOf past) (T : Token) :
    (tokenAfter done).getD T = tokenBehind T past := by
  rw [tokenBehind, ← h, List.getLast?_map, Option.map_map]
  rfl

theorem mem_preparedSlots {done : List SetItem} (h : done.map SetItem.bench = benchesOf past) : ∀ b ∈ benchesOf past, b.isNew = true →
    b.slot ∈ preparedSlots done := fun b hb hnew => by
  rw [← h] at hb
  obtain ⟨it, hit, rfl⟩ := List.mem_map.1 hb
  exact List.mem_map_of_mem (List.mem_filter.2 ⟨hit, hnew⟩)

theorem State.examining.closeAll (h : s.examining k past) : (Machine.closeAll past).leads s fun _ y => y.orderly [] k :=
  closeAll_leads past h.orderly h.chain nofun h.slots h.keys

/-- The records of a set that may be granted. -/
structure State.grantsAll (s : State) (k client : Nat) (done : List SetItem) (past : List Change) : Prop where
  examining : s.examining k past
  benches   : done.map SetItem.bench = benchesOf past
  admitted  : ∀ it ∈ done, it.bench.body.admissible client it.mode

theorem examine_leads (client : Nat) (term : Term) : ∀ (items : List (Key × Mode)) {done : List SetItem} {past : List Change} {s : State},
    s.grantsAll k client done past → (items.map Prod.fst).Nodup → (∀ q ∈ items.map Prod.fst, ∀ b ∈ benchesOf past, b.body.key ≠ q) →
    (examine client term items done past).leads s fun r y => (∀ e, r = .error e → y.orderly [] k) ∧
      ∀ l p, r = .ok (l, p) → y.grantsAll k client l p ∧ l.length = done.length + items.length
  | [], done, past, s, h, _, _ => Take.leads_pure ⟨nofun, fun l p hok => by
      obtain ⟨rfl, rfl⟩ := Prod.mk.inj (Except.ok.inj hok)
      exact ⟨h, rfl⟩⟩
  | (q, m) :: items, done, past, s, h, hnodup, hkeys => by
    rw [List.map_cons] at hnodup hkeys
    obtain ⟨hq, hitems⟩ := List.nodup_cons.1 hnodup
    obtain ⟨hne, hrest⟩ := List.forall_mem_cons.1 hkeys
    refine Take.leads_bind ((locateHeld_leads h.examining hne (tokenAfter_getD h.benches) (mem_preparedSlots h.benches)).mono fun r y hy => ?_)
    obtain ⟨r, past'⟩ := r
    cases r with
    | error st => exact Take.leads_bind (hy.examining.closeAll.mono fun _ _ hz => Take.leads_pure ⟨fun _ _ => hz, nofun⟩)
    | ok b =>
      obtain ⟨hb, hslot⟩ := hy.located b rfl
      have htakes : y.examining k (past' ++ [.inHand b]) := hy.examining.takes hb (fun c hc => hslot c (hy.benches ▸ hc)) fun c hc =>
        hne c (hy.benches ▸ hc)
      have hbenches : benchesOf (past' ++ [.inHand b]) = benchesOf past ++ [b] := (benchesOf_append past' _).trans (congrArg (· ++ [b]) hy.benches)
      dsimp only
      cases hit : setItemOn b client m term with
      | error st => exact Take.leads_bind (htakes.closeAll.mono fun _ _ hz => Take.leads_pure ⟨fun _ _ => hz, nofun⟩)
      | ok it =>
        obtain ⟨hbench, hadm⟩ := setItemOn_ok hit
        have hall : y.grantsAll k client (done ++ [it]) (past' ++ [.inHand b]) := by
          refine ⟨htakes, ?_, List.forall_mem_append.2 ⟨h.admitted, List.forall_mem_singleton.2 (by rw [hbench]; exact hadm)⟩⟩
          rw [hbenches, List.map_append, h.benches, List.map_singleton, hbench]
        refine (examine_leads client term items hall hitems fun q' hq' => ?_).mono fun r z ⟨herror, hok⟩ => ⟨herror, fun l p hlp => ?_⟩
        · rw [hbenches]
          refine List.forall_mem_append.2 ⟨hrest q' hq', List.forall_mem_singleton.2 ?_⟩
          rw [hb.key]
          rintro rfl
          exact hq hq'
        · obtain ⟨hl, hlength⟩ := hok l p hlp
          refine ⟨hl, ?_⟩
          rw [hlength, List.length_append, List.length_singleton, List.length_cons]
          omega

end

end Sys2Proof.Machine
end

section
/-! PROOFS. The grants of ACQUIRE SET on the way of a take (R34). -/

namespace Sys2Proof.Machine

/-- The grants of a set, each record with the waiters that its touch took from its queue. -/
def grantedSet (now : Tick) (client : Nat) : Token → List SetItem → List (Bench × List Nat)
  | _, [] => []
  | tok, x :: xs =>
    (Bench.issue now client x.mode x.term { x.bench with token := tok, outs := [] }, freedIds x.bench.outs) ::
      grantedSet now client (tokenNext tok) xs

section
variable {s x y : State} {b : Bench} {out ids fs : List Nat} {k n : Nat} {q : Key} {T : Token} {past : List Change} {outs : List Out}
  {now : Tick} {client : Nat}

theorem grantedSet_fst : ∀ (items : List SetItem) (tok : Token), (grantedSet now client tok items).map Prod.fst = issueSet now client tok items
  | [], _ => rfl
  | _ :: items, tok => congrArg _ (grantedSet_fst items (tokenNext tok))

theorem grantedSet_snd : ∀ (items : List SetItem) (tok : Token),
    (grantedSet now client tok items).flatMap Prod.snd = (items.map SetItem.bench).flatMap fun b => freedIds b.outs
  | [], _ => rfl
  | it :: items, tok => congrArg (freedIds it.bench.outs ++ ·) (grantedSet_snd items (tokenNext tok))

/-- The grants stand on the slots and keys of the records in hand. -/
theorem grantedSet_map {α : Type} {f : Bench → α} (hf : ∀ (b : Bench) (m : Mode) (term : Term) (tok : Token),
    f (Bench.issue now client m term { b with token := tok, outs := [] }) = f b) : ∀ (items : List SetItem) (tok : Token),
    (grantedSet now client tok items).map (fun p => f p.1) = (items.map SetItem.bench).map f
  | [], _ => rfl
  | it :: items, tok => by
    rw [grantedSet, List.map_cons, List.map_cons, List.map_cons, grantedSet_map hf items, hf]

theorem grantedSet_last : ∀ (items : List SetItem) (tok : Token), items ≠ [] →
    ((grantedSet now client tok items).map Prod.fst).getLast?.map Bench.token = some (tokenNext^[items.length] tok)
  | [], _, h => absurd rfl h
  | [_], _, _ => rfl
  | _ :: it' :: items, tok, _ => grantedSet_last (it' :: items) (tokenNext tok) (List.cons_ne_nil it' items)

/-- A grant is issued on a record in hand, with a token that is not below those it has. -/
theorem State.handling.issue (hb : s.handling b fs) (hle : b.token.toNat ≤ T.toNat) (hne : T ≠ 0) (hlt : T.toNat + 1 < 2 ^ 48) {m : Mode}
    (hadm : b.body.admissible client m) (term : Term) : s.handling (Bench.issue now client m term { b with token := T, outs := [] }) fs where
  slot := hb.slot
  place := hb.place
  holding := Bench.issue_holding (b := { b with token := T, outs := [] }) hb.holding hadm
  nonzero := List.forall_mem_append.2 ⟨hb.nonzero, List.forall_mem_singleton.2 hne⟩
  tokens hsome := by
    have hnext : (tokenNext T).toNat = T.toNat + 1 := tokenNext_iterate (m := 1) hlt
    refine List.forall_mem_append.2 ⟨fun g hg => ?_, List.forall_mem_singleton.2 ?_⟩
    · show g.token.toNat < (tokenNext T).toNat
      have hold := hb.tokens hsome g hg
      omega
    · show T.toNat < (tokenNext T).toNat
      omega
  queue := hb.queue
  clean hd := Bool.noConfusion hd

/-- A grant of the set on its record in hand, with a token below `limit`. -/
structure State.grantedTo (s : State) (limit : Nat) (p : Bench × List Nat) : Prop where
  handling : s.handling p.1 p.2
  issued   : 0 < p.1.issued
  token    : p.1.token.toNat ≤ limit
  usual    : ∀ o ∈ p.1.outs, o.usual
  freed    : freedIds p.1.outs = []

theorem grantedSet_grantedTo : ∀ (items : List SetItem) (tok : Token), tok ≠ 0 → tok.toNat + items.length < 2 ^ 48 →
    (∀ it ∈ items, s.handling it.bench (freedIds it.bench.outs) ∧ it.bench.token.toNat ≤ tok.toNat ∧
      it.bench.body.admissible client it.mode) → ∀ p ∈ grantedSet now client tok items, s.grantedTo (tok.toNat + items.length) p
  | [], _, _, _, _ => nofun
  | it :: items, tok, hne, hlt, hall => by
    obtain ⟨⟨hhand, hle, hadm⟩, hrest⟩ := List.forall_mem_cons.1 hall
    rw [List.length_cons] at hlt ⊢
    have hnext : (tokenNext tok).toNat = tok.toNat + 1 := tokenNext_iterate (m := 1) (by omega)
    have htail := grantedSet_grantedTo items (tokenNext tok) (fun hz => by rw [hz] at hnext; cases hnext) (by omega) fun x hx => by
      obtain ⟨hhand, hle, hadm⟩ := hrest x hx
      exact ⟨hhand, by omega, hadm⟩
    rw [show (tokenNext tok).toNat + items.length = tok.toNat + (items.length + 1) by omega] at htail
    refine List.forall_mem_cons.2 ⟨⟨hhand.issue hle hne (by omega) hadm it.term, Nat.succ_pos _, ?_, ?_, rfl⟩, htail⟩
    · show (tokenNext tok).toNat ≤ _
      omega
    · exact List.forall_mem_singleton.2 (.inl fun _ _ href => (Ref.grant.inj href).1 ▸ hhand.slot)

/-- R34: every record of the set takes its grant in one commit, and the results of the touches are handed over with it. -/
theorem grantSet_leads {items : List SetItem} (h : s.grantsAll 4 client items past) (hne : items ≠ []) (hlen : items.length ≤ 4) :
    (grantSet client items past).leads s fun _ y => y.orderly [] 0 := by
  have hexam := h.examining
  obtain ⟨tok, htok⟩ : ∃ tok, tok = tokenBehind s.nextToken past := ⟨_, rfl⟩
  have hroom := hexam.room
  have hgrows := hexam.chain.grows
  rw [← htok] at hroom hgrows
  rw [State.roomFor] at hroom
  have htokne : tok ≠ 0 := fun hz => hexam.orderly.nextToken_ne_zero (BitVec.eq_of_toNat_eq (by
    rw [hz] at hgrows
    exact Nat.le_zero.1 hgrows))
  have hafter : (tokenAfter items).getD 0 = tok := by
    rw [htok, ← tokenAfter_getD h.benches]
    cases items with
    | nil => exact absurd rfl hne
    | cons it items =>
      rw [tokenAfter, List.getLast?_cons]
      rfl
  have hall := grantedSet_grantedTo (s := s) (now := s.now) (client := client) items tok htokne (by omega) fun it hit => by
    obtain ⟨hhand, hle⟩ := hexam.chain.mem it.bench (h.benches ▸ List.mem_map_of_mem hit)
    exact ⟨hhand, htok ▸ hle, h.admitted it hit⟩
  have hlast : (tokenNext^[items.length] tok).toNat = tok.toNat + items.length := tokenNext_iterate (by omega)
  have hslots := grantedSet_map (now := s.now) (client := client) (f := Bench.slot) (fun _ _ _ _ => rfl) items tok
  have hkeys := grantedSet_map (now := s.now) (client := client) (f := fun b => b.body.key) (fun _ _ _ _ => rfl) items tok
  have hids : ∀ id, id ∈ freedIds (committedOuts past) ++ (grantedSet s.now client tok items).flatMap Prod.snd ↔
      id ∈ freedIds (past.flatMap Change.outs) := fun id => by
    rw [grantedSet_snd, h.benches, mem_freedIds_outs, List.mem_append, List.mem_flatMap]
  have hfst := grantedSet_fst (now := s.now) (client := client) items tok
  have hend := grantedSet_last (now := s.now) (client := client) items tok hne
  have hnil : grantedSet s.now client tok items ≠ [] := fun hz => by
    rw [hz] at hend
    cases hend
  refine Take.leads_get ?_
  rw [hafter, ← hfst]
  generalize grantedSet s.now client tok items = l at *
  rw [h.benches] at hslots hkeys
  have hwaiting : s.waiting (freedIds (committedOuts past) ++ l.flatMap Prod.snd) ≤ s.waiting (freedIds (past.flatMap Change.outs)) :=
    State.waiting_congr fun id hsome hnot => ⟨hsome, fun hin => hnot ((hids id).2 hin)⟩
  have hclose := closeBenches_leads (l := l) (T := tokenNext^[items.length] tok) (k := 0) hexam.orderly (by rw [hslots]; exact hexam.slots)
    (by rw [hkeys]; exact hexam.keys) (fun p hp => (hall p hp).handling) (fun hsome p hp g hg => by
      have hg' := (hall p hp).handling.tokens hsome g hg
      have hp' := (hall p hp).token
      omega) (by omega) (fun _ => hend) (fun hz => by
      obtain ⟨p, hp⟩ := List.exists_mem_of_ne_nil l hnil
      exact absurd (hz p hp) (Nat.ne_of_gt (hall p hp).issued)) (by rw [State.roomFor]; omega)
  refine Take.leads_bind ((orHandOver_leads past hclose).mono fun _ y ⟨hy, _⟩ => ?_)
  have hgrantOuts : ∀ l' : List (Bench × List Nat), (∀ p ∈ l', freedIds p.1.outs = []) → freedIds ((l'.map Prod.fst).flatMap Bench.outs) = [] :=
    fun l' => by
      induction l' with
      | nil => exact fun _ => rfl
      | cons p l' ih =>
        intro hp
        obtain ⟨hone, hrest⟩ := List.forall_mem_cons.1 hp
        rw [List.map_cons, List.flatMap_cons, freedIds_append, hone, ih hrest]
        rfl
  have hfreed : freedIds (past.flatMap Change.outs ++ (l.map Prod.fst).flatMap Bench.outs) = freedIds (past.flatMap Change.outs) := by
    rw [freedIds_append, hgrantOuts l fun p hp => (hall p hp).freed, List.append_nil]
  refine Take.leads_bind ((deliver_leads hy (os := past.flatMap Change.outs ++ (l.map Prod.fst).flatMap Bench.outs)
    (List.forall_mem_append.2 ⟨hexam.chain.usual, fun o ho => ?_⟩) fun id hid => ?_).mono fun _ z ⟨hz, hf⟩ => Take.leads_pure ?_)
  · obtain ⟨b, hb, ho⟩ := List.mem_flatMap.1 ho
    obtain ⟨p, hp, rfl⟩ := List.mem_map.1 hb
    exact (hall p hp).usual o ho
  · rw [hfreed] at hid
    exact (hids id).2 hid
  · refine hz.cleared nofun fun id hid => .inr ?_
    rw [hf.waiter, hfreed, if_pos ((hids id).1 hid)]

/-! ### ACQUIRE SET (R32 to R34) -/

theorem checkItems_ok : ∀ {items : List (Key × Byte)} {seen : List Key} {i : Nat} {l : List (Key × Mode)}, checkItems items seen i = .ok l →
    (l.map Prod.fst).Nodup ∧ (∀ q ∈ l.map Prod.fst, q ∉ seen) ∧ l.length = items.length
  | [], _, _, _, h => by
    obtain rfl := Except.ok.inj h
    exact ⟨List.nodup_nil, nofun, rfl⟩
  | (q, mb) :: items, seen, i, l, h => by
    rw [checkItems] at h
    split at h
    · cases h
    · split at h
      · cases h
      next m _ =>
        split at h
        · cases h
        next hnot =>
          split at h
          · cases h
          next l' hl' =>
            obtain rfl := Except.ok.inj h
            obtain ⟨hnodup, hseen, hlength⟩ := checkItems_ok hl'
            refine ⟨?_, ?_, congrArg Nat.succ hlength⟩
            · exact List.nodup_cons.2 ⟨fun hmem => hseen q hmem List.mem_cons_self, hnodup⟩
            · exact List.forall_mem_cons.2 ⟨fun hmem => hnot (List.contains_iff_mem.2 hmem), fun q' hq' hmem =>
                hseen q' hq' (List.mem_cons_of_mem _ hmem)⟩

theorem acquireSetWork_leads (f : Frame) (h : s.orderly [] 4) : (acquireSetWork f).leads s fun _ y => y.orderly [] 0 := by
  have hweak : ∀ {x : State}, x.orderly [] 4 → x.orderly [] 0 := fun hx => hx.weaken (Nat.zero_le 4)
  refine Take.leads_ite (fun _ => Take.leads_pure (hweak h)) fun _ => Take.leads_ite (fun _ => Take.leads_pure (hweak h)) fun hcount => ?_
  split
  · exact Take.leads_pure (hweak h)
  next items hitems =>
    obtain ⟨hnodup, -, hlength⟩ := checkItems_ok hitems
    have hitemsLength : items.length = (byteAt f.args 0).toNat := by
      rw [hlength, setItems_eq, List.length_map, List.length_range]
    have hstart : s.grantsAll 4 f.client.toNat [] [] := ⟨⟨h, trivial, h.room, List.nodup_nil, List.nodup_nil⟩, rfl, nofun⟩
    refine Take.leads_bind ((examine_leads f.client.toNat (termAt f.args 1) items hstart hnodup fun _ _ => nofun).mono fun r y ⟨herror, hok⟩ => ?_)
    cases r with
    | error e => exact Take.leads_pure (hweak (herror e rfl))
    | ok p =>
      obtain ⟨l, past⟩ := p
      obtain ⟨hl, hlen⟩ := hok l past rfl
      rw [List.length_nil, Nat.zero_add, hitemsLength] at hlen
      exact grantSet_leads hl (fun hz => hcount (.inl (by rw [← hlen, hz]; rfl))) (by omega)

end

end Sys2Proof.Machine
end

section
/-! PROOFS. The order of checks, the frames and WIPE (R129, R136, R183, R184). -/

namespace Sys2Proof.Machine

section
variable {s x y : State} {out : List Nat} {k : Nat}

/-! ### The order of checks (R184) -/

theorem judgedWith_leads {m : Marks} {f : Frame} {session : Take (Option Status)} {work : Take Reply} {P Q : State → Prop} (h : P s)
    (hrefused : ∀ x, P x → Q x) (hsession : session.leads s fun _ x => P x) (hwork : ∀ x, P x → work.leads x fun _ y => Q y) :
    (judgedWith m f session work).leads s fun _ y => Q y := by
  refine Take.leads_get (Take.leads_ite (fun _ => Take.leads_pure (hrefused s h)) fun _ => Take.leads_ite
    (fun _ => Take.leads_pure (hrefused s h)) fun _ => Take.leads_bind (hsession.mono fun o x hx => ?_))
  cases o with
  | some st => exact Take.leads_pure (hrefused x hx)
  | none => exact Take.leads_ite (fun _ => Take.leads_pure (hrefused x hx)) fun _ => hwork x hx

theorem State.orderly.accept (h : s.orderly out k) (p : PortId) : (s.accept p).orderly out k :=
  h.of_beside ⟨Store.alike.refl _, rfl, rfl, rfl, rfl, rfl, id, id⟩ (State.between_of_main h.between rfl rfl id) rfl

/-- A frame taken leaves sound records, or STORE_FAULT mode (R136, R183). -/
theorem takeFrame_sound {i : Instr} {cmd : Byte} {f : Frame} {work : Take Reply} (h : s.sound)
    (hwork : work.leads (s.accept f.port) fun _ y => ¬ y.inFault → y.sound) :
    ¬ (s.takeFrame i cmd f work).inFault → (s.takeFrame i cmd f work).sound := by
  rw [State.takeFrame]
  rw [Take.leads] at hwork
  split
  · cases hrun : work (s.accept f.port) with
    | ok r y =>
      rw [hrun] at hwork
      exact fun hn => (hwork hn).respond _ _ _
    | error e y =>
      rw [hrun] at hwork
      exact fun hn => absurd hwork.fault hn
  · exact fun _ => h

theorem judgedFrame_sound {i : Instr} {cmd : Byte} {f : Frame} {m : Marks} {work : Take Reply} (h : s.orderly [] 4)
    (hwork : ∀ x : State, x.orderly [] 4 → work.leads x fun _ y => y.orderly [] 0) :
    ¬ (s.takeFrame i cmd f (judged m f work)).inFault → (s.takeFrame i cmd f (judged m f work)).sound :=
  takeFrame_sound h.sound ((judgedWith_leads (P := fun x => x.orderly [] 4) (h.accept f.port) (fun _ hx => hx.weaken (Nat.zero_le 4))
    (sessionStep_leads m.need f (h.accept f.port)) hwork).mono fun _ _ hy _ => hy.sound)

/-- The work of a command that issues no token but to waiters. -/
theorem judgedFrame_keeps {i : Instr} {cmd : Byte} {f : Frame} {m : Marks} {work : Take Reply} (h : s.orderly [] 4)
    (hwork : ∀ x : State, x.orderly [] 0 → work.leads x fun _ y => y.orderly [] 0) :
    ¬ (s.takeFrame i cmd f (judged m f work)).inFault → (s.takeFrame i cmd f (judged m f work)).sound :=
  judgedFrame_sound h fun x hx => hwork x (hx.weaken (Nat.zero_le 4))

/-- OPEN and REATTACH make their own session checks (R68, R80). -/
theorem uncheckedFrame_keeps {i : Instr} {cmd : Byte} {f : Frame} {m : Marks} {o : Option Status} {work : Take Reply} (h : s.orderly [] 4)
    (hwork : ∀ x : State, x.orderly [] 0 → work.leads x fun _ y => y.orderly [] 0) :
    ¬ (s.takeFrame i cmd f (judgedWith m f (pure o) work)).inFault → (s.takeFrame i cmd f (judgedWith m f (pure o) work)).sound := by
  have hx := (h.accept f.port).weaken (Nat.zero_le 4)
  exact takeFrame_sound h.sound ((judgedWith_leads (P := fun x => x.orderly [] 0) hx (fun _ hx => hx) (Take.leads_pure hx) hwork).mono
    fun _ _ hy _ => hy.sound)

/-! ### WIPE (R129, R130; log 12) -/

theorem State.halted.of_beside (h : s.halted) (hb : s.beside x) (hx : x.between) (hf : x.inFault) : x.halted :=
  ⟨hf, hx, hb.footed h.footed, fun v hv => h.room v (hb.store.token.symm.trans hv)⟩

theorem readSession_halted (c : Nat) (h : s.halted) : (readSession c).leads s fun _ x => x.halted := by
  obtain ⟨hb, hx⟩ := State.beside_read (.session c) h.between
  obtain ⟨m, hmain, -, hvalue⟩ := Control.read_main (sessionWord c) s
  rw [Take.leads, readSession]
  rcases hr : (sessionWord c).read s with ⟨x, o⟩
  rw [hr] at hb hx hmain hvalue
  rcases hvalue with ⟨rfl, hfault⟩ | ⟨⟨v, rfl, -⟩, hfault⟩
  · dsimp only
    rw [if_pos h.fault]
    exact h.of_beside hb hx (by rw [State.inFault, hmain]; exact hfault)
  · exact h.of_beside hb hx (by rw [State.inFault, hmain]; exact hfault.trans h.fault)

theorem liveEntry_halted (c : Nat) (h : s.halted) : (liveEntry c).leads s fun _ x => x.halted := by
  refine Take.leads_get (Take.leads_bind ((readSession_halted c h).mono fun o x hx => ?_))
  cases o with
  | none => exact Take.leads_pure hx
  | some e =>
    exact Take.leads_ite (fun _ => Take.leads_pure hx) fun _ => Take.leads_ite (fun _ => Take.leads_ite (fun _ => Take.leads_pure hx)
      fun hno => absurd h.fault hno) fun _ => Take.leads_pure hx

theorem State.halted.refresh (h : s.halted) (c : Nat) (e : SessEntry) : (s.refresh c e).halted :=
  h.of_main (steady_between.refresh s c e h.between) rfl rfl

theorem checkSession_halted (f : Frame) (h : s.halted) : (checkSession f).leads s fun _ x => x.halted := by
  refine Take.leads_ite (fun _ => Take.leads_pure h) fun _ => Take.leads_bind ((liveEntry_halted _ h).mono fun o x hx => ?_)
  cases o with
  | none => exact Take.leads_pure hx
  | some e =>
    exact Take.leads_ite (fun _ => Take.leads_pure hx) fun _ => Take.leads_ite (fun _ => Take.leads_pure hx) fun _ =>
      Take.leads_ite (fun _ => Take.leads_pure hx) fun _ => Take.leads_bind (Take.leads_modify (Take.leads_pure (hx.refresh _ e)))

/-- What the session step of WIPE leaves: the take on its way, or a lost control word (R136). -/
theorem wipeSession_leads (f : Frame) (h : s.orderly [] k) : (wipeSession f).leads s fun _ x => x.orderly [] k ∨ x.halted := by
  have hstep := sessionStep_leads .may f h
  have hsecond : ∀ x : State, x.halted → (sessionStep .may f).leads x fun _ x => x.halted := fun x hx =>
    Take.leads_ite (fun _ => Take.leads_pure hx) fun _ => checkSession_halted f hx
  rw [Take.leads] at hstep ⊢
  rw [wipeSession, Take.run_tryCatch]
  cases hrun : sessionStep .may f s with
  | ok o x =>
    rw [hrun] at hstep
    exact .inl hstep
  | error e x =>
    rw [hrun] at hstep
    have hagain := hsecond x hstep
    rw [Take.leads] at hagain
    dsimp only
    cases hrun2 : sessionStep .may f x with
    | ok o y =>
      rw [hrun2] at hagain
      exact .inr hagain
    | error e y =>
      rw [hrun2] at hagain
      exact hagain

theorem wipeFrame_sound (f : Frame) (h : s.orderly [] 4) : ¬ (takeWipe f s).inFault → (takeWipe f s).sound := by
  refine takeFrame_sound h.sound (judgedWith_leads (P := fun x => x.orderly [] 4 ∨ x.halted) (.inl (h.accept f.port))
    (fun x hx hn => hx.elim State.orderly.sound fun hx => absurd hx.fault hn) (wipeSession_leads f (h.accept f.port)) fun x hx => ?_)
  have hwiped : ¬ x.wipe.inFault ∧ x.wipe.sound := by
    rcases hx with hx | hx
    · refine State.wipe_sound hx.between hx.footed fun v hv => ?_
      have hroom := hx.room
      rw [State.roomFor, State.nextToken_of_value hv] at hroom
      omega
    · exact State.wipe_sound hx.between hx.footed hx.room
  exact Take.leads_bind (Take.leads_modify (Take.leads_pure fun _ => hwiped.2))

end

end Sys2Proof.Machine
end

section
/-! PROOFS. Every step keeps the records sound (R23, R25, R93, R101). -/

namespace Sys2Proof.Machine

section
variable {s t : State} {out : List Nat} {k : Nat}

/-! ### The clock and the transactions of the ports (R89, R96, R177 to R180) -/

theorem State.orderly.setTb (h : s.orderly out k) (tb : Timebase) : (s.setTb tb).orderly out k :=
  h.of_beside ⟨Store.alike.refl _, rfl, rfl, rfl, rfl, rfl, id, id⟩ (State.between_of_main h.between rfl rfl id) rfl

theorem State.orderly.setPort (h : s.orderly out k) (p : PortId) (x : Port) : (s.setPort p x).orderly out k :=
  h.of_beside ⟨Store.alike.refl _, rfl, rfl, rfl, rfl, rfl, id, id⟩ (State.between_of_main h.between rfl rfl id) rfl

theorem State.orderly.setArbiter (h : s.orderly out k) (ps : List PortId) : (s.setArbiter ps).orderly out k :=
  h.of_beside ⟨Store.alike.refl _, rfl, rfl, rfl, rfl, rfl, id, id⟩ (State.between_of_main h.between rfl rfl id) rfl

/-- Entries that fall due keep their references (R96). -/
theorem State.orderly.fallDue (h : s.orderly out k) {g : Entry → Entry} (hg : ∀ e, (g e).ref = e.ref) :
    (s.setSched (s.main.sched.map g)).orderly out k := by
  refine h.of_beside ⟨Store.alike.refl _, rfl, rfl, rfl, rfl, rfl, fun hs e he n tok href => ?_, id⟩
    (State.between_of_main h.between rfl rfl id) rfl
  obtain ⟨e', he', rfl⟩ := List.mem_map.1 he
  exact hs e' he' n tok ((hg e').symm.trans href)

theorem takeAdvance_orderly (cycles : Nat) (h : s.orderly out k) : (takeAdvance cycles s).orderly out k := by
  have htb := h.setTb (s.tb.advance cycles)
  have hdue := htb.fallDue (g := Entry.reached (s.setTb (s.tb.advance cycles)).now) (Entry.reached_ref _)
  rw [takeAdvance]
  split
  · exact h
  · dsimp only
    split
    · split
      · exact hdue.setMon rfl rfl
      · exact hdue
    · exact htb

theorem takeFallsDue_orderly (r : Ref) (h : s.orderly out k) : (takeFallsDue r s).orderly out k := by
  rw [takeFallsDue]
  split
  · refine h.fallDue fun e => ?_
    split
    · exact Entry.reached_ref _ _
    · rfl
  · exact h

theorem takeScrubPending_orderly (h : s.orderly out k) : (takeScrubPending s).orderly out k := by
  rw [takeScrubPending]
  split
  · exact h.setMon rfl rfl
  · exact h

theorem takeStatusRead_orderly (p : PortId) (a : BitVec 7) (l : Bool) (n : Nat) (h : s.orderly out k) :
    (takeStatusRead p a l n s).orderly out k := by
  rw [takeStatusRead]
  split
  · exact h.setPort p _
  · exact h

theorem takeResponseRead_orderly (p : PortId) (a : BitVec 7) (n : Nat) (h : s.orderly out k) : (takeResponseRead p a n s).orderly out k := by
  rw [takeResponseRead]
  split
  · exact h.setPort p _
  · exact h

theorem takeFirstByte_orderly (p : PortId) (a : BitVec 7) (b : Byte) (h : s.orderly out k) : (takeFirstByte p a b s).orderly out k := by
  rw [takeFirstByte]
  split
  · exact h.setPort p _
  · exact h

theorem takeFrameEnd_orderly (p : PortId) (more : List Byte) (h : s.orderly out k) : (takeFrameEnd p more s).orderly out k := by
  rw [takeFrameEnd]
  split
  · dsimp only
    split
    · exact (h.setPort p _).setArbiter _
    · exact h.setPort p _
  · exact h

/-! ### The events and the steps of the directory (R40, R55, R72, R73, R150, R155) -/

/-- A take of the directory leaves sound records, or STORE_FAULT mode (R136). -/
theorem State.run_sound {work : Take Unit} (h : work.leads s fun _ y => y.orderly [] k) : ¬ (s.run work).inFault → (s.run work).sound :=
  fun hn => ((Take.leads_run h).resolve_right hn).sound

theorem firstDue_mem {directory : Bool} {e : Entry} (h : s.firstDue directory = some e) : e ∈ s.main.sched := List.mem_of_find?_eq_some h

theorem takeGrantExpiry_sound (slot : Nat) (token : Token) (deadline : Tick) (h : s.orderly [] k) :
    ¬ (takeGrantExpiry slot token deadline s).inFault → (takeGrantExpiry slot token deadline s).sound := by
  rw [takeGrantExpiry]
  split
  · exact fun _ => h.sound
  next e he =>
    split
    next hevent =>
      obtain ⟨_, href, _⟩ := hevent
      have hmem : e ∈ s.main.sched := by
        rw [State.nextDirectoryEvent] at he
        split at he
        · exact firstDue_mem he
        · cases he
      exact State.run_sound (expireRecord_leads (h.tidy.sched e hmem slot token href) token deadline (h.schedRemove e.ref))
    next => exact fun _ => h.sound

theorem takeWaitDeadline_sound (id : Nat) (deadline : Tick) (h : s.orderly [] k) :
    ¬ (takeWaitDeadline id deadline s).inFault → (takeWaitDeadline id deadline s).sound := by
  rw [takeWaitDeadline]
  split
  · exact fun _ => h.sound
  next e _ =>
    split
    · exact State.run_sound (timeoutRecord_leads id deadline (h.schedRemove e.ref))
    · exact fun _ => h.sound

theorem takeHeartbeat_sound (c : Nat) (deadline : Tick) (h : s.orderly [] k) :
    ¬ (takeHeartbeat c deadline s).inFault → (takeHeartbeat c deadline s).sound := by
  rw [takeHeartbeat]
  split
  · exact fun _ => h.sound
  next e _ =>
    split
    · exact State.run_sound (sessionEvent_leads .heartbeat .opened c deadline (h.schedRemove e.ref))
    · exact fun _ => h.sound

theorem takeGrace_sound (c : Nat) (deadline : Tick) (h : s.orderly [] k) :
    ¬ (takeGrace c deadline s).inFault → (takeGrace c deadline s).sound := by
  rw [takeGrace]
  split
  · exact fun _ => h.sound
  next e _ =>
    split
    · exact State.run_sound (sessionEvent_leads .grace .suspect c deadline (h.schedRemove e.ref))
    · exact fun _ => h.sound

theorem takeLapse_sound (kind : SessKind) (c : Nat) (h : s.orderly [] k) : ¬ (takeLapse kind c s).inFault → (takeLapse kind c s).sound := by
  rw [takeLapse]
  split
  · exact State.run_sound (lapseWork_leads kind c ((h.requestLapse kind c false).setAudit _))
  · exact fun _ => h.sound

theorem takeScrubStep_sound (h : s.orderly [] k) : ¬ (takeScrubStep s).inFault → (takeScrubStep s).sound := by
  rw [takeScrubStep]
  split
  · exact State.run_sound (scrubWork_leads ((h.setMon (m := { s.main.mon with count := 0, stepPending := false }) rfl rfl).setAudit _))
  · exact fun _ => h.sound

theorem takeAuditStep_sound (h : s.orderly [] k) : ¬ (takeAuditStep s).inFault → (takeAuditStep s).sound := by
  rw [takeAuditStep]
  split
  · exact State.run_sound (auditStepWork_leads h)
  · exact fun _ => h.sound

/-! ### The supplies and RESET# (R163 to R166) -/

/-- A part that a supply or RESET# event leaves READY keeps its store and its main domain. -/
theorem exec_supply_ready {i : Instr} (hi : isSupply i = true) (hr : s.isReady) (he : exec i s = .next t) (ht : t.isReady) :
    ∃ pw, t = s.setPower pw := by
  have hactive : s.isActive := .inr hr
  cases i <;> simp only [isSupply, Bool.false_eq_true] at hi <;> obtain rfl := Host.Outcome.next.inj he
  case retainedPor x =>
    rw [takePor] at ht ⊢
    split at ht
    next hyes =>
      rw [if_pos hyes]
      exact ⟨s.power, rfl⟩
    next => split at ht <;> cases ht
  case vbatLoss =>
    rw [takeVbatLoss] at ht ⊢
    split at ht
    next => cases ht
    next hno =>
      rw [if_neg hno]
      exact ⟨s.power, rfl⟩
  case vddLoss w n =>
    rw [takeVddLoss] at ht ⊢
    split at ht
    next =>
      have hstate : (if s.power.vbat then PowerState.retainedOnly else .off) = .ready := ht
      split at hstate <;> cases hstate
    next hno =>
      rw [if_neg hno]
      exact ⟨s.power, rfl⟩
  case mainReset e x w n =>
    cases e with
    | vddReturn =>
      simp only [takeReset, takeVddReturn] at ht ⊢
      split at ht
      next hyes =>
        rw [if_pos hyes]
        exact ⟨s.power, rfl⟩
      next hno =>
        rw [if_neg hno]
        split at ht
        next => cases ht
        next hno' =>
          rw [if_neg hno']
          exact ⟨_, rfl⟩
    | resetLow =>
      simp only [takeReset, takeResetLow] at ht ⊢
      split at ht
      next =>
        cases ht
      next hno =>
        rw [if_neg hno]
        exact ⟨s.power, rfl⟩
    | resetHigh => exact ⟨_, rfl⟩

theorem State.sound.setPower (h : s.sound) (pw : Power) : (s.setPower pw).sound :=
  ⟨h.records, h.free, h.quar, h.held, h.index, h.queues, h.pool, h.sched, h.cursor⟩

/-! ### Every command -/

/-- A command keeps the records of a READY part in NORMAL mode sound, where it leaves the part so. -/
theorem exec_sound {i : Instr} (h : s.orderly [] 4) (hr : s.isReady) (he : exec i s = .next t) (ht : t.isReady) (hn : ¬ t.inFault) : t.sound := by
  cases hsupply : isSupply i with
  | true =>
    obtain ⟨pw, rfl⟩ := exec_supply_ready hsupply hr he ht
    exact h.sound.setPower pw
  | false =>
    revert hn
    cases i <;> simp only [isSupply, Bool.true_eq_false] at hsupply <;> obtain rfl := Host.Outcome.next.inj he
    case info f => exact judgedFrame_keeps h fun _ hx => Take.leads_get (Take.leads_pure hx)
    case time f => exact judgedFrame_keeps h fun _ hx => Take.leads_get (Take.leads_pure hx)
    case openSession f => exact uncheckedFrame_keeps h fun _ hx => openWork_leads f hx
    case close f => exact judgedFrame_keeps h fun _ hx => closeWork_leads f hx
    case ping f => exact judgedFrame_keeps h fun _ hx => Take.leads_get (Take.leads_pure hx)
    case reattach f => exact uncheckedFrame_keeps h fun _ hx => reattachWork_leads f hx
    case sessionStatus f => exact judgedFrame_keeps h fun _ hx => sessionStatusWork_leads f hx
    case create f => exact judgedFrame_keeps h fun _ hx => createWork_leads f hx
    case retire f => exact judgedFrame_keeps h fun _ hx => retireWork_leads f hx
    case lookup f => exact judgedFrame_keeps h fun _ hx => lookupWork_leads f hx
    case enumerate f => exact judgedFrame_keeps h fun _ hx => enumerateWork_leads f hx
    case acquire f => exact judgedFrame_sound h fun _ hx => acquireWork_leads f (hx.weaken (by decide))
    case acquireSet f => exact judgedFrame_sound h fun _ hx => acquireSetWork_leads f hx
    case renew f => exact judgedFrame_keeps h fun _ hx => onGrant_leads f hx fun _ _ g hy hb => renewGrant_leads (termAt f.args 10) g hy hb
    case release f => exact judgedFrame_keeps h fun _ hx => onGrant_leads f hx fun _ _ g hy hb => releaseGrant_leads g hy hb
    case downgrade f => exact judgedFrame_keeps h fun _ hx => onGrant_leads f hx fun _ _ g hy hb => downgradeGrant_leads g hy hb
    case cancelWait f => exact judgedFrame_keeps h fun _ hx => cancelWaitWork_leads f hx
    case fetchNotices f => exact judgedFrame_keeps h fun _ hx => fetchWork_leads f hx
    case attention f => exact judgedFrame_keeps h fun _ hx => attentionWork_leads f hx
    case zoneSet f => exact judgedFrame_keeps h fun _ hx => zoneSetWork_leads f hx
    case zoneFreeze f => exact judgedFrame_keeps h fun _ hx => zoneFreezeWork_leads hx
    case zoneRead f =>
      exact judgedFrame_keeps h fun _ hx => Take.leads_bind ((readControl_leads .zone hx).mono fun _ _ ⟨hy, _⟩ => Take.leads_pure hy)
    case forceRelease f => exact judgedFrame_keeps h fun _ hx => forceReleaseWork_leads f hx
    case dismiss f => exact judgedFrame_keeps h fun _ hx => dismissWork_leads f hx
    case wipe f => exact wipeFrame_sound f h
    case auditStart f => exact judgedFrame_keeps h fun _ hx => auditStartWork_leads f hx
    case auditSuspend f => exact judgedFrame_keeps h fun _ hx => auditSuspendWork_leads hx
    case auditResume f => exact judgedFrame_keeps h fun _ hx => auditResumeWork_leads hx
    case auditRead f => exact judgedFrame_keeps h fun _ hx => Take.leads_get (Take.leads_pure hx)
    case storeStatus f => exact judgedFrame_keeps h fun _ hx => storeStatusWork_leads hx
    case storeClear f => exact judgedFrame_keeps h fun _ hx => storeClearWork_leads hx
    case scrubControl f => exact judgedFrame_keeps h fun _ hx => scrubControlWork_leads f hx
    case reclaim f => exact judgedFrame_keeps h fun _ hx => reclaimWork_leads f hx
    case quarantineList f =>
      exact judgedFrame_keeps h fun _ hx => Take.leads_get (Take.leads_ite (fun _ => Take.leads_pure hx) fun _ => Take.leads_pure hx)
    case unknownCommand cmd f => exact takeFrame_sound h.sound (Take.leads_pure fun _ => (h.accept f.port).sound)
    case statusRead p a l n => exact fun _ => (takeStatusRead_orderly p a l n h).sound
    case responseRead p a n => exact fun _ => (takeResponseRead_orderly p a n h).sound
    case firstFrameByte p a b => exact fun _ => (takeFirstByte_orderly p a b h).sound
    case frameEnd p more => exact fun _ => (takeFrameEnd_orderly p more h).sound
    case grantExpiryEvent n tok d => exact takeGrantExpiry_sound n tok d h
    case waitDeadlineEvent id d => exact takeWaitDeadline_sound id d h
    case heartbeatEvent c d => exact takeHeartbeat_sound c d h
    case graceEvent c d => exact takeGrace_sound c d h
    case lapseRequest kind c => exact takeLapse_sound kind c h
    case entryFallsDue r => exact fun _ => (takeFallsDue_orderly r h).sound
    case timebaseAdvance n => exact fun _ => (takeAdvance_orderly n h).sound
    case scrubStepPending => exact fun _ => (takeScrubPending_orderly h).sound
    case scrubStep => exact takeScrubStep_sound h
    case auditStep => exact takeAuditStep_sound h
    case restartSweep =>
      have hidle : ¬ (s.power.state = .restarting ∧ s.power.resetN = true) := fun ⟨hstate, _⟩ => by
        rw [hr] at hstate
        cases hstate
      rw [takeSweep, if_neg hidle]
      exact fun _ => h.sound

end

/-- Settles O8: the agreement of records, index, sets and queues holds at every point of a take, but for the waiters whose
results are still to be handed over, and each token issued has room below the counter's end. -/
theorem recordsKeepTheHoldingRules : Obligations.RecordsKeepTheHoldingRules := by
  intro s t hs hready hnormal hsound hroom hstep hreadyt hnormalt
  rw [step] at hstep
  split at hstep
  · obtain rfl := Host.Outcome.next.inj hstep
    exact hsound
  next i rest _ =>
    have hstart := hsound.orderly hs hnormal hroom
    exact exec_sound (s := s.setPending rest) (hstart.of_beside ⟨Store.alike.refl _, rfl, rfl, rfl, rfl, rfl, id, id⟩
      (State.between_of_main hs rfl rfl id) rfl) hready hstep hreadyt hnormalt

end Sys2Proof.Machine
end
